-- ==== Sys2Proof/Word.lean ====
section
/-! DEFINITION. Word.lean: the words of the machine (R6, R7, R98, R132) and the names that its steps take as operands. -/
namespace Sys2Proof

/-- A 64-bit register, belt position or virtual address (R98, R99). -/
abbrev Word := BitVec 64

/-- A byte of memory (R6). -/
abbrev Byte := BitVec 8

/-- A row of the accumulator file: 2,048 bits without a type (R132). -/
abbrev Row := BitVec 2048

/-- A lane mask: lane `l` in bit `l` (R133). -/
abbrev LaneMask := BitVec 256

/-- Who stores a word into an endpoint: a fabric source identifier, or a core (R25). -/
inductive StoreSource where
  | host (id : BitVec 32)
  | core (c : Fin 256)
  deriving DecidableEq, Repr

/-- An endpoint: window `k` of vale `v`'s interface (R33), or endpoint number `e` of the task endpoint window (R189). -/
inductive Endpoint where
  | window (v : Fin 16) (k : Fin 8)
  | task (e : BitVec 12)
  deriving DecidableEq, Repr

/-- A resource that a vale owns (R46, R57). Pseudo-channel `c` of stack `s` is channel `64·s + c`. -/
inductive Resource where
  | core (c : Fin 256)
  | slice (s : Fin 128)
  | channel (ch : Fin 512)
  deriving DecidableEq, Repr

/-- What a host node advertises at training (R277): the atomic operations its port performs, on 4 bytes and on 8 (bit
`k` for operation code `k` of R275), and whether it performs a 32-bit and a 64-bit CAS. -/
structure HostAtomics where
  amo32 : BitVec 9
  amo64 : BitVec 9
  cas32 : Bool
  cas64 : Bool
  deriving DecidableEq, Repr

/-- A device of the domain that is reached through a port: a host node or a PX1 device (R277, R316), and the number of its egress
switch; a link with no switch has a number of its own (R278). -/
structure Reached where
  dev    : BitVec 10
  host   : Option HostAtomics
  switch : Nat
  deriving DecidableEq, Repr

/-- What a port learns at training (R277, R316): the partner's device index and domain identity, the source identifiers of the
host nodes and the devices of the domain that are reached through it. -/
structure Partner where
  index  : BitVec 10
  domain : Word
  hosts  : List (BitVec 32)
  vias   : List Reached
  deriving DecidableEq, Repr

/-- A 256-byte flit (R317): bytes 0 to 7 the header (sequence number, acknowledgement, credits), bytes 8 to 247 the payload, bytes
248 to 255 the CRC-64 over bytes 0 to 247. -/
structure Flit where
  seq     : BitVec 16
  ack     : BitVec 16
  credits : BitVec 32
  payload : BitVec 1920
  crc     : BitVec 64
  deriving DecidableEq, Repr

/-- What a peer asks for (R320, R344). -/
inductive PeerOp where
  | read
  | write (data : List Byte)
  | amo (op : BitVec 4) (v : Word)
  | cas (cmp new : Word)
  deriving DecidableEq, Repr


/-- What comes back for a domain access of this device (R190, R312): data, data marked poisoned, a refusal (R320, R344), an
unbound peer (R320). -/
inductive PeerAnswer where
  | data (bytes : List Byte)
  | poison
  | denied
  | unbound
  deriving DecidableEq, Repr

/-- Which agent a domain access belongs to: one of a core (R278), or a vale's graph engine, whose stores go to the domain
as well (R345). -/
inductive DomAgent where
  | lead
  | engine (e : Fin 4)
  | graph (v : Fin 16)
  deriving DecidableEq, Repr

/-- The place of a domain write in its source's order (R278): the core and agent that send it, the egress switch, the number, and how
often the numbers of the source through that switch have started again (R319). -/
structure WriteOrder where
  core : Fin 256
  who  : DomAgent
  path : Nat
  era  : Nat
  seq  : BitVec 32
  deriving DecidableEq, Repr

/-- A domain access that arrives from vale `vale` of device `dev` (R320); a write of another device with its place in the order of
its source (R278). -/
structure PeerRequest where
  dev   : BitVec 10
  vale  : BitVec 4
  addr  : Word
  len   : Nat
  op    : PeerOp
  order : Option WriteOrder
  deriving DecidableEq, Repr

/-- A fabric source's access through a window or the management region (R33, R34, R322, R344); `write` holds the
bytes written, or nothing for a read. -/
structure HostAccess where
  src   : BitVec 32
  port  : Fin 18
  addr  : Word
  len   : Nat
  write : Option (List Byte)
  deriving DecidableEq, Repr

/-- A lead slice: the management core's, or a core's (R100). -/
inductive LeadId where
  | mgmt
  | core (c : Fin 256)
  deriving DecidableEq, Repr

/-- Where an uncorrectable error strikes (R312): an aligned 8-byte word of DRAM, of a scratchpad or of firmware memory
(by word number), or the task state of a core, held for its lane slice or its lead slice, with its region snapshot or
not. -/
inductive ErrorAt where
  | dram (w : Nat)
  | scratch (c : Fin 256) (w : Nat)
  | firmware (w : Nat)
  | l1 (c : Fin 256) (va8 : Nat)
  | taskState (c : Fin 256) (lane snapLost : Bool)
  deriving DecidableEq, Repr

/-- A resource that firmware may power-gate (R214). -/
inductive GatedRes where
  | bank (c : Fin 256) (b : Fin 32)
  | way (s : Fin 128) (w : Fin 16)
  deriving DecidableEq, Repr

/-- The fields of a lane word beside its opcode (R86). -/
structure LaneWord where
  stop : Bool
  ty   : BitVec 4
  dst  : BitVec 8
  a    : BitVec 8
  b    : BitVec 8
  c    : BitVec 8
  mask : BitVec 3
  minv : Bool
  dem  : BitVec 3
  fn   : BitVec 13
  deriving DecidableEq, Repr

end Sys2Proof
end

