-- ==== Sys2Proof/Syntax.lean ====
section
/-! DEFINITION. Syntax.lean: every row of the table of operations and events, one constructor each, with the operands
that the spec gives the row. A lead or bank word keeps its operand fields (R76, R84, R85), a lane word the fields of R86,
an event the names of what it happens to; a row without operands acts on the agent in turn, or on the whole device.
The rows without operands stand last. -/
namespace Sys2Proof

/-- The instructions and events of the PX1, those with operands in the order of the table, then those without. -/
inductive Instr where
  /-- ENDPOINT_STORE (R25). An 8-byte store from a host or task reaches an endpoint; the word is appended to the source's assembly buffer, or the open packet is dropped, under the word-index rules. -/
  | endpointStore (src : StoreSource) (ep : Endpoint) (off : BitVec 12) (bytes : Nat) (data : Word)
  /-- PACKET_TIMEOUT (R25). A packet not closed within 10 µs of its first word is discarded and counted as dropped. -/
  | packetTimeout (src : StoreSource) (ep : Endpoint)
  /-- IMAGE_UNLOAD_COMPLETE (R18). Once no task runs a pending-unload image and no graph in flight names it, its pages return to writable data pages. -/
  | imageUnloadComplete (v : Fin 16) (base : Word)
  /-- FIFO_AGE_PROMOTION (R53). An entry whose age passes 100 µs in FIFO 0, 1 or 2 moves to the tail of the next higher FIFO with age zero. -/
  | fifoAgePromotion (v : Fin 16) (f : Fin 3)
  /-- SHADOW_UPDATE (R54). A fill, eviction, invalidation or scrub of a core's basins reaches the graph engine's shadow after a lag of 0 to 1 µs. -/
  | shadowUpdate (v : Fin 16) (c : Fin 256)
  /-- LOCK (R36). IF_CTL LOCK checks the vale's condition, draws a fresh key, resets the attestation record, samples the frozen set and enters CONFIG_LOCKED. -/
  | lock (v : Fin 16)
  /-- START (R36). IF_CTL START takes a CONFIG_LOCKED interface to RUN, where the launch window accepts LAUNCH. -/
  | start (v : Fin 16)
  /-- STOP (R36). IF_CTL STOP abandons any report and begins the scrub of the vale, after which the interface enters CONFIG_UNLOCKED. -/
  | stop (v : Fin 16)
  /-- REPORT (R38). IF_CTL REPORT samples the report fields, sets REPORT_BUSY and begins assembling and signing the interface report. -/
  | report (v : Fin 16)
  /-- REPORT_COMPLETE (R38). The 512-byte signed report is placed in IF_REPORT and REPORT_BUSY clears. -/
  | reportComplete (v : Fin 16)
  /-- RESET (R36). IF_CTL RESET takes an ERROR interface whose scrub has ended to CONFIG_UNLOCKED and increments GEN. -/
  | reset (v : Fin 16)
  /-- FROZEN_REGISTER_WRITE (R35). A write to a frozen register leaves it unchanged and sends CONFIG_LOCKED or RUN interfaces to ERROR with cause 320 and a scrub. -/
  | frozenRegisterWrite (addr : Word) (data : Word) (fabric : Option (BitVec 32))
  /-- INTEGRITY_FAILURE (R36). An uncorrectable error in frozen registers, key slot or attestation record sends the interface to ERROR with cause 321 and a scrub. -/
  | integrityFailure (v : Fin 16)
  /-- SCRUB_COMPLETE (R37). Step 5 of a scrub finishes and SCRUB_BUSY clears; after a STOP the windows serve again in CONFIG_UNLOCKED. -/
  | scrubComplete (v : Fin 16)
  /-- MBX_POP (R34). A write to MBX_POP moves the head packet of the named FIFO into MBX_HEAD and MBX_WORD0 to MBX_WORD7. -/
  | mbxPop (v : Fin 16) (data : Word)
  /-- REGISTER_WRITE (R313). A management write to a register without a row of its own is taken in the block's serial order and applied or ignored under its field rules. -/
  | registerWrite (addr : Word) (data : Word)
  /-- ARM (R42). SEC_CTL ARM draws fresh keys into an EMPTY key slot, making it ARMED. -/
  | arm (k : Fin 64)
  /-- ZERO (R42). SEC_CTL ZERO zeroises a key slot that no owning vale names, and every copy of it in the channel controllers. -/
  | zero (k : Fin 64)
  /-- SIGNER_SET (R42). SEC_CTL SIGNER_SET loads a P-384 public key into a signer slot and sends locked or running interfaces to ERROR with cause 323. -/
  | signerSet (j : Fin 64)
  /-- SIGNER_CLEAR (R42). SEC_CTL SIGNER_CLEAR empties a signer slot and sends locked or running interfaces to ERROR with cause 323. -/
  | signerClear (j : Fin 64)
  /-- RESIZE (R59). VALE_CTL RESIZE checks the NEXT masks and migration list and either refuses or fixes the joining and leaving sets and leaves STABLE. -/
  | resize (v : Fin 16)
  /-- CLEARERR (R49). VALE_CTL CLEARERR clears PRED_ERR, PRED_NODE and WR_ERR. -/
  | clearerr (v : Fin 16)
  /-- VALE_KEY_WRITE (R47). A write to VALE_KEY names a new ARMED slot and loads its keys into every owned channel controller, or is refused. -/
  | valeKeyWrite (v : Fin 16) (data : Word)
  /-- VALE_ASID_WRITE (R47). A write to VALE_ASID sets the vale's address-space identifier, or is refused for BAD, BUSY or CONFLICT. -/
  | valeAsidWrite (v : Fin 16) (data : Word)
  /-- VALE_PRIO_WRITE (R47). A write to VALE_PRIO sets the vale's arbitration class, or is refused. -/
  | valePrioWrite (v : Fin 16) (data : Word)
  /-- JOINING_RESOURCE_OWNED (R60). A joining core, slice or channel finishes its scrub and its mask bit is set; when all are owned, GROW_PENDING ends. -/
  | joiningResourceOwned (v : Fin 16) (r : Resource)
  /-- LEAVING_CORE_FREE (R61). A leaving core, having had its task discarded and its state written back and scrubbed, becomes free; when all are free, SHRINK_PENDING ends. -/
  | leavingCoreFree (v : Fin 16) (c : Fin 256)
  /-- REHASH_SET (R63). The rehash walker hands over the lines of one set to their new homes and sets MIGRATED for it; after set 1,023 the old hash is dropped. -/
  | rehashSet (v : Fin 16)
  /-- MIGRATION_ENTRY (R65). A migration entry write-holds SRC, copies it to DST re-encrypted, rewrites the leaf entry, shoots down translations and releases the hold. -/
  | migrationEntry (v : Fin 16)
  /-- SETTLE_COMPLETE (R58). Transit slices and channels are scrubbed and free and shootdowns have ended; RESULT becomes DONE and RSTATE STABLE. -/
  | settleComplete (v : Fin 16)
  /-- SHOOT (R198). MEM_CTL SHOOT invalidates the vale ASID's translations and writes back and invalidates its L1 lines. -/
  | shoot (v : Fin 16)
  /-- SHOOT_COMPLETE (R198). A shootdown ends and SHOOT_BUSY clears. -/
  | shootComplete (v : Fin 16)
  /-- TRANS_ROOT_WRITE (R197). A write to TRANS_ROOT sets the vale's page-table root, or is refused with LOCKED, BUSY or BAD. -/
  | transRootWrite (v : Fin 16) (data : Word)
  /-- LEASE_WRITE (R197). A write to LEASE sets the .si lease for copies granted afterwards, or is refused. -/
  | leaseWrite (v : Fin 16) (data : Word)
  /-- CC_FRAME_WRITE (R200). A write to CC_FRAME registers or unregisters a compute-capable frame with its channel controller. -/
  | ccFrameWrite (ch : Fin 512) (k : Fin 32) (data : Word)
  /-- CAPTURE (R310). CORE_CTL CAPTURE stops the task at a stop point and issue boundary and writes the capture image to CTX_ADDR. -/
  | capture (c : Fin 256)
  /-- CAPTURE_COMPLETE (R311). The capture image has been written; STATE becomes CAPTURED and CTX_VALID is set. -/
  | captureComplete (c : Fin 256)
  /-- RESUME (R310). CORE_CTL RESUME continues a TRAPPED or CAPTURED task under R299. -/
  | resume (c : Fin 256)
  /-- DISCARD (R310). CORE_CTL DISCARD requests a discard of the core's task, which returns to the pool. -/
  | discard (c : Fin 256)
  /-- ABORT (R330). CORE_CTL ABORT discards the task without return to the pool and fails its graph. -/
  | abort (c : Fin 256)
  /-- DISCARD_PROCEED (R307). Once no atomic is in flight and the task is not sealed, the discard stops issue, drops queues and cancels engines. -/
  | discardProceed (c : Fin 256)
  /-- GRAPH_ABORT_COMPLETE (R330). The last task of an aborted graph stops and the completion value XOR bit 63 is written. -/
  | graphAbortComplete (v : Fin 16) (g : Nat)
  /-- TEARDOWN (R331). HUB_CTL TEARDOWN drops the vale's work, zeroises its key, scrubs and frees its resources and resets its registers. -/
  | teardown (v : Fin 16)
  /-- GATE_BANKS_WRITE (R323). A write to GATE_BANKS gates or wakes scratchpad banks, deferring gating of banks that hold a running allocation. -/
  | gateBanksWrite (c : Fin 256) (data : Word)
  /-- GATE_WAYS_WRITE (R214). A write to GATE_WAYS writes back and gates L2 ways, or wakes them empty. -/
  | gateWaysWrite (s : Fin 128) (data : Word)
  /-- POWER_LIMITING (R332). While module power exceeds WATTS the hub lowers VDD, inserts idle clk and lowers regulator limits. -/
  | powerLimiting (power : BitVec 12) (vdd : BitVec 10)
  /-- ACTIVATE_DELAY (R295). An activate that would exceed LIMIT in the rolling 1 µs window is delayed until the window allows it. -/
  | activateDelay (stk : Fin 8)
  /-- RETRAIN (R324). PORT_CTL RETRAIN starts training of the port. -/
  | retrain (p : Fin 18)
  /-- DISABLE (R324). PORT_CTL DISABLE takes the port to DOWN. -/
  | disable (p : Fin 18)
  /-- PARTNER_DETECTED (R316). A partner is detected on a DOWN port, which enters TRAIN. -/
  | partnerDetected (p : Fin 18)
  /-- TRAINING_DONE (R316). Equalisation ends, four lanes are mapped, identities and atomics are exchanged and the port enters UP. -/
  | trainingDone (p : Fin 18) (good : BitVec 5) (partner : Partner)
  /-- TRAINING_FAILURE (R316). Training fails and the port returns to DOWN. -/
  | trainingFailure (p : Fin 18)
  /-- TRAINING_RETRY (R316). Every 100 ms a DOWN port whose training failed makes a new attempt. -/
  | trainingRetry (p : Fin 18)
  /-- FLIT_RECEIVE (R317). A 256-byte flit arrives; a bad CRC requests replay, otherwise it is handed to the transaction layer once and in order. -/
  | flitReceive (p : Fin 18) (x : Flit) (first : Bool)
  /-- LANE_FAILURE (R316). A lane fails; with a good spare the port enters REPAIR, otherwise RETRAIN. -/
  | laneFailure (p : Fin 18) (l : Fin 5)
  /-- LANE_MAP_SWITCH (R318). After the outstanding replay completes, the lane map switches to the spare at a flit boundary and the port resumes in UP. -/
  | laneMapSwitch (p : Fin 18)
  /-- RETRAIN_COMPLETE (R316). A retraining port keeps its sequence state and returns to UP. -/
  | retrainComplete (p : Fin 18) (good : BitVec 5)
  /-- RETRAIN_FAILURE (R316). Retraining fails and the port goes DOWN. -/
  | retrainFailure (p : Fin 18)
  /-- DOMAIN_REQUEST (R320). A domain access arrives at a device and is served in the bound local vale, or refused. -/
  | domainRequest (q : PeerRequest)
  /-- DOMAIN_RESPONSE (R190). The response to a domain access returns to the requesting device and completes the access. -/
  | domainResponse (dev : BitVec 10) (id : Nat) (ans : PeerAnswer)
  /-- DOMAIN_TIMEOUT (R321). A domain request receives no response within 20 µs and completes with TIMEOUT. -/
  | domainTimeout (dev : BitVec 10) (id : Nat) (done : Bool)
  /-- SWITCH_COUNTER_RETURN (R278). An egress switch advances a source's prefix counter and returns it, acknowledging the domain writes it passes. -/
  | switchCounterReturn (c : Fin 256) (who : DomAgent) (sw : Nat) (n : BitVec 32)
  /-- HOST_WINDOW_ACCESS (R344). A host access through a kind 4 memory window is translated and served, or completes with an error. -/
  | hostWindowAccess (q : HostAccess)
  /-- LEASE_EXPIRY (R204). The lease of a .si L1 copy ends and the copy is dropped. -/
  | leaseExpiry (c : Fin 256) (va8 : Nat)
  /-- WFILL (R253). A WFILL record makes a tile resident in the basins with the requested replicas. -/
  | wfill (c : Fin 256) (n : Nat)
  /-- MMA (R250). An MMA record finds or fills its tile and drives A rows through the basins, forming rounded products into accumulator rows. -/
  | mma (c : Fin 256) (n : Nat)
  /-- MTHR (R252). An MTHR record compares each b1 column count with a threshold and writes the result bits into accumulator rows. -/
  | mthr (c : Fin 256) (n : Nat)
  /-- FILL_COMPLETE (R242). A basin fill finishes writing and the basin is marked valid with its tag. -/
  | fillComplete (c : Fin 256) (b : Fin 32)
  /-- COLL_EXCHANGE_COMPLETE (R327). A collective exchange delivers its result, the record's destination writes are performed and it adds to its barrier. -/
  | collExchangeComplete (g : Fin 64) (others : List (List Byte))
  /-- RUN (R284). A RUN bank command is served: after its checks it starts one handler run in every named bank. -/
  | run (ch : Fin 512)
  /-- INSTALL (R285). An INSTALL bank command reads a 256-byte handler slot and installs, clears or rejects it. -/
  | install (ch : Fin 512)
  /-- BANK_PACKET_TAKEN (R282). A closed bank command packet whose W5 passes enters the channel's command FIFO when an entry is free. -/
  | bankPacketTaken (c : Fin 256) (ch : Fin 512)
  /-- BANK_COMMAND_COMPLETE (R288). Every run of a bank command has ended or it was rejected; the core writes its status record and barrier add. -/
  | bankCommandComplete (ch : Fin 512)
  /-- TASK_MAILBOX_PACKET (R302). A packet closed at the task mailbox enters the hub's 64-entry FIFO when there is room. -/
  | taskMailboxPacket (c : Fin 256)
  /-- CORRECTED_ERROR (R312). A soft error is corrected and logged as kind 0. -/
  | correctedError (c : Fin 256) (agent : Fin 4)
  /-- UNCORRECTABLE_ERROR (R312). Uncorrectable data poisons its word, or uncorrectable task state discards or aborts the task. -/
  | uncorrectableError (w : ErrorAt)
  /-- BASIN_PARITY_ERROR (R312). A driven basin row fails parity; the basin is invalidated and refilled once, or 377 is raised. -/
  | basinParityError (c : Fin 256) (b : Fin 32)
  /-- VLDX_LANDING (R134). A gathered VLDX row lands whole and its F bit becomes 1 in the same clk. -/
  | vldxLanding (c : Fin 256) (row : Fin 256)
  /-- ADD (R105). Pushes or writes (a + b) mod 2^64. -/
  | add (d : BitVec 5) (a : BitVec 5) (b : BitVec 5)
  /-- SUB (R105). Pushes or writes (a − b) mod 2^64. -/
  | sub (d : BitVec 5) (a : BitVec 5) (b : BitVec 5)
  /-- MUL (R105). Low 64 bits of the product. -/
  | mul (d : BitVec 5) (a : BitVec 5) (b : BitVec 5)
  /-- MULH (R105). High half of the signed 128-bit product. -/
  | mulh (d : BitVec 5) (a : BitVec 5) (b : BitVec 5)
  /-- MULHN (R105). High half of the unsigned 128-bit product. -/
  | mulhn (d : BitVec 5) (a : BitVec 5) (b : BitVec 5)
  /-- DIV (R105). Signed division truncated toward zero, never faulting. -/
  | div (d : BitVec 5) (a : BitVec 5) (b : BitVec 5)
  /-- DIVN (R105). Unsigned division, never faulting. -/
  | divn (d : BitVec 5) (a : BitVec 5) (b : BitVec 5)
  /-- REM (R105). Signed remainder with the sign of a. -/
  | rem (d : BitVec 5) (a : BitVec 5) (b : BitVec 5)
  /-- REMN (R105). Unsigned remainder. -/
  | remn (d : BitVec 5) (a : BitVec 5) (b : BitVec 5)
  /-- AND (R105). Bitwise AND. -/
  | and (d : BitVec 5) (a : BitVec 5) (b : BitVec 5)
  /-- OR (R105). Bitwise OR. -/
  | or (d : BitVec 5) (a : BitVec 5) (b : BitVec 5)
  /-- XOR (R105). Bitwise XOR. -/
  | xor (d : BitVec 5) (a : BitVec 5) (b : BitVec 5)
  /-- ANDN (R105). a AND NOT b. -/
  | andn (d : BitVec 5) (a : BitVec 5) (b : BitVec 5)
  /-- SHL (R105). Shift left by b[5:0]. -/
  | shl (d : BitVec 5) (a : BitVec 5) (b : BitVec 5)
  /-- SHR (R105). Logical shift right by b[5:0]. -/
  | shr (d : BitVec 5) (a : BitVec 5) (b : BitVec 5)
  /-- SAR (R105). Arithmetic shift right by b[5:0]. -/
  | sar (d : BitVec 5) (a : BitVec 5) (b : BitVec 5)
  /-- MIN (R105). Signed minimum. -/
  | min (d : BitVec 5) (a : BitVec 5) (b : BitVec 5)
  /-- MAX (R105). Signed maximum. -/
  | max (d : BitVec 5) (a : BitVec 5) (b : BitVec 5)
  /-- MINN (R105). Unsigned minimum. -/
  | minn (d : BitVec 5) (a : BitVec 5) (b : BitVec 5)
  /-- MAXN (R105). Unsigned maximum. -/
  | maxn (d : BitVec 5) (a : BitVec 5) (b : BitVec 5)
  /-- CLZ (R105). Count of leading zero bits. -/
  | clz (d : BitVec 5) (a : BitVec 5)
  /-- CTZ (R105). Count of trailing zero bits. -/
  | ctz (d : BitVec 5) (a : BitVec 5)
  /-- POPC (R105). Count of one bits. -/
  | popc (d : BitVec 5) (a : BitVec 5)
  /-- MOV (R105). Copies a. -/
  | mov (d : BitVec 5) (a : BitVec 5)
  /-- CMPEQ (R106). 1 if a equals b, else 0. -/
  | cmpeq (d : BitVec 5) (a : BitVec 5) (b : BitVec 5)
  /-- CMPNE (R106). 1 if a differs from b. -/
  | cmpne (d : BitVec 5) (a : BitVec 5) (b : BitVec 5)
  /-- CMPLT (R106). Signed less-than. -/
  | cmplt (d : BitVec 5) (a : BitVec 5) (b : BitVec 5)
  /-- CMPLE (R106). Signed less-or-equal. -/
  | cmple (d : BitVec 5) (a : BitVec 5) (b : BitVec 5)
  /-- CMPLTN (R106). Unsigned less-than. -/
  | cmpltn (d : BitVec 5) (a : BitVec 5) (b : BitVec 5)
  /-- CMPLEN (R106). Unsigned less-or-equal. -/
  | cmplen (d : BitVec 5) (a : BitVec 5) (b : BitVec 5)
  /-- SEL (R106). a if c is nonzero, else b. -/
  | sel (d : BitVec 5) (a : BitVec 5) (b : BitVec 5) (c : BitVec 5)
  /-- SEXT (R106). Sign-extends the low 8, 16 or 32 bits. -/
  | sext (d : BitVec 5) (a : BitVec 5) (width : BitVec 2)
  /-- ZEXT (R106). Zero-extends the low 8, 16 or 32 bits. -/
  | zext (d : BitVec 5) (a : BitVec 5) (width : BitVec 2)
  /-- FSHL (R106). Funnel shift left of a:b by k. -/
  | fshl (d : BitVec 5) (a : BitVec 5) (b : BitVec 5) (k : BitVec 6)
  /-- FSHR (R106). Funnel shift right of a:b by k. -/
  | fshr (d : BitVec 5) (a : BitVec 5) (b : BitVec 5) (k : BitVec 6)
  /-- INS (R107). Inserts the low len bits of b into a at pos. -/
  | ins (d : BitVec 5) (a : BitVec 5) (b : BitVec 5) (pos : BitVec 6) (len1 : BitVec 5)
  /-- FADD (R109). Rounded f64 or f32 sum. -/
  | fadd (d : BitVec 5) (a : BitVec 5) (b : BitVec 5) (rnd : BitVec 2) (p : Bool)
  /-- FMUL (R109). Rounded f64 or f32 product. -/
  | fmul (d : BitVec 5) (a : BitVec 5) (b : BitVec 5) (rnd : BitVec 2) (p : Bool)
  /-- FFMA (R109). a × b + c with one rounding. -/
  | ffma (d : BitVec 5) (a : BitVec 5) (b : BitVec 5) (c : BitVec 5) (rnd : BitVec 2) (p : Bool)
  /-- FCMP (R110). Float comparison yielding 1 or 0. -/
  | fcmp (d : BitVec 5) (a : BitVec 5) (b : BitVec 5) (cond : BitVec 5) (p : Bool)
  /-- FCVT (R111). Converts between f64, f32, f16 and 64-bit integers. -/
  | fcvt (d : BitVec 5) (a : BitVec 5) (conv : BitVec 3) (rnd : BitVec 2)
  /-- JR (R113). Jumps to the address in a. -/
  | jr (a : BitVec 5)
  /-- ADDI (R108). Adds a sign-extended immediate. -/
  | addi (d : BitVec 5) (a : BitVec 5) (imm : BitVec 16)
  /-- ANDI (R108). ANDs a sign-extended immediate. -/
  | andi (d : BitVec 5) (a : BitVec 5) (imm : BitVec 16)
  /-- ORI (R108). ORs a sign-extended immediate. -/
  | ori (d : BitVec 5) (a : BitVec 5) (imm : BitVec 16)
  /-- XORI (R108). XORs a sign-extended immediate. -/
  | xori (d : BitVec 5) (a : BitVec 5) (imm : BitVec 16)
  /-- SHLI (R108). Shift left by an immediate count. -/
  | shli (d : BitVec 5) (a : BitVec 5) (k : BitVec 6)
  /-- SHRI (R108). Logical shift right by an immediate count. -/
  | shri (d : BitVec 5) (a : BitVec 5) (k : BitVec 6)
  /-- SARI (R108). Arithmetic shift right by an immediate count. -/
  | sari (d : BitVec 5) (a : BitVec 5) (k : BitVec 6)
  /-- LI (R108). Loads a sign-extended 16-bit immediate. -/
  | li (d : BitVec 5) (imm : BitVec 16)
  /-- LIH (R108). Shifts a left by 16 and appends the immediate. -/
  | lih (d : BitVec 5) (a : BitVec 5) (imm : BitVec 16)
  /-- LEA (R108). Adds the immediate times 64. -/
  | lea (d : BitVec 5) (a : BitVec 5) (imm : BitVec 16)
  /-- EXTR (R108). Extracts a zero-extended bit field. -/
  | extr (d : BitVec 5) (a : BitVec 5) (len1 : BitVec 6) (pos : BitVec 6)
  /-- CSRRD (R303). Reads a CSR. -/
  | csrrd (d : BitVec 5) (csr : BitVec 12)
  /-- CSRWR (R303). Writes a CSR, raising 326 for a read-only CSR. -/
  | csrwr (a : BitVec 5) (csr : BitVec 12)
  /-- BZ (R112). Branches when a is zero. -/
  | bz (a : BitVec 5) (off : BitVec 21)
  /-- BNZ (R112). Branches when a is nonzero. -/
  | bnz (a : BitVec 5) (off : BitVec 21)
  /-- JMP (R112). Jumps by a signed word offset. -/
  | jmp (off : BitVec 21)
  /-- JAL (R112). Writes the return address to n15 and jumps. -/
  | jal (off : BitVec 21)
  /-- LD (R210). Checks the address and enters the load queue; the loaded value is pushed or written. -/
  | ld (d : BitVec 5) (base : BitVec 5) (rq : BitVec 2) (size : BitVec 3) (span : BitVec 4) (off : BitVec 7)
  /-- ST (R210). Checks the address and enters the store queue. -/
  | st (src : BitVec 5) (base : BitVec 5) (rq : BitVec 2) (size : BitVec 3) (span : BitVec 4) (off : BitVec 7)
  /-- PF (R210). Prefetches a span into L1 under a request type, never faulting. -/
  | pf (base : BitVec 5) (rq : BitVec 2) (span : BitVec 4) (off : BitVec 7)
  /-- FENCE (R273). An acquire, release or full fence of a scope, ordering the lead queues and dropping .wt and .si words. -/
  | fence (scope : BitVec 2) (kind : BitVec 2)
  /-- AMO (R275). Atomic read-modify-write of 4 or 8 bytes, returning the old value. -/
  | amo (d : BitVec 5) (a : BitVec 5) (b : BitVec 5) (op : BitVec 4) (wide : Bool)
  /-- CAS (R275). Atomic compare-and-swap, returning the old value. -/
  | cas (d : BitVec 5) (a : BitVec 5) (b : BitVec 5) (c : BitVec 5) (wide : Bool)
  /-- BARINIT (R228). Sets EXPECT and clears ARRIVED and PHASE of a barrier object. -/
  | barinit (a : BitVec 5) (id : BitVec 6)
  /-- BARARM (R228). Sets EXPECT and applies a zero add that may flip the phase. -/
  | bararm (a : BitVec 5) (id : BitVec 6)
  /-- BARARRIVE (R228). Adds a byte count to a barrier object. -/
  | bararrive (a : BitVec 5) (id : BitVec 6)
  /-- BARWAIT (R229). Waits until the phase differs from a[0] and acquires the counted writes, or raises 195. -/
  | barwait (a : BitVec 5) (id : BitVec 6)
  /-- BARTEST (R228). Yields 1 and acquires if the phase differs from a[0], else 0. -/
  | bartest (d : BitVec 5) (a : BitVec 5) (id : BitVec 6)
  /-- FORK (R114). Starts a lane stream at a fork token's entry. -/
  | fork (id : BitVec 6)
  /-- JOIN (R115). Waits for the stream's VEND and writes, then checks the steering queue and ends the stream. -/
  | join (id : BitVec 6)
  /-- LPW (R116). Writes a loop register. -/
  | lpw (a : BitVec 5) (k : BitVec 4)
  /-- ENQ (R117). Reads and checks a record and its patterns and places it in an engine queue. -/
  | enq (a : BitVec 5)
  /-- ECANCEL (R119). Removes unbegun records of a tag and waits for begun ones to complete. -/
  | ecancel (tag : BitVec 6)
  /-- WPTR (R120). Reads a copy channel's write pointer and acquires the prefix it counts. -/
  | wptr (d : BitVec 5) (ch : Bool)
  /-- ESTAT (R121). Reads an engine queue's status word. -/
  | estat (d : BitVec 5) (e : BitVec 2)
  /-- SPMASK (R122). Pushes a MASK entry from four named registers. -/
  | spmask (k : BitVec 4)
  /-- SPMASKN (R122). Pushes a MASK of the lowest a lanes. -/
  | spmaskn (a : BitVec 5)
  /-- SPCOUNT (R122). Pushes a COUNT entry. -/
  | spcount (a : BitVec 5)
  /-- SPFLAG (R122). Pushes a FLAG entry. -/
  | spflag (a : BitVec 5)
  /-- SPVAL (R122). Pushes a VALUE entry. -/
  | spval (a : BitVec 5)
  /-- BPIN (R257). Fills if needed and pins a tile slice's basin. -/
  | bpin (a : BitVec 5) (x : BitVec 3)
  /-- BUNPIN (R257). Releases a pinned slice. -/
  | bunpin (a : BitVec 5) (x : BitVec 3)
  /-- BINVAL (R258). Marks a tile's basins stale within a scope and retires when they are invalid. -/
  | binval (a : BitVec 5) (scope : BitVec 2)
  /-- BPROBE (R260). Reports whether and where a tile slice is resident. -/
  | bprobe (d : BitVec 5) (a : BitVec 5) (x : BitVec 3)
  /-- BFILL (R261). Enqueues an untagged one-slice WFILL record. -/
  | bfill (a : BitVec 5) (x : BitVec 3)
  /-- TRAP (R301). Raises cause 324 with a code. -/
  | trap (k : BitVec 6)
  /-- BRK (R301). Raises breakpoint cause 325 with a code. -/
  | brk (k : BitVec 6)
  /-- REGION (R126). Drains engines, stores and bank commands, snapshots live-ins, barriers, status and pins, and appends a marker. -/
  | region (bfirst : BitVec 6) (bcount : BitVec 4) (live : BitVec 16)
  /-- BKRD (R286). A bank handler reads 8 bytes of its bank. -/
  | bkrd (d : BitVec 5) (a : BitVec 5)
  /-- BKWR (R286). A bank handler writes 8 bytes of its bank. -/
  | bkwr (a : BitVec 5) (b : BitVec 5)
  /-- BKRED (R286). A bank handler reduces up to 1,024 elements of its bank. -/
  | bkred (d : BitVec 5) (a : BitVec 5) (b : BitVec 5) (op : BitVec 2) (ty : BitVec 4)
  /-- BKAMO (R286). A bank handler performs an atomic at the channel controller. -/
  | bkamo (d : BitVec 5) (a : BitVec 5) (b : BitVec 5) (op : BitVec 4) (wide : Bool)
  /-- BKSEND (R291). A bank handler sends a partial to the command's combiner. -/
  | bksend (a : BitVec 5)
  /-- VADD (R146). Lane-wise rounded float or complex sum. -/
  | vadd (w : LaneWord)
  /-- VSUB (R146). Lane-wise rounded difference. -/
  | vsub (w : LaneWord)
  /-- VMUL (R146). Lane-wise rounded product. -/
  | vmul (w : LaneWord)
  /-- VFMA (R146). Lane-wise fused multiply-add. -/
  | vfma (w : LaneWord)
  /-- VFMS (R146). Lane-wise fused multiply-subtract. -/
  | vfms (w : LaneWord)
  /-- VNEG (R146). Inverts sign bits. -/
  | vneg (w : LaneWord)
  /-- VABS (R146). Clears sign bits. -/
  | vabs (w : LaneWord)
  /-- VMIN (R147). Lane-wise float minimum. -/
  | vmin (w : LaneWord)
  /-- VMAX (R147). Lane-wise float maximum. -/
  | vmax (w : LaneWord)
  /-- VCMP (R148). Float comparison into a mask. -/
  | vcmp (w : LaneWord)
  /-- VCVT (R149). Lane-wise type conversion. -/
  | vcvt (w : LaneWord)
  /-- VCMUL (R151). Complex multiply with optional conjugation. -/
  | vcmul (w : LaneWord)
  /-- VCFMA (R151). Complex fused multiply-add. -/
  | vcfma (w : LaneWord)
  /-- VCONJ (R151). Complex conjugate. -/
  | vconj (w : LaneWord)
  /-- VRCP (R152). Correctly rounded reciprocal. -/
  | vrcp (w : LaneWord)
  /-- VRSQ (R152). Correctly rounded reciprocal square root. -/
  | vrsq (w : LaneWord)
  /-- VSQRT (R152). Correctly rounded square root. -/
  | vsqrt (w : LaneWord)
  /-- VEXP2 (R152). Correctly rounded 2^x. -/
  | vexp2 (w : LaneWord)
  /-- VLOG2 (R152). Correctly rounded log2 x. -/
  | vlog2 (w : LaneWord)
  /-- VTANH (R152). Correctly rounded tanh x. -/
  | vtanh (w : LaneWord)
  /-- VADDI (R153). Lane-wise integer add, wrapping or saturating. -/
  | vaddi (w : LaneWord)
  /-- VSUBI (R153). Lane-wise integer subtract. -/
  | vsubi (w : LaneWord)
  /-- VMULI (R153). Lane-wise integer multiply. -/
  | vmuli (w : LaneWord)
  /-- VMULHI (R153). High half of lane-wise integer product. -/
  | vmulhi (w : LaneWord)
  /-- VAND (R153). Lane-wise AND. -/
  | vand (w : LaneWord)
  /-- VOR (R153). Lane-wise OR. -/
  | vor (w : LaneWord)
  /-- VXOR (R153). Lane-wise XOR. -/
  | vxor (w : LaneWord)
  /-- VANDN (R153). Lane-wise a AND NOT b. -/
  | vandn (w : LaneWord)
  /-- VSHL (R154). Lane-wise shift left by lane or immediate count. -/
  | vshl (w : LaneWord)
  /-- VSHR (R154). Lane-wise logical shift right. -/
  | vshr (w : LaneWord)
  /-- VSAR (R154). Lane-wise arithmetic shift right. -/
  | vsar (w : LaneWord)
  /-- VFSHL (R154). Lane-wise funnel shift left. -/
  | vfshl (w : LaneWord)
  /-- VFSHR (R154). Lane-wise funnel shift right. -/
  | vfshr (w : LaneWord)
  /-- VCLZ (R153). Lane-wise leading-zero count. -/
  | vclz (w : LaneWord)
  /-- VPOPC (R153). Lane-wise population count. -/
  | vpopc (w : LaneWord)
  /-- VMINI (R153). Lane-wise integer minimum. -/
  | vmini (w : LaneWord)
  /-- VMAXI (R153). Lane-wise integer maximum. -/
  | vmaxi (w : LaneWord)
  /-- VSHUF (R155). Lane permutation by index row. -/
  | vshuf (w : LaneWord)
  /-- VSEL (R156). Selects lanes of a or b by mask. -/
  | vsel (w : LaneWord)
  /-- VBCAST (R157). Broadcasts one lane. -/
  | vbcast (w : LaneWord)
  /-- VROT (R157). Rotates lanes. -/
  | vrot (w : LaneWord)
  /-- VRED (R158). Fixed pairwise-tree reduction written to every active lane. -/
  | vred (w : LaneWord)
  /-- VSCAN (R159). Inclusive prefix scan in doubling steps. -/
  | vscan (w : LaneWord)
  /-- MAND (R160). Mask AND. -/
  | mand (w : LaneWord)
  /-- MOR (R160). Mask OR. -/
  | mor (w : LaneWord)
  /-- MXOR (R160). Mask XOR. -/
  | mxor (w : LaneWord)
  /-- MNOT (R160). Mask NOT. -/
  | mnot (w : LaneWord)
  /-- MPOP (R161). Counts set mask bits into a row. -/
  | mpop (w : LaneWord)
  /-- VPOPV (R162). Pops a VALUE into a row or a MASK into a mask register. -/
  | vpopv (w : LaneWord)
  /-- VREP (R163). Pops a COUNT and replays its body that many passes. -/
  | vrep (w : LaneWord)
  /-- VREPF (R138). Replays its body while each popped FLAG is 1. -/
  | vrepf (w : LaneWord)
  /-- VRDV (R164). Writes a replay level's pass index to a row. -/
  | vrdv (w : LaneWord)
  /-- VLD (R166). Loads a row from scratchpad. -/
  | vld (w : LaneWord)
  /-- VST (R166). Stores active lanes of a row to scratchpad. -/
  | vst (w : LaneWord)
  /-- VSTM (R167). Stores a counted number of bytes of a row. -/
  | vstm (w : LaneWord)
  /-- VLDX (R168). Gathers a row from scratchpad by index, marking it empty until it lands. -/
  | vldx (w : LaneWord)
  /-- QSET (R169). Sets a scratchpad pointer. -/
  | qset (w : LaneWord)
  /-- QADD (R169). Adds to a scratchpad pointer. -/
  | qadd (w : LaneWord)
  /-- VZERO (R171). Zeroes active bytes of a row. -/
  | vzero (w : LaneWord)
  /-- VSCA (R172). Scales lanes by a power of two. -/
  | vsca (w : LaneWord)
  /-- VEND (R173). Ends the lane stream and sets VENDED. -/
  | vend (w : LaneWord)
  /-- ILLEGAL_ENCODING (R73). A lead or lane word with an unused opcode, such as the all-zero lead word, is reached for issue and raises cause 0 or 8. -/
  | illegalEncoding (cause : BitVec 9) (word : Word)
  /-- FETCH_DENIED (R69). A lead or lane word fetched outside the pages of a loaded image, or a machine-mode fetch outside firmware memory, is reached for issue and faults precisely. -/
  | fetchDenied (cause : BitVec 9) (addr : Word)
  /-- WAKE_END (R214). A waking L2 way or scratchpad bank finishes its wake, at most 2 µs after its gate bit clears, and becomes usable with nothing readable. -/
  | wakeEnd (r : GatedRes)
  /-- LAUNCH (R27). A LAUNCH packet is served: NOT_RUNNING, ENGINE_FULL or the graph checks are judged, and the response record is written. -/
  | launch
  /-- LOAD (R15). The loader engine write-denies, checks, verifies and measures an image, then sets the page attributes or restores the pages and reports the status. -/
  | load
  /-- UNLOAD (R18). An UNLOAD reports LOADED at once and makes the image's unload pending, or reports NO_IMAGE or NOT_RUNNING. -/
  | unload
  /-- PREDICATE_READ_COMPLETE (R51). A node's predicate read completes; a nonzero value queues the node, zero or error retires it at once. -/
  | predicateReadComplete
  /-- DISPATCH (R54). When a core of the vale is idle and an entry is queued, the graph engine picks the eligible core by affinity and rotating start and starts the next instance. -/
  | dispatch
  /-- FW_STAGE (R42). SEC_CTL FW_STAGE verifies a firmware descriptor's signature and stages the image, sending locked or running interfaces to ERROR. -/
  | fwStage
  /-- FW_ACTIVATE (R42). SEC_CTL FW_ACTIVATE restarts the management core from the staged image and clears STAGED. -/
  | fwActivate
  /-- SEC_COMMAND_COMPLETE (R42). A security engine command finishes, BUSY clears and RESULT reads DONE. -/
  | secCommandComplete
  /-- ENGINE_FAULT_DELIVERY (R297). A latched engine fault is delivered to the lead slice at an issue boundary within 100 clk, abandoning any wait. -/
  | engineFaultDelivery
  /-- TMBX_POP (R302). A write to TMBX_POP moves the head task-mailbox packet into TMBX_HEAD and TMBX_WORD0 to TMBX_WORD7. -/
  | tmbxPop
  /-- TEARDOWN_COMPLETE (R331). A teardown finishes and TD_BUSY clears, after which the windows serve again. -/
  | teardownComplete
  /-- LOAD_QUEUE_PERFORM (R207). The head entry of the lead load queue is performed once its waits are met. -/
  | loadQueuePerform
  /-- STORE_QUEUE_PERFORM (R207). The head entry of the lead store queue is performed at its home, L1, scratchpad, endpoint or peer. -/
  | storeQueuePerform
  /-- RECORD_BEGIN (R215). An engine begins a queued record once the stores before its ENQ are performed, checking its FLAGS, AUX and OPF. -/
  | recordBegin
  /-- CPY (R218). A CPY record copies N source elements to the destination in visit order, converting or conjugating as FLAGS give. -/
  | cpy
  /-- CPYFILL (R220). A CPYFILL record writes the fill value to every destination element. -/
  | cpyfill
  /-- CPYBULK (R224). A CPYBULK record reserves a DRAM bank and streams whole 1 KiB rows with the bank held open. -/
  | cpybulk
  /-- BULK_BANK_RESERVED (R224). A waiting copy channel obtains its bank reservation once no other agent holds the bank. -/
  | bulkBankReserved
  /-- CPYCLOSE (R225). A CPYCLOSE record releases the channel's bank reservation, or raises cause 210. -/
  | cpyclose
  /-- BULK_RESERVATION_TIMEOUT (R225). A reservation whose holder has had no CPYBULK in progress for 50 µs is withdrawn. -/
  | bulkReservationTimeout
  /-- GATHER (R219). A GATHER record reads table elements at the indices of its index list into the destination. -/
  | gather
  /-- SCATTER (R219). A SCATTER record writes source elements to table elements at the indices of its index list. -/
  | scatter
  /-- COPY_RECORD_COMPLETE (R222). A copy record's last write is performed; it adds to its barrier, advances the write pointer and increments DONE. -/
  | copyRecordComplete
  /-- ROW_LANDING (R251). An output row of a matrix record is written whole into its accumulator rows and F becomes 1. -/
  | rowLanding
  /-- MATRIX_RECORD_COMPLETE (R254). A matrix record's last row lands; it adds to its barrier, releases its basins and increments DONE. -/
  | matrixRecordComplete
  /-- COLL (R326). A COLL record joins the exchange of its group and SEQ, or receives its last result again, or raises 308. -/
  | coll
  /-- MANAGEMENT_RESET (R343). A management reset starts the management core at the first word of the firmware image. -/
  | managementReset
  /-- STOP_SPACING (R136). The lane spacing counter would reach 65; after in-flight writes land the lane slice raises cause 44. -/
  | stopSpacing
  /-- LANE_WRITE_LANDING (R135). A lane word's write lands in its row, mask or scratchpad at the end of its latency. -/
  | laneWriteLanding
  /-- MARK (R208). Enters both queues and holds later entries until earlier ones are performed. -/
  | mark
  /-- ERET (R301). In machine mode continues at LS_EPC; in task mode raises 326. -/
  | eret
  /-- HALT (R127). Joins any stream, drains the engines and stores, releases pins and allocation, and retires the task. -/
  | halt
  /-- BKEND (R286). Ends a bank handler run. -/
  | bkend
  /-- LOAD_COMPLETE (R15). The loader engine finishes verifying and measuring an image and sets its page attributes, or restores the pages, and reports the status. -/
  | loadComplete
  /-- DEVICE_RESET (R101). A device reset returns every register to its reset value and starts TIME from 0. -/
  | deviceReset
  deriving DecidableEq, Repr

end Sys2Proof
end

