-- ==== Sys2Proof/Decode.lean ====
section
/-! DEFINITION. Decode.lean: from bits to instructions (R69 to R97), with the cause of every word that is not one,
and the encoder written from the same tables. -/
namespace Sys2Proof

/-- Which sync IDs the image declares, one bit per ID (R13, R84). -/
structure SyncIds where
  forks : BitVec 64
  joins : BitVec 64
  bars  : BitVec 64
  deriving DecidableEq, Repr

/-- Every ID declared. -/
def SyncIds.all : SyncIds := ⟨BitVec.allOnes 64, BitVec.allOnes 64, BitVec.allOnes 64⟩

/-- What decoding gives: an instruction, or the cause code of R73. -/
abbrev Decoded := Except (BitVec 9) Instr

/-- The order of R74 for one word: a field outside its defined set (kind 0), a nonzero reserved field (kind 1),
a forbidden modifier (kind 7), for the agent whose kind 0 is `base`. -/
def checked (base : BitVec 9) (bad0 bad1 bad7 : Bool) (i : Instr) : Decoded :=
  if bad0 then .error base
  else if bad1 then .error (base + 1)
  else if bad7 then .error (base + 7)
  else .ok i

/-- A destination of 1 to 15 (R77). -/
def badDst (d : BitVec 5) : Bool := decide (d ≠ 0) && decide (d < 16)

/-- ID `id` is missing from the declared set `m`. -/
def undeclared (m : BitVec 64) (id : BitVec 6) : Bool := !m.getLsbD id.toNat

/-- The ALUA functions (R80). -/
def aluAInstr (f : Nat) (d a b : BitVec 5) : Option Instr :=
  match f with
  | 0 => some (.add d a b)
  | 1 => some (.sub d a b)
  | 2 => some (.mul d a b)
  | 3 => some (.mulh d a b)
  | 4 => some (.mulhn d a b)
  | 5 => some (.div d a b)
  | 6 => some (.divn d a b)
  | 7 => some (.rem d a b)
  | 8 => some (.remn d a b)
  | 9 => some (.and d a b)
  | 10 => some (.or d a b)
  | 11 => some (.xor d a b)
  | 12 => some (.andn d a b)
  | 13 => some (.shl d a b)
  | 14 => some (.shr d a b)
  | 15 => some (.sar d a b)
  | 16 => some (.min d a b)
  | 17 => some (.max d a b)
  | 18 => some (.minn d a b)
  | 19 => some (.maxn d a b)
  | 20 => some (.clz d a)
  | 21 => some (.ctz d a)
  | 22 => some (.popc d a)
  | 23 => some (.mov d a)
  | _ => none

/-- The ALUA group (R80): functions 20 to 23 take no b. -/
def decodeAluA (d a b f : BitVec 5) (x : BitVec 6) : Decoded :=
  match aluAInstr f.toNat d a b with
  | none => .error 0
  | some i => checked 0 (badDst d) (decide (x ≠ 0) || (decide (20 ≤ f) && decide (b ≠ 0))) false i

/-- The ALUB group (R80). -/
def decodeAluB (d a b f : BitVec 5) (x : BitVec 6) : Decoded :=
  match f.toNat with
  | 0 => checked 0 (badDst d) (decide (x ≠ 0)) false (.cmpeq d a b)
  | 1 => checked 0 (badDst d) (decide (x ≠ 0)) false (.cmpne d a b)
  | 2 => checked 0 (badDst d) (decide (x ≠ 0)) false (.cmplt d a b)
  | 3 => checked 0 (badDst d) (decide (x ≠ 0)) false (.cmple d a b)
  | 4 => checked 0 (badDst d) (decide (x ≠ 0)) false (.cmpltn d a b)
  | 5 => checked 0 (badDst d) (decide (x ≠ 0)) false (.cmplen d a b)
  | 8 => checked 0 (badDst d) (x.getLsbD 5) false (.sel d a b (x.extractLsb' 0 5))
  | 9 => checked 0 (badDst d || decide (x.extractLsb' 0 2 = 3)) (decide (x.extractLsb' 2 4 ≠ 0) || decide (b ≠ 0))
      false (.sext d a (x.extractLsb' 0 2))
  | 10 => checked 0 (badDst d || decide (x.extractLsb' 0 2 = 3)) (decide (x.extractLsb' 2 4 ≠ 0) || decide (b ≠ 0))
      false (.zext d a (x.extractLsb' 0 2))
  | 12 => checked 0 (badDst d) false false (.fshl d a b x)
  | 13 => checked 0 (badDst d) false false (.fshr d a b x)
  | _ => .error 0

/-- INS (R80, R107). -/
def decodeIns (d a b : BitVec 5) (pos : BitVec 6) (len1 : BitVec 5) : Decoded :=
  checked 0 (badDst d || decide (64 < pos.toNat + len1.toNat + 1)) false false (.ins d a b pos len1)

/-- The scalar float group (R81). -/
def decodeFloat (d a b x : BitVec 5) (rnd : BitVec 2) (p : Bool) (sub : BitVec 3) : Decoded :=
  match sub.toNat with
  | 0 => checked 0 (badDst d) (decide (x ≠ 0)) (decide (rnd = 3)) (.fadd d a b rnd p)
  | 1 => checked 0 (badDst d) (decide (x ≠ 0)) (decide (rnd = 3)) (.fmul d a b rnd p)
  | 2 => checked 0 (badDst d) false (decide (rnd = 3)) (.ffma d a b x rnd p)
  | 3 => checked 0 (badDst d || decide (3 < x)) false (decide (rnd ≠ 0)) (.fcmp d a b x p)
  | 4 => checked 0 (badDst d) (decide (x.extractLsb' 3 2 ≠ 0) || p || decide (b ≠ 0)) (decide (rnd = 3))
      (.fcvt d a (x.extractLsb' 0 3) rnd)
  | _ => .error 0

/-- The CSR numbers of R100. -/
def csrDefined (n : BitVec 12) : Bool :=
  decide (n.toNat ≤ 4) || decide (16 ≤ n.toNat ∧ n.toNat ≤ 18) || decide (64 ≤ n.toNat ∧ n.toNat ≤ 79)

/-- The LI format (R82): op 0x08 to 0x13. -/
def decodeImm (op : Nat) (d a : BitVec 5) (imm : BitVec 16) : Decoded :=
  match op with
  | 0x08 => checked 0 (badDst d) false false (.addi d a imm)
  | 0x09 => checked 0 (badDst d) false false (.andi d a imm)
  | 0x0A => checked 0 (badDst d) false false (.ori d a imm)
  | 0x0B => checked 0 (badDst d) false false (.xori d a imm)
  | 0x0C => checked 0 (badDst d) (decide (imm.extractLsb' 6 10 ≠ 0)) false (.shli d a (imm.extractLsb' 0 6))
  | 0x0D => checked 0 (badDst d) (decide (imm.extractLsb' 6 10 ≠ 0)) false (.shri d a (imm.extractLsb' 0 6))
  | 0x0E => checked 0 (badDst d) (decide (imm.extractLsb' 6 10 ≠ 0)) false (.sari d a (imm.extractLsb' 0 6))
  | 0x0F => checked 0 (badDst d) (decide (a ≠ 0)) false (.li d imm)
  | 0x10 => checked 0 (badDst d) false false (.lih d a imm)
  | 0x11 => checked 0 (badDst d) false false (.lea d a imm)
  | 0x12 => checked 0 (badDst d || decide (64 < (imm.extractLsb' 0 6).toNat + (imm.extractLsb' 6 6).toNat + 1))
      (decide (imm.extractLsb' 12 4 ≠ 0)) false (.extr d a (imm.extractLsb' 6 6) (imm.extractLsb' 0 6))
  | 0x13 =>
    match (imm.extractLsb' 12 4).toNat with
    | 0 => checked 0 (badDst d || !csrDefined (imm.extractLsb' 0 12)) (decide (a ≠ 0)) false
        (.csrrd d (imm.extractLsb' 0 12))
    | 1 => checked 0 (!csrDefined (imm.extractLsb' 0 12)) (decide (d ≠ 0)) false (.csrwr a (imm.extractLsb' 0 12))
    | _ => .error 0
  | _ => .error 0

/-- The LB format (R83): op 0x18 to 0x1B. -/
def decodeBranch (op : Nat) (a : BitVec 5) (off : BitVec 21) : Decoded :=
  match op with
  | 0x18 => .ok (.bz a off)
  | 0x19 => .ok (.bnz a off)
  | 0x1A => checked 0 false (decide (a ≠ 0)) false (.jmp off)
  | 0x1B => checked 0 false (decide (a ≠ 0)) false (.jal off)
  | _ => .error 0

/-- The LM format (R78): op 0x20 to 0x22. -/
def decodeMem (op : Nat) (d base : BitVec 5) (rq : BitVec 2) (size : BitVec 3) (span : BitVec 4) (off : BitVec 7) :
    Decoded :=
  match op with
  | 0x20 => checked 0 (badDst d || decide (size = 7)) false false (.ld d base rq size span off)
  | 0x21 => checked 0 (decide (3 < size)) false false (.st d base rq size span off)
  | 0x22 => checked 0 (decide (size = 7)) (decide (d ≠ 0) || decide (size ≠ 3)) false (.pf base rq span off)
  | _ => .error 0

/-- The memory group (R84, R273, R275). -/
def decodeMemGroup (d a b sub : BitVec 5) (x : BitVec 6) : Decoded :=
  match sub.toNat with
  | 0 => checked 0 false (decide (d ≠ 0) || decide (a ≠ 0) || decide (b ≠ 0) || decide (x ≠ 0)) false .mark
  | 1 => checked 0 (decide (x.extractLsb' 2 2 = 3))
      (decide (d ≠ 0) || decide (a ≠ 0) || decide (b ≠ 0) || decide (x.extractLsb' 0 2 ≠ 0)) false
      (.fence (x.extractLsb' 4 2) (x.extractLsb' 2 2))
  | 2 => checked 0 (badDst d || decide (8 < x.extractLsb' 2 4)) (x.getLsbD 0) false
      (.amo d a b (x.extractLsb' 2 4) (x.getLsbD 1))
  | 3 => checked 0 (badDst d) false false (.cas d a b (x.extractLsb' 1 5) (x.getLsbD 0))
  | _ => .error 0

/-- The barrier group (R84, R228). -/
def decodeBarGroup (ids : SyncIds) (d a b sub : BitVec 5) (x : BitVec 6) : Decoded :=
  let bad1 := decide (d ≠ 0) || decide (b ≠ 0)
  match sub.toNat with
  | 0 => checked 0 (undeclared ids.bars x) bad1 false (.barinit a x)
  | 1 => checked 0 (undeclared ids.bars x) bad1 false (.bararm a x)
  | 2 => checked 0 (undeclared ids.bars x) bad1 false (.bararrive a x)
  | 3 => checked 0 (undeclared ids.bars x) bad1 false (.barwait a x)
  | 4 => checked 0 (badDst d || undeclared ids.bars x) (decide (b ≠ 0)) false (.bartest d a x)
  | _ => .error 0

/-- The engine group (R84). -/
def decodeEngGroup (ids : SyncIds) (d a b sub : BitVec 5) (x : BitVec 6) : Decoded :=
  let none3 := decide (d ≠ 0) || decide (a ≠ 0) || decide (b ≠ 0)
  match sub.toNat with
  | 0 => checked 0 (undeclared ids.forks x) none3 false (.fork x)
  | 1 => checked 0 (undeclared ids.joins x) none3 false (.join x)
  | 2 => checked 0 false (decide (d ≠ 0) || decide (b ≠ 0) || decide (x.extractLsb' 4 2 ≠ 0)) false
      (.lpw a (x.extractLsb' 0 4))
  | 3 => checked 0 false (decide (d ≠ 0) || decide (b ≠ 0) || decide (x ≠ 0)) false (.enq a)
  | 4 => checked 0 (decide (x = 0)) none3 false (.ecancel x)
  | 5 => checked 0 (badDst d) (decide (a ≠ 0) || decide (b ≠ 0) || decide (x.extractLsb' 1 5 ≠ 0)) false
      (.wptr d (x.getLsbD 0))
  | 6 => checked 0 (badDst d) (decide (a ≠ 0) || decide (b ≠ 0) || decide (x.extractLsb' 2 4 ≠ 0)) false
      (.estat d (x.extractLsb' 0 2))
  | _ => .error 0

/-- The steering group (R84, R122). -/
def decodeSteerGroup (d a b sub : BitVec 5) (x : BitVec 6) : Decoded :=
  let bad1 := decide (d ≠ 0) || decide (b ≠ 0)
  match sub.toNat with
  | 0 => checked 0 (decide (x.extractLsb' 0 2 ≠ 0)) (bad1 || decide (a ≠ 0) || decide (x.extractLsb' 4 2 ≠ 0)) false
      (.spmask (x.extractLsb' 0 4))
  | 1 => checked 0 false (bad1 || decide (x ≠ 0)) false (.spmaskn a)
  | 2 => checked 0 false (bad1 || decide (x ≠ 0)) false (.spcount a)
  | 3 => checked 0 false (bad1 || decide (x ≠ 0)) false (.spflag a)
  | 4 => checked 0 false (bad1 || decide (x ≠ 0)) false (.spval a)
  | _ => .error 0

/-- The basin group (R84, R257 to R261). -/
def decodeBasinGroup (d a b sub : BitVec 5) (x : BitVec 6) : Decoded :=
  let bad1 := decide (d ≠ 0) || decide (b ≠ 0)
  match sub.toNat with
  | 0 => checked 0 false (bad1 || decide (x.extractLsb' 3 3 ≠ 0)) false (.bpin a (x.extractLsb' 0 3))
  | 1 => checked 0 false (bad1 || decide (x.extractLsb' 3 3 ≠ 0)) false (.bunpin a (x.extractLsb' 0 3))
  | 2 => checked 0 false (bad1 || decide (x.extractLsb' 2 4 ≠ 0)) false (.binval a (x.extractLsb' 0 2))
  | 3 => checked 0 (badDst d) (decide (b ≠ 0) || decide (x.extractLsb' 3 3 ≠ 0)) false (.bprobe d a (x.extractLsb' 0 3))
  | 4 => checked 0 false (bad1 || decide (x.extractLsb' 3 3 ≠ 0)) false (.bfill a (x.extractLsb' 0 3))
  | _ => .error 0

/-- The system group (R84, R301). -/
def decodeSysGroup (d a b sub : BitVec 5) (x : BitVec 6) : Decoded :=
  let none3 := decide (d ≠ 0) || decide (a ≠ 0) || decide (b ≠ 0)
  match sub.toNat with
  | 0 => checked 0 false none3 false (.trap x)
  | 1 => checked 0 false (none3 || decide (x ≠ 0)) false .eret
  | 2 => checked 0 false (none3 || decide (x ≠ 0)) false .halt
  | 3 => checked 0 false none3 false (.brk x)
  | _ => .error 0

/-- Every barrier object of a region's range is declared and none passes ID 63 (R85). -/
def regionRangeOk (bars : BitVec 64) (first : BitVec 6) (count : BitVec 4) : Bool :=
  (List.range count.toNat).all fun i => decide (first.toNat + i < 64) && bars.getLsbD (first.toNat + i)

/-- REGION (R85). -/
def decodeRegion (ids : SyncIds) (bfirst : BitVec 6) (bcount : BitVec 4) (live : BitVec 16) : Decoded :=
  checked 0 (!regionRangeOk ids.bars bfirst bcount) false false (.region bfirst bcount live)

/-- A word of a lead stream (R76 to R85), the first cause in the order of R74. -/
def decodeLead (ids : SyncIds) (w : BitVec 32) : Decoded :=
  let d := w.extractLsb' 21 5
  let a := w.extractLsb' 16 5
  let b := w.extractLsb' 11 5
  let f := w.extractLsb' 6 5
  let x := w.extractLsb' 0 6
  match (w.extractLsb' 26 6).toNat with
  | 0x01 => decodeAluA d a b f x
  | 0x02 => decodeAluB d a b f x
  | 0x03 => decodeIns d a b (w.extractLsb' 5 6) (w.extractLsb' 0 5)
  | 0x04 => decodeFloat d a b f (w.extractLsb' 4 2) (w.getLsbD 3) (w.extractLsb' 0 3)
  | 0x05 => checked 0 false (decide (d ≠ 0) || decide (b ≠ 0) || decide (w.extractLsb' 0 11 ≠ 0)) false (.jr a)
  | 0x08 => decodeImm 0x08 d a (w.extractLsb' 0 16)
  | 0x09 => decodeImm 0x09 d a (w.extractLsb' 0 16)
  | 0x0A => decodeImm 0x0A d a (w.extractLsb' 0 16)
  | 0x0B => decodeImm 0x0B d a (w.extractLsb' 0 16)
  | 0x0C => decodeImm 0x0C d a (w.extractLsb' 0 16)
  | 0x0D => decodeImm 0x0D d a (w.extractLsb' 0 16)
  | 0x0E => decodeImm 0x0E d a (w.extractLsb' 0 16)
  | 0x0F => decodeImm 0x0F d a (w.extractLsb' 0 16)
  | 0x10 => decodeImm 0x10 d a (w.extractLsb' 0 16)
  | 0x11 => decodeImm 0x11 d a (w.extractLsb' 0 16)
  | 0x12 => decodeImm 0x12 d a (w.extractLsb' 0 16)
  | 0x13 => decodeImm 0x13 d a (w.extractLsb' 0 16)
  | 0x18 => decodeBranch 0x18 d (w.extractLsb' 0 21)
  | 0x19 => decodeBranch 0x19 d (w.extractLsb' 0 21)
  | 0x1A => decodeBranch 0x1A d (w.extractLsb' 0 21)
  | 0x1B => decodeBranch 0x1B d (w.extractLsb' 0 21)
  | 0x20 => decodeMem 0x20 d a (w.extractLsb' 14 2) (w.extractLsb' 11 3) (w.extractLsb' 7 4) (w.extractLsb' 0 7)
  | 0x21 => decodeMem 0x21 d a (w.extractLsb' 14 2) (w.extractLsb' 11 3) (w.extractLsb' 7 4) (w.extractLsb' 0 7)
  | 0x22 => decodeMem 0x22 d a (w.extractLsb' 14 2) (w.extractLsb' 11 3) (w.extractLsb' 7 4) (w.extractLsb' 0 7)
  | 0x28 => decodeMemGroup d a b f x
  | 0x29 => decodeBarGroup ids d a b f x
  | 0x2A => decodeEngGroup ids d a b f x
  | 0x2B => decodeSteerGroup d a b f x
  | 0x2C => decodeBasinGroup d a b f x
  | 0x2D => decodeSysGroup d a b f x
  | 0x2E => decodeRegion ids (w.extractLsb' 20 6) (w.extractLsb' 16 4) (w.extractLsb' 0 16)
  | 0x30 => .error 6
  | _ => .error 0

/-- The bank operations, op 0x30 (R286). -/
def decodeBankOp (w : BitVec 32) : Decoded :=
  let d := w.extractLsb' 21 5
  let a := w.extractLsb' 16 5
  let b := w.extractLsb' 11 5
  let x := w.extractLsb' 0 6
  match (w.extractLsb' 6 5).toNat with
  | 0 => checked 0 (badDst d) (decide (b ≠ 0) || decide (x ≠ 0)) false (.bkrd d a)
  | 1 => checked 0 false (decide (d ≠ 0) || decide (x ≠ 0)) false (.bkwr a b)
  | 2 => checked 0 (badDst d || decide (11 < x.extractLsb' 0 4) ||
        (decide (x.extractLsb' 4 2 = 3) && decide (8 ≤ x.extractLsb' 0 4))) false false
      (.bkred d a b (x.extractLsb' 4 2) (x.extractLsb' 0 4))
  | 3 => checked 0 (badDst d || decide (8 < x.extractLsb' 2 4)) (x.getLsbD 0) false
      (.bkamo d a b (x.extractLsb' 2 4) (x.getLsbD 1))
  | 4 => checked 0 false (decide (d ≠ 0) || decide (b ≠ 0) || decide (x ≠ 0)) false (.bksend a)
  | 5 => checked 0 false (decide (d ≠ 0) || decide (a ≠ 0) || decide (b ≠ 0) || decide (x ≠ 0)) false .bkend
  | _ => .error 0

/-- A 32-bit word of either kind of stream: major code 0x30 is a bank operation (R79). -/
def decodeWord32 (w : BitVec 32) : Decoded :=
  if w.extractLsb' 26 6 = 0x30 then decodeBankOp w else decodeLead SyncIds.all w

/-- The lead instructions that a bank handler may hold (R96). -/
def handlerMay : Instr → Bool
  | .add .. | .sub .. | .mul .. | .mulh .. | .mulhn .. | .and .. | .or .. | .xor .. | .andn .. | .shl .. | .shr ..
  | .sar .. | .min .. | .max .. | .minn .. | .maxn .. | .clz .. | .ctz .. | .popc .. | .mov .. => true
  | .cmpeq .. | .cmpne .. | .cmplt .. | .cmple .. | .cmpltn .. | .cmplen .. | .sel .. | .sext .. | .zext ..
  | .fshl .. | .fshr .. | .ins .. => true
  | .addi .. | .andi .. | .ori .. | .xori .. | .shli .. | .shri .. | .sari .. | .li .. | .lih .. | .extr .. => true
  | .bz _ off | .bnz _ off | .jmp off => decide (0 < off.toInt)
  | .bkrd .. | .bkwr .. | .bkred .. | .bkamo .. | .bksend .. | .bkend => true
  | _ => false

/-- A handler word (R96): cause 5 where the word is not one. -/
def decodeHandler (w : BitVec 32) : Decoded :=
  match decodeWord32 w with
  | .ok i => if handlerMay i then .ok i else .error 5
  | .error _ => .error 5

/-- The word count of a branch of a handler word, if it is a branch (R83). -/
def branchOff : Instr → Option Int
  | .bz _ off | .bnz _ off | .jmp off => some off.toInt
  | _ => none

/-- Words `i`, `i+1`, ... of a slot up to the first BKEND, which is word `last`, satisfy R97 items 1 and 3. -/
def handlerWordsOk (last : Nat) : Nat → List (BitVec 32) → Bool
  | _, [] => false
  | i, w :: ws =>
    match decodeHandler w with
    | .error _ => false
    | .ok ins =>
      (match branchOff ins with
       | some k => decide (i < (i : Int) + k) && decide ((i : Int) + k ≤ last)
       | none => true) &&
      (if i = last then ws.all (· = 0) else handlerWordsOk last (i + 1) ws)

/-- The word is BKEND. -/
def isBkend (w : BitVec 32) : Bool :=
  match decodeWord32 w with
  | .ok .bkend => true
  | _ => false

/-- The installation rules of a 64-word slot (R97). -/
def handlerSlotOk (ws : List (BitVec 32)) : Bool :=
  match ws.findIdx? isBkend with
  | none => false
  | some last => handlerWordsOk last 0 ws


/-! Lane words (R86 to R90 and the tables of "Lane instructions"). -/

/-- How a lane word uses one of its 8-bit fields. -/
inductive LaneUse where
  | unused | row | mask | imm | seed
  deriving DecidableEq, Repr

/-- What one lane operation permits (R87, R90, R146 to R173). -/
structure LaneShape where
  types    : BitVec 16
  typeZero : Bool
  dst      : LaneUse
  a        : LaneUse
  b        : LaneUse
  c        : LaneUse
  dem      : BitVec 3
  sat      : Bool
  rnd      : Bool
  men      : Bool
  fn       : BitVec 7
  deriving DecidableEq, Repr

/-- Bits of an element type in a lane (R132), by its code (R88). -/
def typeWidth (ty : Nat) : Nat :=
  match ty with
  | 0 | 4 | 14 | 15 => 8
  | 1 | 5 | 8 | 9 => 16
  | 2 | 6 | 10 => 32
  | 3 | 7 | 11 | 12 => 64
  | _ => 128

/-- Lanes of a row of an element type (R132). -/
def laneCount (ty : Nat) : Nat := 2048 / typeWidth ty

/-- FN, fn[6:0] (R87). -/
def LaneWord.fnLow (w : LaneWord) : BitVec 7 := w.fn.extractLsb' 0 7
/-- MEN, fn[7] (R87). -/
def LaneWord.men (w : LaneWord) : Bool := w.fn.getLsbD 7
/-- RND, fn[9:8] (R87). -/
def LaneWord.rnd (w : LaneWord) : BitVec 2 := w.fn.extractLsb' 8 2
/-- SAT, fn[10] (R87). -/
def LaneWord.sat (w : LaneWord) : Bool := w.fn.getLsbD 10
/-- LAST, fn[11] (R87). -/
def LaneWord.last (w : LaneWord) : Bool := w.fn.getLsbD 11
/-- FIRST, fn[12] (R87). -/
def LaneWord.first (w : LaneWord) : Bool := w.fn.getLsbD 12

/-- Types 8 to 11. -/
def floatTypes : BitVec 16 := 0x0F00
/-- Types 8 to 13. -/
def floatComplexTypes : BitVec 16 := 0x3F00
/-- Types 12 and 13. -/
def complexTypes : BitVec 16 := 0x3000
/-- Types 0 to 7. -/
def intTypes : BitVec 16 := 0x00FF
/-- Types 0 to 11. -/
def realTypes : BitVec 16 := 0x0FFF
/-- Types 0 to 15. -/
def allTypes : BitVec 16 := 0xFFFF
/-- Type 0 only; another raises cause 9 (R90). -/
def zeroType : BitVec 16 := 0x0001

/-- The permitted fields of lane opcode `op` (R146 to R173); none for an unused code (R89). -/
def laneShape (op : Nat) (w : LaneWord) : Option LaneShape :=
  let i := w.fn.getLsbD 0
  match op with
  | 0x00 | 0x01 => some ⟨floatComplexTypes, false, .row, .row, .row, .seed, 6, false, true, true, 0⟩
  | 0x02 => some ⟨floatTypes, false, .row, .row, .row, .seed, 6, false, true, true, 0⟩
  | 0x03 | 0x04 => some ⟨floatTypes, false, .row, .row, .row, .row, 7, false, true, true, 0⟩
  | 0x05 => some ⟨floatComplexTypes, false, .row, .row, .unused, .unused, 4, false, false, true, 0⟩
  | 0x06 => some ⟨floatTypes, false, .row, .row, .unused, .unused, 4, false, false, true, 0⟩
  | 0x07 | 0x08 => some ⟨floatTypes, false, .row, .row, .row, .seed, 6, false, false, true, 0⟩
  | 0x09 => some ⟨floatTypes, false, .mask, .row, .row, .unused, 6, false, false, true, 0x07⟩
  | 0x0A => some ⟨allTypes, false, .row, .row, .unused, .seed, 4, decide (w.ty < 8), true, true, 0x78⟩
  | 0x10 => some ⟨complexTypes, false, .row, .row, .row, .seed, 6, false, true, true, 0x03⟩
  | 0x11 => some ⟨complexTypes, false, .row, .row, .row, .row, 7, false, true, true, 0x03⟩
  | 0x12 => some ⟨complexTypes, false, .row, .row, .unused, .unused, 4, false, false, true, 0⟩
  | 0x18 | 0x19 | 0x1A | 0x1B | 0x1C | 0x1D =>
    some ⟨floatTypes, false, .row, .row, .unused, .seed, 4, false, true, true, 0⟩
  | 0x20 | 0x21 | 0x22 => some ⟨intTypes, false, .row, .row, .row, .unused, 6, true, false, true, 0⟩
  | 0x23 | 0x24 | 0x25 | 0x26 | 0x27 | 0x2F | 0x30 =>
    some ⟨intTypes, false, .row, .row, .row, .unused, 6, false, false, true, 0⟩
  | 0x28 | 0x29 | 0x2A =>
    some ⟨intTypes, false, .row, .row, if i then .unused else .row, if i then .imm else .unused, if i then 4 else 6,
      false, false, true, 1⟩
  | 0x2B | 0x2C =>
    some ⟨intTypes, false, .row, .row, .row, if i then .imm else .row, if i then 6 else 7, false, false, true, 1⟩
  | 0x2D | 0x2E => some ⟨intTypes, false, .row, .row, .unused, .unused, 4, false, false, true, 0⟩
  | 0x38 | 0x39 => some ⟨allTypes, false, .row, .row, .row, .unused, 6, false, false, true, 0⟩
  | 0x3A | 0x3B => some ⟨allTypes, false, .row, .row, .unused, .imm, 4, false, false, true, 0⟩
  | 0x3C | 0x3D => some ⟨realTypes, false, .row, .row, .unused, .seed, 4, false, decide (8 ≤ w.ty), true, 0x03⟩
  | 0x40 | 0x41 | 0x42 => some ⟨zeroType, true, .mask, .mask, .mask, .unused, 0, false, false, false, 0⟩
  | 0x43 => some ⟨zeroType, true, .mask, .mask, .unused, .unused, 0, false, false, false, 0⟩
  | 0x44 => some ⟨allTypes, false, .row, .mask, .unused, .unused, 0, false, false, false, 0⟩
  | 0x48 =>
    if i then some ⟨zeroType, true, .mask, .unused, .unused, .unused, 0, false, false, false, 0x03⟩
    else some ⟨realTypes, false, .row, .unused, .unused, .unused, 0, false, false, true, 0x03⟩
  | 0x49 | 0x4A => some ⟨zeroType, true, .unused, .unused, .unused, .imm, 0, false, false, false, 0⟩
  | 0x4B => some ⟨zeroType, true, .row, .unused, .unused, .unused, 0, false, false, false, 0x03⟩
  | 0x50 => some ⟨allTypes, false, .row, .unused, .unused, .imm, 0, false, false, true, 0x78⟩
  | 0x51 => some ⟨allTypes, false, .unused, .row, .unused, .imm, 4, false, false, true, 0x78⟩
  | 0x52 => some ⟨allTypes, false, .unused, .row, .row, .imm, 6, false, false, true, 0x78⟩
  | 0x53 => some ⟨allTypes, false, .row, .unused, .row, .imm, 2, false, false, true, 0x78⟩
  | 0x54 | 0x55 =>
    if w.fn.getLsbD 3 then some ⟨zeroType, true, .unused, .unused, .unused, .imm, 0, false, false, false, 0x78⟩
    else some ⟨zeroType, true, .unused, .row, .unused, .unused, 4, false, false, false, 0x78⟩
  | 0x58 => some ⟨zeroType, true, .row, .unused, .unused, .unused, 0, false, false, true, 0⟩
  | 0x59 => some ⟨floatTypes, false, .row, .row, .unused, .imm, 4, false, true, true, 0⟩
  | 0x5A => some ⟨zeroType, true, .unused, .unused, .unused, .unused, 0, false, false, false, 0⟩
  | _ => none

/-- An unused sub-operation, or a field outside its defined set, of a lane word: cause 8 (R89, R148, R154, R157,
R158, R162, R163, R168); operation 3 of VRED and VSCAN on a complex type too (log 84). -/
def laneBadField (op : Nat) (w : LaneWord) : Bool :=
  match op with
  | 0x09 => decide (4 < w.fn.extractLsb' 0 3)
  | 0x28 | 0x29 | 0x2A | 0x2B | 0x2C => w.fn.getLsbD 0 && decide (typeWidth w.ty.toNat ≤ w.c.toNat)
  | 0x3A | 0x3B => decide (laneCount w.ty.toNat ≤ w.c.toNat)
  | 0x3C | 0x3D => decide (w.fn.extractLsb' 0 2 = 3) && decide (8 ≤ w.ty)
  | 0x48 => w.fn.getLsbD 1
  | 0x49 | 0x4A => decide (w.c = 0)
  | 0x53 => decide (laneCount w.ty.toNat = 256) && decide (w.b = 255)
  | _ => false

/-- A field that its use leaves zero holds a nonzero bit (R87, R160). -/
def fieldReserved (u : LaneUse) (f : BitVec 8) (rst : Bool) : Bool :=
  match u with
  | .unused => decide (f ≠ 0)
  | .mask => decide (f.extractLsb' 3 5 ≠ 0)
  | .seed => !rst && decide (f ≠ 0)
  | .row | .imm => false

/-- A nonzero reserved field of a lane word: cause 9 (R87). -/
def laneReserved (s : LaneShape) (w : LaneWord) : Bool :=
  let rst := decide (w.rnd = 3)
  fieldReserved s.dst w.dst rst || fieldReserved s.a w.a rst || fieldReserved s.b w.b rst ||
  fieldReserved s.c w.c rst || decide (w.dem &&& ~~~ s.dem ≠ 0) || decide (w.fnLow &&& ~~~ s.fn ≠ 0) ||
  (!w.men && (decide (w.mask ≠ 0) || w.minv)) || (s.typeZero && decide (w.ty ≠ 0))

/-- The pairs that VCVT converts between (R90): both from codes 0 to 11, 14 and 15, or cf32 with cf64. -/
def cvtPair (dt st : Nat) : Bool :=
  let plain (t : Nat) := decide (t ≤ 11) || decide (t = 14) || decide (t = 15)
  (plain dt && plain st) || (dt == 12 && st == 13) || (dt == 13 && st == 12)

/-- The element type is not one the operation permits: cause 10 (R90, R149). -/
def laneBadType (op : Nat) (s : LaneShape) (w : LaneWord) : Bool :=
  if op = 0x0A then !cvtPair w.ty.toNat (w.fn.extractLsb' 3 4).toNat else !s.types.getLsbD w.ty.toNat

/-- A modifier the operation does not take: cause 15 (R87). -/
def laneBadModifier (s : LaneShape) (w : LaneWord) : Bool :=
  (w.sat && !s.sat) || (decide (w.rnd ≠ 0) && !s.rnd) || (w.men && !s.men)

/-- The cause that a lane word's encoding raises, in the order of R74; none for a good word. -/
def laneCause (op : Nat) (w : LaneWord) : Option (BitVec 9) :=
  match laneShape op w with
  | none => some 8
  | some s =>
    if laneBadField op w then some 8
    else if laneReserved s w then some 9
    else if laneBadType op s w then some 10
    else if laneBadModifier s w then some 15
    else none

/-- The lane opcode map (R89). -/
def laneInstr (op : Nat) (w : LaneWord) : Option Instr :=
  match op with
  | 0x00 => some (.vadd w)
  | 0x01 => some (.vsub w)
  | 0x02 => some (.vmul w)
  | 0x03 => some (.vfma w)
  | 0x04 => some (.vfms w)
  | 0x05 => some (.vneg w)
  | 0x06 => some (.vabs w)
  | 0x07 => some (.vmin w)
  | 0x08 => some (.vmax w)
  | 0x09 => some (.vcmp w)
  | 0x0A => some (.vcvt w)
  | 0x10 => some (.vcmul w)
  | 0x11 => some (.vcfma w)
  | 0x12 => some (.vconj w)
  | 0x18 => some (.vrcp w)
  | 0x19 => some (.vrsq w)
  | 0x1A => some (.vsqrt w)
  | 0x1B => some (.vexp2 w)
  | 0x1C => some (.vlog2 w)
  | 0x1D => some (.vtanh w)
  | 0x20 => some (.vaddi w)
  | 0x21 => some (.vsubi w)
  | 0x22 => some (.vmuli w)
  | 0x23 => some (.vmulhi w)
  | 0x24 => some (.vand w)
  | 0x25 => some (.vor w)
  | 0x26 => some (.vxor w)
  | 0x27 => some (.vandn w)
  | 0x28 => some (.vshl w)
  | 0x29 => some (.vshr w)
  | 0x2A => some (.vsar w)
  | 0x2B => some (.vfshl w)
  | 0x2C => some (.vfshr w)
  | 0x2D => some (.vclz w)
  | 0x2E => some (.vpopc w)
  | 0x2F => some (.vmini w)
  | 0x30 => some (.vmaxi w)
  | 0x38 => some (.vshuf w)
  | 0x39 => some (.vsel w)
  | 0x3A => some (.vbcast w)
  | 0x3B => some (.vrot w)
  | 0x3C => some (.vred w)
  | 0x3D => some (.vscan w)
  | 0x40 => some (.mand w)
  | 0x41 => some (.mor w)
  | 0x42 => some (.mxor w)
  | 0x43 => some (.mnot w)
  | 0x44 => some (.mpop w)
  | 0x48 => some (.vpopv w)
  | 0x49 => some (.vrep w)
  | 0x4A => some (.vrepf w)
  | 0x4B => some (.vrdv w)
  | 0x50 => some (.vld w)
  | 0x51 => some (.vst w)
  | 0x52 => some (.vstm w)
  | 0x53 => some (.vldx w)
  | 0x54 => some (.qset w)
  | 0x55 => some (.qadd w)
  | 0x58 => some (.vzero w)
  | 0x59 => some (.vsca w)
  | 0x5A => some (.vend w)
  | _ => none

/-- The fields of a lane word (R86). -/
def laneFields (w : BitVec 64) : LaneWord :=
  { stop := w.getLsbD 63, ty := w.extractLsb' 52 4, dst := w.extractLsb' 44 8, a := w.extractLsb' 36 8,
    b := w.extractLsb' 28 8, c := w.extractLsb' 20 8, mask := w.extractLsb' 17 3, minv := w.getLsbD 16,
    dem := w.extractLsb' 13 3, fn := w.extractLsb' 0 13 }

/-- A word of a lane stream (R86 to R90). -/
def decodeLane (w : BitVec 64) : Decoded :=
  let op := (w.extractLsb' 56 7).toNat
  match laneInstr op (laneFields w) with
  | none => .error 8
  | some i =>
    match laneCause op (laneFields w) with
    | some c => .error c
    | none => .ok i

/-- The opcode and fields of a lane instruction (R89). -/
def laneOf : Instr → Option (Nat × LaneWord)
  | .vadd w => some (0x00, w)
  | .vsub w => some (0x01, w)
  | .vmul w => some (0x02, w)
  | .vfma w => some (0x03, w)
  | .vfms w => some (0x04, w)
  | .vneg w => some (0x05, w)
  | .vabs w => some (0x06, w)
  | .vmin w => some (0x07, w)
  | .vmax w => some (0x08, w)
  | .vcmp w => some (0x09, w)
  | .vcvt w => some (0x0A, w)
  | .vcmul w => some (0x10, w)
  | .vcfma w => some (0x11, w)
  | .vconj w => some (0x12, w)
  | .vrcp w => some (0x18, w)
  | .vrsq w => some (0x19, w)
  | .vsqrt w => some (0x1A, w)
  | .vexp2 w => some (0x1B, w)
  | .vlog2 w => some (0x1C, w)
  | .vtanh w => some (0x1D, w)
  | .vaddi w => some (0x20, w)
  | .vsubi w => some (0x21, w)
  | .vmuli w => some (0x22, w)
  | .vmulhi w => some (0x23, w)
  | .vand w => some (0x24, w)
  | .vor w => some (0x25, w)
  | .vxor w => some (0x26, w)
  | .vandn w => some (0x27, w)
  | .vshl w => some (0x28, w)
  | .vshr w => some (0x29, w)
  | .vsar w => some (0x2A, w)
  | .vfshl w => some (0x2B, w)
  | .vfshr w => some (0x2C, w)
  | .vclz w => some (0x2D, w)
  | .vpopc w => some (0x2E, w)
  | .vmini w => some (0x2F, w)
  | .vmaxi w => some (0x30, w)
  | .vshuf w => some (0x38, w)
  | .vsel w => some (0x39, w)
  | .vbcast w => some (0x3A, w)
  | .vrot w => some (0x3B, w)
  | .vred w => some (0x3C, w)
  | .vscan w => some (0x3D, w)
  | .mand w => some (0x40, w)
  | .mor w => some (0x41, w)
  | .mxor w => some (0x42, w)
  | .mnot w => some (0x43, w)
  | .mpop w => some (0x44, w)
  | .vpopv w => some (0x48, w)
  | .vrep w => some (0x49, w)
  | .vrepf w => some (0x4A, w)
  | .vrdv w => some (0x4B, w)
  | .vld w => some (0x50, w)
  | .vst w => some (0x51, w)
  | .vstm w => some (0x52, w)
  | .vldx w => some (0x53, w)
  | .qset w => some (0x54, w)
  | .qadd w => some (0x55, w)
  | .vzero w => some (0x58, w)
  | .vsca w => some (0x59, w)
  | .vend w => some (0x5A, w)
  | _ => none

/-- The 64-bit word of a lane opcode and its fields (R86). -/
def laneWordBits (op : Nat) (w : LaneWord) : BitVec 64 :=
  (BitVec.ofBool w.stop ++ BitVec.ofNat 7 op ++ w.ty ++ w.dst ++ w.a ++ w.b ++ w.c ++ w.mask ++ BitVec.ofBool w.minv ++
    w.dem ++ w.fn : BitVec 64)

/-- Format LR and LS: op, dst, a, b, an 11-bit tail (R76). -/
def wordLR (op : Nat) (d a b : BitVec 5) (f : BitVec 5) (x : BitVec 6) : BitVec 32 :=
  (BitVec.ofNat 6 op ++ d ++ a ++ b ++ f ++ x : BitVec 32)

/-- Format LI (R76). -/
def wordLI (op : Nat) (d a : BitVec 5) (imm : BitVec 16) : BitVec 32 := (BitVec.ofNat 6 op ++ d ++ a ++ imm : BitVec 32)

/-- Format LB (R76). -/
def wordLB (op : Nat) (a : BitVec 5) (off : BitVec 21) : BitVec 32 := (BitVec.ofNat 6 op ++ a ++ off : BitVec 32)

/-- Format LM (R76). -/
def wordLM (op : Nat) (d base : BitVec 5) (rq : BitVec 2) (size : BitVec 3) (span : BitVec 4) (off : BitVec 7) :
    BitVec 32 := (BitVec.ofNat 6 op ++ d ++ base ++ rq ++ size ++ span ++ off : BitVec 32)

/-- The scalar float group (R81). -/
def wordFloat (d a b x : BitVec 5) (rnd : BitVec 2) (p : Bool) (sub : Nat) : BitVec 32 :=
  (BitVec.ofNat 6 4 ++ d ++ a ++ b ++ x ++ rnd ++ BitVec.ofBool p ++ BitVec.ofNat 3 sub : BitVec 32)

/-- A LI-format shift (R82): [15:6] zero, [5:0] the count. -/
def wordShift (op : Nat) (d a : BitVec 5) (k : BitVec 6) : BitVec 32 := wordLI op d a (0#10 ++ k)

/-- The 32-bit word of a lead or bank instruction (R76 to R85, R286); none for the others. -/
def encode32 : Instr → Option (BitVec 32)
  | .add d a b => some (wordLR 0x01 d a b 0 0)
  | .sub d a b => some (wordLR 0x01 d a b 1 0)
  | .mul d a b => some (wordLR 0x01 d a b 2 0)
  | .mulh d a b => some (wordLR 0x01 d a b 3 0)
  | .mulhn d a b => some (wordLR 0x01 d a b 4 0)
  | .div d a b => some (wordLR 0x01 d a b 5 0)
  | .divn d a b => some (wordLR 0x01 d a b 6 0)
  | .rem d a b => some (wordLR 0x01 d a b 7 0)
  | .remn d a b => some (wordLR 0x01 d a b 8 0)
  | .and d a b => some (wordLR 0x01 d a b 9 0)
  | .or d a b => some (wordLR 0x01 d a b 10 0)
  | .xor d a b => some (wordLR 0x01 d a b 11 0)
  | .andn d a b => some (wordLR 0x01 d a b 12 0)
  | .shl d a b => some (wordLR 0x01 d a b 13 0)
  | .shr d a b => some (wordLR 0x01 d a b 14 0)
  | .sar d a b => some (wordLR 0x01 d a b 15 0)
  | .min d a b => some (wordLR 0x01 d a b 16 0)
  | .max d a b => some (wordLR 0x01 d a b 17 0)
  | .minn d a b => some (wordLR 0x01 d a b 18 0)
  | .maxn d a b => some (wordLR 0x01 d a b 19 0)
  | .clz d a => some (wordLR 0x01 d a 0 20 0)
  | .ctz d a => some (wordLR 0x01 d a 0 21 0)
  | .popc d a => some (wordLR 0x01 d a 0 22 0)
  | .mov d a => some (wordLR 0x01 d a 0 23 0)
  | .cmpeq d a b => some (wordLR 0x02 d a b 0 0)
  | .cmpne d a b => some (wordLR 0x02 d a b 1 0)
  | .cmplt d a b => some (wordLR 0x02 d a b 2 0)
  | .cmple d a b => some (wordLR 0x02 d a b 3 0)
  | .cmpltn d a b => some (wordLR 0x02 d a b 4 0)
  | .cmplen d a b => some (wordLR 0x02 d a b 5 0)
  | .sel d a b c => some (wordLR 0x02 d a b 8 (0#1 ++ c))
  | .sext d a w => some (wordLR 0x02 d a 0 9 (0#4 ++ w))
  | .zext d a w => some (wordLR 0x02 d a 0 10 (0#4 ++ w))
  | .fshl d a b k => some (wordLR 0x02 d a b 12 k)
  | .fshr d a b k => some (wordLR 0x02 d a b 13 k)
  | .ins d a b pos len1 => some ((BitVec.ofNat 6 3 ++ d ++ a ++ b ++ pos ++ len1 : BitVec 32))
  | .fadd d a b rnd p => some (wordFloat d a b 0 rnd p 0)
  | .fmul d a b rnd p => some (wordFloat d a b 0 rnd p 1)
  | .ffma d a b c rnd p => some (wordFloat d a b c rnd p 2)
  | .fcmp d a b cond p => some (wordFloat d a b cond 0 p 3)
  | .fcvt d a conv rnd => some (wordFloat d a 0 (0#2 ++ conv) rnd false 4)
  | .jr a => some (wordLR 0x05 0 a 0 0 0)
  | .addi d a imm => some (wordLI 0x08 d a imm)
  | .andi d a imm => some (wordLI 0x09 d a imm)
  | .ori d a imm => some (wordLI 0x0A d a imm)
  | .xori d a imm => some (wordLI 0x0B d a imm)
  | .shli d a k => some (wordShift 0x0C d a k)
  | .shri d a k => some (wordShift 0x0D d a k)
  | .sari d a k => some (wordShift 0x0E d a k)
  | .li d imm => some (wordLI 0x0F d 0 imm)
  | .lih d a imm => some (wordLI 0x10 d a imm)
  | .lea d a imm => some (wordLI 0x11 d a imm)
  | .extr d a len1 pos => some (wordLI 0x12 d a (0#4 ++ len1 ++ pos))
  | .csrrd d csr => some (wordLI 0x13 d 0 (0#4 ++ csr))
  | .csrwr a csr => some (wordLI 0x13 0 a (1#4 ++ csr))
  | .bz a off => some (wordLB 0x18 a off)
  | .bnz a off => some (wordLB 0x19 a off)
  | .jmp off => some (wordLB 0x1A 0 off)
  | .jal off => some (wordLB 0x1B 0 off)
  | .ld d base rq size span off => some (wordLM 0x20 d base rq size span off)
  | .st s base rq size span off => some (wordLM 0x21 s base rq size span off)
  | .pf base rq span off => some (wordLM 0x22 0 base rq 3 span off)
  | .mark => some (wordLR 0x28 0 0 0 0 0)
  | .fence scope kind => some (wordLR 0x28 0 0 0 1 (scope ++ kind ++ 0#2))
  | .amo d a b op wide => some (wordLR 0x28 d a b 2 (op ++ BitVec.ofBool wide ++ 0#1))
  | .cas d a b c wide => some (wordLR 0x28 d a b 3 (c ++ BitVec.ofBool wide))
  | .barinit a id => some (wordLR 0x29 0 a 0 0 id)
  | .bararm a id => some (wordLR 0x29 0 a 0 1 id)
  | .bararrive a id => some (wordLR 0x29 0 a 0 2 id)
  | .barwait a id => some (wordLR 0x29 0 a 0 3 id)
  | .bartest d a id => some (wordLR 0x29 d a 0 4 id)
  | .fork id => some (wordLR 0x2A 0 0 0 0 id)
  | .join id => some (wordLR 0x2A 0 0 0 1 id)
  | .lpw a k => some (wordLR 0x2A 0 a 0 2 (0#2 ++ k))
  | .enq a => some (wordLR 0x2A 0 a 0 3 0)
  | .ecancel tag => some (wordLR 0x2A 0 0 0 4 tag)
  | .wptr d ch => some (wordLR 0x2A d 0 0 5 (0#5 ++ BitVec.ofBool ch))
  | .estat d e => some (wordLR 0x2A d 0 0 6 (0#4 ++ e))
  | .spmask k => some (wordLR 0x2B 0 0 0 0 (0#2 ++ k))
  | .spmaskn a => some (wordLR 0x2B 0 a 0 1 0)
  | .spcount a => some (wordLR 0x2B 0 a 0 2 0)
  | .spflag a => some (wordLR 0x2B 0 a 0 3 0)
  | .spval a => some (wordLR 0x2B 0 a 0 4 0)
  | .bpin a x => some (wordLR 0x2C 0 a 0 0 (0#3 ++ x))
  | .bunpin a x => some (wordLR 0x2C 0 a 0 1 (0#3 ++ x))
  | .binval a scope => some (wordLR 0x2C 0 a 0 2 (0#4 ++ scope))
  | .bprobe d a x => some (wordLR 0x2C d a 0 3 (0#3 ++ x))
  | .bfill a x => some (wordLR 0x2C 0 a 0 4 (0#3 ++ x))
  | .trap k => some (wordLR 0x2D 0 0 0 0 k)
  | .eret => some (wordLR 0x2D 0 0 0 1 0)
  | .halt => some (wordLR 0x2D 0 0 0 2 0)
  | .brk k => some (wordLR 0x2D 0 0 0 3 k)
  | .region bfirst bcount live => some ((BitVec.ofNat 6 0x2E ++ bfirst ++ bcount ++ live : BitVec 32))
  | .bkrd d a => some (wordLR 0x30 d a 0 0 0)
  | .bkwr a b => some (wordLR 0x30 0 a b 1 0)
  | .bkred d a b op ty => some (wordLR 0x30 d a b 2 (op ++ ty))
  | .bkamo d a b op wide => some (wordLR 0x30 d a b 3 (op ++ BitVec.ofBool wide ++ 0#1))
  | .bksend a => some (wordLR 0x30 0 a 0 4 0)
  | .bkend => some (wordLR 0x30 0 0 0 5 0)
  | _ => none

/-- A word of a stream: of a lead stream or handler, or of a lane stream. -/
inductive StreamWord where
  | w32 (w : BitVec 32)
  | w64 (w : BitVec 64)
  deriving DecidableEq, Repr

/-- The word that stands for an instruction; none for an event, which is no word. -/
def encode (i : Instr) : Option StreamWord :=
  match laneOf i with
  | some (op, w) => some (.w64 (laneWordBits op w))
  | none => (encode32 i).map .w32

/-- The instruction a word stands for, in a stream whose image declares every sync ID. -/
def decode : StreamWord → Decoded
  | .w32 w => decodeWord32 w
  | .w64 w => decodeLane w

/-- The bytes of a number, least significant first (R6). -/
def toBytes (n : Nat) (v : Nat) : List Byte :=
  match n with
  | 0 => []
  | n + 1 => BitVec.ofNat 8 v :: toBytes n (v / 256)

/-- The number of a list of bytes, least significant first (R6). -/
def ofBytes : List Byte → Nat
  | [] => 0
  | b :: bs => b.toNat + 256 * ofBytes bs

/-- Decoding of the bytes of one word: four bytes are a lead or bank word, eight a lane word. -/
def decodeBytes (bs : List Byte) : Decoded :=
  if bs.length = 8 then decodeLane (BitVec.ofNat 64 (ofBytes bs))
  else if bs.length = 4 then decodeWord32 (BitVec.ofNat 32 (ofBytes bs))
  else .error 0

/-- The instruction of a row of the table whose bits are `w`, laid out as the hardware stores it. -/
def decodeTableWord (nbits w : Nat) : Option Instr :=
  (decodeBytes (toBytes (if nbits ≤ 32 then 4 else 8) w)).toOption

end Sys2Proof
end

