-- ==== Sys2Proof/Config.lean ====
section
/-! DEFINITION. Config.lean: what one device fixes and the values the spec leaves open.
Every constant here is opaque: nothing can be proved about which value it has (log entries 2, 3, 5, 6, 12, 15, 18, 62). -/
namespace Sys2Proof.Config

/-- The nanoseconds that pass over the machine's n-th step (R101 gives the clock, no rule gives how many
ns a step takes). Log 2. -/
opaque elapsedNs : Nat → Nat

/-- What a read under key `reader` gives for a 16-byte block of a line whose last write, number `write` of its writes, was
under `writer` (0: never written): "an unpredictable value that does not depend on the plaintext" (R41). Log 12. -/
opaque garble (writer reader block write : Nat) : BitVec 128

/-- CORE_ID [9:0] and VALE_ID [3:0] as the management core reads them: R101 gives them for a task's core only. Log 5. -/
opaque mgmtCoreId : BitVec 10
opaque mgmtValeId : BitVec 4

/-- A choice the spec leaves to the device, the n-th asked for (R194, R326). Log 15. -/
opaque pick : Nat → Nat

/-- Choice number `j` of the n-th step where a step asks for several: the trees of reductions (R287, R326). Log 15. -/
opaque choose : Nat → Nat → Nat

/-- The device serial number (R32, R323). Log 6. -/
opaque serial : BitVec 64

/-- The private half of the device attestation key, which no agent can read (R38); ATT_PUB is its public half. Log 6. -/
opaque attKey : Nat

/-- Bytes of CERT in use, set at manufacture (R42 CERT_LEN). Log 6. -/
opaque certLen : BitVec 14

/-- Byte `i` of the certificate chain (R42 CERT). Log 6. -/
opaque cert : Nat → BitVec 8

/-- The firmware key fused into the security engine at manufacture, x (R42 FW_STAGE). Log 6. -/
opaque fwKeyX : BitVec 384

/-- The firmware key fused into the security engine at manufacture, y (R42 FW_STAGE). Log 6. -/
opaque fwKeyY : BitVec 384

/-- SHA-384 of the firmware image that the last management reset loaded (R38 FW_DIGEST); the spec does
not give the image. Log 6. -/
opaque resetFwDigest : BitVec 384

/-- The nonce of try `k` of the n-th signature that the attestation key makes (R38 names ECDSA, which draws it). Log 3. -/
opaque attNonce (digest : BitVec 384) (n k : Nat) : Nat

/-- Row activates of stack `stk` in the 1 µs window that ends at the n-th step (R294 ACT_STATE.COUNT), before the regulator holds
them to LIMIT: row activates are below this model. Log 18. -/
opaque activates (n stk : Nat) : Nat

/-- The CRC-64 of bytes 0 to 247 of a flit, which R317 names without its polynomial (log 62). -/
opaque flitCrc (bytes : BitVec 1984) : BitVec 64

end Sys2Proof.Config
end

