-- ==== Sys2Proof/Machine/State.lean ====
section
/-! DEFINITION. Machine/State.lean: everything the spec gives the machine to hold, as plain data, and the state after reset.
Each field's docstring cites the rule that names it. INVENTORY.md lists the widths and reset values. -/
namespace Sys2Proof.Machine

/-! ## Faults and refusals -/

/-- The reasons for which a step can stop the whole machine. The spec gives every instruction and event an effect, a
trap of a task (R299) or an error completion, so nothing in the model raises this one. Safe. -/
inductive Fault where
  /-- Raised by no step of the model: an access to an address that does not exist traps (R188, R343). Safe. -/
  | noSuchAddress
  deriving DecidableEq, Repr

/-- The reasons for which an instruction has no meaning. -/
inductive Refusal where
  /-- Raised by an arm of exec whose instruction has no meaning yet. Safe. -/
  | notModelled (mnemonic : String)
  deriving DecidableEq, Repr

/-! ## Memory -/

/-- Bytes by address, addresses strictly rising, no entry equal to what an unlisted address reads as (zero). -/
abbrev Memory := List Host.Cell

/-! ## Lead slices -/

/-- A belt position or named register: its final value, or a value that the load with this number will bring (R103). -/
inductive Slot where
  | val (v : Word)
  | pend (id : Nat)
  deriving DecidableEq, Repr

/-- Where an access is performed (R188, R207, R268, R343): DRAM behind a home or a compute-capable channel, the
core's scratchpad, a peer or host of the domain, an endpoint, firmware memory, a vale window, a register block; or a global address
whose translation has still to be made, since it waits for a DRAM bank (R224). -/
inductive Place where
  | dram (pa : Nat) (cc : Bool)
  | scratch (off : Nat)
  | peer (dev : BitVec 10) (addr : Word)
  | endpoint (e : BitVec 12) (off : BitVec 12)
  | firmware (off : Nat)
  | valeWindow (v : Fin 16) (pa : Nat)
  | block (addr : Nat)
  | walk (va : Word)
  deriving DecidableEq, Repr

/-- An entry of the lead load or store queue (R207, R208, R273, R275). `rq` is 0 own, 1 wt, 2 si, 3 nc (R78). -/
inductive EntryKind where
  | load (va : Word) (bytes : Nat) (signed : Bool) (rq : BitVec 2) (span : Nat) (place : Place)
  | store (va : Word) (bytes : Nat) (data : Word) (rq : BitVec 2) (span : Nat) (place : Place)
  | amo (va : Word) (bytes : Nat) (op : BitVec 4) (v : Word) (place : Place)
  | cas (va : Word) (bytes : Nat) (cmp new : Word) (place : Place)
  | mark
  | fence (scope kind : BitVec 2)
  deriving DecidableEq, Repr

/-- A queue entry: its number in program order, the address of its instruction, and the number of the request that it has sent to
a peer. -/
structure Entry where
  id   : Nat
  pc   : Word
  kind : EntryKind
  sent : Option Nat
  deriving DecidableEq, Repr

/-- The registers as they stood before an access that can still fault after its issue (log 8): the access's number, whether it is one
that does not fail, so that what comes behind it may go ahead, the cause with which it has failed and that cannot be reported yet,
belt, named and loop registers. -/
structure Held where
  id   : Nat
  sure : Bool
  fault : Option (BitVec 12)
  belt : Vector Slot 16
  n    : Vector Slot 16
  lp   : Vector (BitVec 32) 16
  deriving DecidableEq, Repr

/-- A line of a fetch buffer (R69, R70): its number VA / 128, its bytes as they were fetched, and which of its sixteen words L1
held then. -/
structure FetchLine where
  line  : Nat
  data  : BitVec 1024
  words : BitVec 16
  deriving DecidableEq, Repr

/-- The state of one lead slice (R98 to R101, R207, R300). -/
structure LeadSlice where
  /-- Lead fetch address (R69). -/
  pc      : Word
  /-- Belt, t1 first (R98). -/
  belt    : Vector Slot 16
  /-- n0 to n15 (R99). -/
  n       : Vector Slot 16
  /-- lp0 to lp15 (R99). -/
  lp      : Vector (BitVec 32) 16
  /-- LS_STATUS.LANE, VENDED, FORK_ID, MODE (R101). -/
  lane    : Bool
  vended  : Bool
  forkId  : BitVec 8
  machine : Bool
  /-- LS_CAUSE [11:0], LS_EPC, LS_TVAL (R300), LS_REGION (R101). -/
  cause   : BitVec 12
  epc     : Word
  tval    : Word
  region  : Word
  /-- Number of the next queue entry (program order; the model's own). -/
  seq     : Nat
  /-- Load queue and store queue, head first (R207). -/
  lq      : List Entry
  sq      : List Entry
  /-- The accesses in the queues whose fault would be reported precisely after issue, oldest first (log 8). -/
  held    : List Held
  /-- Lead fetch buffer: at most four lines (R69). -/
  buf     : List FetchLine
  deriving DecidableEq, Repr

/-! ## Steering queue and lane slice -/

/-- The payload of a steering entry (R130). -/
inductive SteerKind where
  | mask (m : LaneMask)
  | count (n : BitVec 32)
  | flag (b : Bool)
  | value (v : Word)
  | marker
  deriving DecidableEq, Repr

/-- A steering entry with the number of lead queue entries that precede it in program order (R124). -/
structure SteerEntry where
  kind  : SteerKind
  after : Nat
  deriving DecidableEq, Repr

/-- An active replay level (R137, R138). -/
structure Replay where
  first   : Word
  len     : Nat
  flagged : Bool
  pass    : BitVec 32
  count   : BitVec 32
  deriving DecidableEq, Repr

/-- What a lane write changes (R135). Bits of `en` that are 1 take `bits`; stores hold their bytes by scratchpad
offset, and the latest lane clk to which other users of their banks may delay them. -/
inductive LaneDest where
  | row (k : Fin 256) (bits en : Row)
  | mask (k : Fin 8) (bits en : LaneMask)
  | store (cells : List Host.Cell) (latest : Nat)
  deriving DecidableEq, Repr

/-- A lane write in flight, with the lane clk from whose words on it is visible (R135). -/
structure LaneWrite where
  lands : Nat
  dest  : LaneDest
  deriving DecidableEq, Repr

/-- A VLDX row that has not landed (R134, R168): its earliest landing clk, the scratchpad banks that it reads (R214) and what it
brings. -/
structure Gather where
  row   : Fin 256
  lands : Nat
  banks : BitVec 32
  bits  : Row
  en    : Row
  deriving DecidableEq, Repr

/-- What a taken marker records (R137, R305). -/
inductive Restart where
  | idle
  | ended (forkId : BitVec 8) (lane vended : Bool)
  | point (pc : Word) (levels : List Replay) (forkId : BitVec 8) (popDue : Bool)
  deriving DecidableEq, Repr

/-- A report that waits for the lead slice (R297, R298): code, LS_EPC, LS_TVAL. -/
structure Report where
  code : BitVec 12
  epc  : Word
  tval : Word
  deriving DecidableEq, Repr

/-- The state of one lane slice (R132 to R139). -/
structure LaneSlice where
  /-- Accumulator rows (R132) and their full bits (R133). -/
  rows    : Vector Row 256
  full    : BitVec 256
  masks   : Vector LaneMask 8
  ptrs    : Vector (BitVec 32) 8
  /-- Lane fetch address (R70). -/
  pc      : Word
  /-- Active replays, innermost first (R138). -/
  levels  : List Replay
  /-- Spacing counter (R136). -/
  spacing : Nat
  /-- The restart point the last taken marker recorded (R137). -/
  restart : Restart
  /-- Writes in flight, in issue order (R135), and gathers (R134). -/
  flight  : List LaneWrite
  gathers : List Gather
  /-- Lane clks passed: one per word reached (R135). -/
  clk     : Nat
  /-- The word at `pc` has been reached and counted, and stalls (R131). -/
  counted : Bool
  /-- The FLAG of a further pass of the innermost replay is to be popped (R138). -/
  popDue  : Bool
  /-- The clk of the next word has begun: the FLAG of a further pass was popped in it (R138). -/
  ticked  : Bool
  /-- The word at `pc` would have been the 65th: 44 follows when the writes have landed (R136). -/
  overrun : Bool
  /-- The slice is stopped at a stop point or a faulting word (R297, R310). -/
  stopped : Bool
  /-- The word at `pc` stalls on a steering queue without entries (R115). -/
  starved : Bool
  /-- The stream's first word waits for the lead's scratchpad stores among the queue entries below this number (R124). -/
  after   : Nat
  /-- Lane fetch buffer: at most eight lines (R70). -/
  buf     : List FetchLine
  /-- Replay buffer: the words fetched since the outermost active replay began, by address (R70, R138); without a replay, the word
  that has been fetched and waits. -/
  body    : List (Word × Word)
  deriving DecidableEq, Repr

/-! ## Engines -/

/-- A pattern block as ENQ sampled it (R71, R93, R94): the base with BOFF and, for the own scratchpad, the allocation
applied, the EXT words as stored, the extents, the strides. -/
structure Pattern where
  base   : Word
  own    : Bool
  ext    : Vector (BitVec 32) 4
  count  : Vector Nat 4
  stride : Vector Word 4
  deriving DecidableEq, Repr

/-- An enqueued record (R91): its address, what LS_TVAL holds for its faults (R261, R300), the fields, the patterns, and
the number of lead queue entries before its ENQ. -/
structure Record where
  addr  : Word
  tval  : Word
  f     : Vector (BitVec 32) 16
  pat   : Vector (Option Pattern) 4
  after : Nat
  deriving DecidableEq, Repr

/-- A weight tile header (R236). -/
structure Header where
  fmt    : Nat
  s      : Nat
  form   : Nat
  codec  : Nat
  k      : Nat
  n      : Nat
  cratio : Nat
  tau    : BitVec 16
  dlen   : Nat
  data   : Word
  expv   : Word
  scalev : Word
  deriving DecidableEq, Repr

/-- The reading of a tile by a fill (R242): the number that its requests carry, header address and header, address and length of each
aligned word still to be read, the words read with their bytes, latest first, whether the request for the first of these words is out, its
answer or the cause with which it failed, the basins that take what is read, each with its slice. -/
structure TileRead where
  num    : Nat
  hdr    : Word
  header : Header
  words  : List (Nat × Nat)
  got    : List (Nat × List Byte)
  asked  : Bool
  back   : Option PeerAnswer
  failed : Option Nat
  into   : List (Nat × Fin 32)
  deriving DecidableEq, Repr

/-- The words of an access that are read or written one by one (R268, R344; log 52): those still to come, each with its offset in the
access, its place and its length, and the bytes of those that have been read. -/
structure WordRun where
  todo : List (Nat × Place × Nat)
  got  : List (Nat × List Byte)
  deriving DecidableEq, Repr

/-- A record that has begun and not completed (R118, R215, R254). -/
structure Active where
  /-- Its number among the records of its core (it names the holder of basins, R254). -/
  num    : Nat
  r      : Record
  /-- Destination elements whose writes have been performed (R221, R222). -/
  done   : Nat
  /-- Every write has been made; completion may follow (R222, R254). -/
  ready  : Bool
  /-- Answers to the domain reads of the element in progress, each with the number of its read (R221). -/
  inbox  : List (Nat × PeerAnswer)
  /-- Domain writes sent and not acknowledged, by the numbers of their requests (R278). -/
  acks   : List Nat
  /-- Domain element reads that have been sent (R190). -/
  asked  : Nat
  /-- Of the element in progress: the reads that have been made, by number (0 an index, 1 the element), the words of one that is
  being made, the pieces of the destination that are still to be written (R221, R344; log 52). -/
  reads  : List (Nat × List Byte)
  words  : Option WordRun
  writes : List (Place × List Byte)
  /-- Matrix records: header, basins used per slice in replica order, products after rounding 1, bias (R250). -/
  header : Option Header
  basins : List (Nat × Fin 32)
  outs   : List (List (BitVec 128))
  bias   : List (BitVec 128)
  /-- Output rows landed (R251). -/
  landed : Nat
  /-- The basin that was refilled after a parity error (R312). -/
  retried : Bool
  /-- The tile that its fills read (R242). -/
  tile   : Option TileRead
  /-- Header and ranges whose bytes a fill is still to read or write (R266): empty when none. -/
  fills  : List (Word × Nat)
  deriving DecidableEq, Repr

/-- One of the four engines of a core (R118, R121, R223, R224). -/
structure Engine where
  queue     : List Record
  active    : List Active
  cancelled : BitVec 16
  completed : BitVec 16
  /-- ESTAT.CAUSE and FAULT (R121). -/
  latch     : Option (BitVec 9)
  /-- A latched fault not yet delivered: LS_TVAL (R297). -/
  undelivered : Option Word
  /-- Copy channels: write pointer (R223) and whether a faulted record stopped it. -/
  ptr       : Word
  ptrStopped : Bool
  /-- Copy channels: whether a reservation was withdrawn since the last CPYBULK (R225), whether the channel waits for a DRAM
  bank and since when (R224), and when the last CPYBULK was in progress. -/
  withdrawn : Bool
  waiting   : Option (Nat × Nat)
  lastBulk  : Nat
  deriving DecidableEq, Repr

/-! ## Basins -/

/-- The state of a basin (R241); a reserved one is held for a record and waits for its fill, of which a core makes two at once
(R242). -/
inductive BasinState where
  | invalid | reserved | filling | valid | stale
  deriving DecidableEq, Repr

/-- A basin (R232, R241): state, tag, header, contents, column exponents and columns with specials (R182, R185), scales
(R186), use time (R243), the record that holds it, whether it is pinned (R257). -/
structure Basin where
  st     : BasinState
  asid   : BitVec 16
  hdr    : Word
  slice  : Nat
  header : Header
  data   : Vector (BitVec 512) 128
  exps   : Vector Int 64
  special : BitVec 64
  scales : List Byte
  useAt  : Nat
  holder : List Nat
  pinned : Bool
  deriving DecidableEq, Repr

/-- An entry of a task's pin table (R257). -/
structure PinEntry where
  hdr   : Word
  slices : BitVec 8
  deriving DecidableEq, Repr

/-! ## L1 -/

/-- A word that a core's L1 holds (R202 to R204): virtual word number, ASID, request type, back tag or domain word,
data (of a .wt or .si copy), lease end in ns, the spans it is registered with (R203), whether the access that filled it found R and W
set (R211: an L1 hit was checked when its line was filled), the core's copy channels that have written the word since (R223), and
whether the copy holds an uncorrectable error (R312). -/
structure L1Word where
  va8   : Nat
  asid  : BitVec 16
  rq    : BitVec 2
  place : Place
  data  : Word
  ends  : Nat
  spans : List Nat
  rd    : Bool
  wr    : Bool
  late  : BitVec 2
  bad   : Bool
  deriving DecidableEq, Repr

/-! ## Tasks -/

/-- The task on a core (R23, R44). `epoch` numbers the tasks of the device. -/
structure Task where
  vale  : Fin 16
  graph : Nat
  node  : Nat
  inst  : Nat
  image : Word
  args  : Word
  count : Nat
  alloc : Nat
  size  : Nat
  epoch : Nat
  deriving DecidableEq, Repr

/-- A region's snapshot (R126). -/
structure Snapshot where
  pc    : Word
  live  : BitVec 16
  n     : Vector Word 16
  bars  : List (BitVec 6 × BitVec 128)
  stats : List (Nat × BitVec 128)
  pins  : List PinEntry
  lane  : Restart
  deriving DecidableEq, Repr

/-- CORE_STATE.STATE (R309). -/
inductive RunState where
  | idle | running | trapped | stopping | captured | transit
  deriving DecidableEq, Repr

/-- Why a core is stopping (R307, R310, R330, R61, R37). -/
inductive StopWhy where
  | capture | discard | abort | leave | scrub | graphAbort
  deriving DecidableEq, Repr

/-- One compute core. -/
structure Core where
  ls      : LeadSlice
  steer   : List SteerEntry
  lane    : LaneSlice
  engines : Vector Engine 4
  /-- Numbers given to records of this core (the model's own). -/
  recSeq  : Nat
  scratch : Memory
  l1      : List L1Word
  spanSeq : Nat
  /-- How often copies of domain words have had to leave L1 or change: a load that was out then fills none (R204, R205, R223; the
  model's own). -/
  l1Gen   : Nat
  basins  : Vector Basin 32
  useSeq  : Nat
  pins    : List PinEntry
  /-- The tile that a BPIN reads (R257). -/
  pinFill : Option TileRead
  scales  : List (BitVec 32)
  /-- The scratchpad banks that the copy channels have used in a lane clk, and the clk from whose words on a write that lands in that
  clk is visible (R135, R214). -/
  banks   : BitVec 32
  banksAt : Nat
  task    : Option Task
  run     : RunState
  stop    : Option StopWhy
  /-- A committing access was issued; the next word must be REGION or HALT (R306). -/
  commit  : Bool
  /-- The task is sealed (R306). -/
  isSealed : Bool
  /-- The region whose snapshot is the restart state (R304), and one whose marker is not yet taken (R305). -/
  snap    : Option Snapshot
  opening : Option Snapshot
  /-- Bank commands of this task in flight, and status records written since the last REGION (R126, R288). -/
  bankOut : Nat
  bankStats : List (Nat × BitVec 128)
  /-- The bytes that the ENQ at the fetch address has read so far (R71). -/
  enqGot  : List Byte
  laneFault : Option Report
  poisoned : Option Report
  /-- An engine fault is due at the next issue boundary (R297). -/
  due     : Bool
  /-- The REGION that waits for a steering entry found the stream open (R126). -/
  opens   : Bool
  /-- The object and phase that a BARWAIT waits on, and whether no record named it at some instant of the wait (R230). -/
  waitsOn : Option (Nat × Bool)
  starved : Bool
  /-- The last report was a TRAP's or a BRK's: RESUME continues past it (R299). -/
  resumePast : Bool
  /-- CORE_STATE.RESULT and CTX_VALID, CORE_CAUSE, CORE_EPC, CORE_TVAL, CTX_ADDR, MC_COUNT, MC_LAST (R309). -/
  result  : BitVec 8
  ctxValid : Bool
  cCause  : BitVec 12
  cEpc    : Word
  cTval   : Word
  ctxAddr : Word
  uncorrected : BitVec 32
  corrected : BitVec 32
  mcLast  : BitVec 9
  deriving DecidableEq, Repr

/-! ## Images, graphs, interfaces, vales -/

/-- A section of an image (R11). -/
structure Section where
  kind : Nat
  len  : Nat
  off  : Nat
  sig  : Nat
  deriving DecidableEq, Repr

/-- A sync table entry (R13). -/
structure SyncEntry where
  kind : Nat
  id   : Nat
  valA : Nat
  valB : Nat
  deriving DecidableEq, Repr

/-- An image that is loaded or loading (R10 to R18). -/
structure Image where
  base     : Word
  len      : Nat
  signer   : Nat
  entry    : Nat
  scratch  : Nat
  sections : List Section
  syncs    : List SyncEntry
  /-- Its unload has been requested (R18). -/
  leaving  : Bool
  deriving DecidableEq, Repr

/-- A load command in progress (R15): its response address and tag, and the image being checked. -/
structure LoadJob where
  resp  : Word
  tag   : BitVec 32
  image : Image
  deriving DecidableEq, Repr

/-- A closed packet (R25). -/
structure Packet where
  src   : StoreSource
  words : List Word
  deriving DecidableEq, Repr

/-- A packet that has not closed (R25). -/
structure OpenPacket where
  src   : StoreSource
  /-- The vale of the task that stored its first word (R25, R45). -/
  vale  : Option (Fin 16)
  ep    : Endpoint
  words : List Word
  since : Nat
  /-- The store that closes it has found its FIFO full and waits for room (R282, R302). -/
  waits : Bool
  deriving DecidableEq, Repr

/-- A node of a graph in flight (R19, R21). -/
structure Node where
  image  : Word
  args   : Word
  count  : Nat
  preds  : Nat
  prio   : Fin 4
  tiles  : List Word
  predAt : Word
  succs  : List Nat
  halted : Nat
  retired : Bool
  deriving DecidableEq, Repr

/-- A graph in flight (R20, R329, R330). -/
structure Graph where
  num    : Nat
  nodes  : List Node
  doneAt : Word
  doneVal : Word
  aborted : Bool
  deriving DecidableEq, Repr

/-- What a task that re-enters the pool brings with it (R56, R304). -/
structure Again where
  inst : Nat
  snap : Option Snapshot
  deriving DecidableEq, Repr

/-- An entry of a ready FIFO (R52, R53, R56). -/
structure Ready where
  graph : Nat
  node  : Nat
  next  : Nat
  since : Nat
  again : Option Again
  deriving DecidableEq, Repr

/-- A basin tag as the graph engine's shadow holds it (R54). -/
structure ShadowTag where
  asid  : BitVec 16
  hdr   : Word
  basin : Fin 32
  deriving DecidableEq, Repr

/-- A change that has not reached the shadow (R54): the basin's new tag, or none. -/
structure ShadowChange where
  core  : Fin 256
  basin : Fin 32
  tag   : Option ShadowTag
  deriving DecidableEq, Repr

/-- A window of the interface (R33). -/
structure Win where
  base : Word
  size : Word
  attr : Word
  deriving DecidableEq, Repr

/-- IF_STATE.STATE (R31). -/
inductive IfPhase where
  | unlocked | locked | run | error
  deriving DecidableEq, Repr

/-- A vale's interface block (R30 to R38). -/
structure Iface where
  phase   : IfPhase
  gen     : BitVec 16
  result  : BitVec 4
  reportBusy : Bool
  scrubBusy : Bool
  cause   : BitVec 9
  nonce   : Vector Word 4
  drop    : Word
  host    : Word
  mbx     : List Packet
  ifc     : List Packet
  head    : Word
  words   : Vector Word 8
  wins    : Vector Win 8
  /-- IF_REPORT, 512 bytes. -/
  report  : BitVec 4096
  /-- MBX_OUT, 2,048 bytes. -/
  out     : Vector Word 256
  /-- Bytes 0x000 to 0x19F of a report in assembly (R38). -/
  job     : Option (BitVec 3328)
  /-- The scrub in progress began with a STOP (R37). -/
  stopping : Bool
  deriving DecidableEq, Repr

/-- VALE_STATE.RSTATE (R48). -/
inductive RState where
  | stable | growPending | shrinkPending | rehash | channelMove | settle
  deriving DecidableEq, Repr

/-- A migration entry (R50). -/
structure Migr where
  src : Nat
  dst : Nat
  pte : Nat
  log2 : Nat
  deriving DecidableEq, Repr

/-- A resize in progress (R57 to R65): the sets joining and leaving, the leaving cores taken up, the slices and channels in
transit, the slice set before the resize and after it, the migration entries left, the walker. -/
structure Resize where
  joinC  : BitVec 256
  joinS  : BitVec 128
  joinCh : BitVec 512
  leaveC : BitVec 256
  leaveS : BitVec 128
  leaveCh : BitVec 512
  transC : BitVec 256
  transS : BitVec 128
  transCh : BitVec 512
  oldS   : BitVec 128
  newS   : BitVec 128
  migr   : List Migr
  migrated : BitVec 1024
  deriving DecidableEq, Repr

/-- One vale: its register block (R45 to R50), memory control block (R196, R197), loader, graph engine and interface. -/
structure Vale where
  cores    : BitVec 256
  slices   : BitVec 128
  channels : BitVec 512
  key      : BitVec 6
  /-- The slot that VALE_KEY names was zeroised while the vale named it, and VALE_KEY has not been written since (R39). -/
  keyLost  : Bool
  asid     : BitVec 16
  prio     : BitVec 2
  rstate   : RState
  result   : BitVec 8
  predErr  : Bool
  predNode : BitVec 16
  wrErr    : Bool
  nextCores : BitVec 256
  nextSlices : BitVec 128
  nextChannels : BitVec 512
  migrBase : Word
  migrCount : Word
  taskDrop : Word
  root     : BitVec 27
  lease    : BitVec 15
  memResult : BitVec 8
  shootBusy : Bool
  resize   : Option Resize
  /-- The attestation record (R38). -/
  meas     : BitVec 384
  exts     : BitVec 32
  images   : List Image
  load     : Option LoadJob
  /-- Closed launch packets, oldest first (R27). -/
  commands : List Packet
  graphs   : List Graph
  fifos    : Vector (List Ready) 4
  /-- Predicate reads in progress: graph and node (R51). -/
  preds    : List (Nat × Nat)
  /-- Stores of its graph engine to peers that wait for their port, oldest first (R47 CLASS, R345; log 60). -/
  outgoing : List (Word × List Byte)
  rot      : BitVec 8
  shadow   : Vector (List ShadowTag) 256
  lag      : List ShadowChange
  iface    : Iface
  deriving DecidableEq, Repr

/-! ## Security engine, channels, ports, hub -/

/-- The security engine (R39, R42). A key is named by the number of the draw that made it. -/
structure Security where
  slots   : Vector (Option Nat) 64
  keys    : Nat
  signers : Vector (Option (BitVec 384 × BitVec 384)) 8
  result  : BitVec 8
  busy    : Bool
  /-- What RESULT will read when the command in progress has finished. -/
  outcome : BitVec 8
  addr    : Word
  /-- The staged firmware image (R42). -/
  staged  : Option (List Byte)
  fwDigest : BitVec 384
  deriving DecidableEq, Repr

/-- A bank command (R281, R282): who sent it, the six words, and BASE as it translated, with whether the leaf is a
compute-capable one. -/
structure BankCmd where
  core  : Fin 256
  epoch : Nat
  vale  : Fin 16
  words : Vector Word 6
  pa    : Option (Nat × Bool)
  deriving DecidableEq, Repr

/-- A handler run (R284). -/
structure BankRun where
  bank  : Fin 32
  pc    : Nat
  belt  : Vector Word 16
  n     : Vector Word 16
  finished : Bool
  deriving DecidableEq, Repr

/-- The command a channel serves (R283, R288, R291), with the handler words that its runs issue (R284). -/
structure Serve where
  cmd      : BankCmd
  code     : List (BitVec 32)
  status   : BitVec 32
  runs     : List BankRun
  combiner : Option Word
  ended    : Nat
  deriving DecidableEq, Repr

/-- A pseudo-channel's controller and bank unit (R200, R282, R284); a CC_FRAME is its V bit and its FRAME. -/
structure Channel where
  frames   : Vector (BitVec 10) 32
  handlers : Vector (Option (List (BitVec 32))) 16
  fifo     : List BankCmd
  serving  : Option Serve
  deriving DecidableEq, Repr

/-- PORT_STATE.STATE (R324). -/
inductive PortPhase where
  | down | train | up | repair | retrain
  deriving DecidableEq, Repr

/-- A fabric port (R316 to R319, R324). -/
structure Port where
  phase   : PortPhase
  lanes   : BitVec 5
  good    : BitVec 5
  replays : BitVec 32
  /-- Failed replays of one flit in a row (R317). -/
  inRow   : Nat
  /-- A replay has been requested and not been met (R317). -/
  replaying : Bool
  /-- Sequence number of the next flit expected (R317). -/
  expect  : BitVec 16
  /-- Flits handed to the transaction layer (R317). -/
  handed  : Nat
  /-- The sender: the sequence number of the next flit, the replay buffer of flits that are not acknowledged, oldest first, the
  credits that the partner's last flit carried (R317). -/
  nextOut : BitVec 16
  replay  : List Flit
  credits : BitVec 32
  partner : Option Partner
  /-- The last training failed; a new attempt is due every 100 ms (R316). -/
  failed  : Bool
  /-- The vale whose request the port took last (R47 CLASS; log 60). -/
  lastVale : Fin 16
  /-- Engines whose next request waits at the port for its turn (R47 CLASS; log 60). -/
  asking : List (Fin 256 × DomAgent × Fin 16)
  deriving DecidableEq, Repr

/-- A sequence of domain writes (R278): source core and agent, egress switch, writes sent, prefix acknowledged. -/
structure WriteSeq where
  core  : Fin 256
  who   : DomAgent
  path  : Nat
  next  : BitVec 32
  acked : BitVec 32
  deriving DecidableEq, Repr

/-- The emulation of an atomic (R277): attempts begun, and the word read whose CAS is to be sent or is out. -/
structure Emulation where
  tries : Nat
  read  : Option Word
  out   : Bool
  deriving DecidableEq, Repr

/-- A domain request that has left the device and is not complete (R277, R278, R319, R321): its number, the agent, the queue entry,
record or read that sent it, the peer, address and length, the port and the egress switch, when it left, the sequence number of a
write, whether its acknowledgement came in time (R321), whether an atomic's old value is back, an emulation, and L1's count of
departed domain copies when it left (R204, R205, R223). -/
structure Request where
  id    : Nat
  core  : Fin 256
  who   : DomAgent
  num   : Nat
  part  : Nat
  dev   : BitVec 10
  addr  : Word
  len   : Nat
  port  : Fin 18
  path  : Nat
  since : Nat
  wseq  : Option (BitVec 32)
  acked : Bool
  back  : Bool
  emul  : Option Emulation
  gen   : Nat
  deriving DecidableEq, Repr

/-- The path to a device (R278): its port and egress switch, until a link reset. -/
structure Path where
  dev  : BitVec 10
  port : Fin 18
  path : Nat
  deriving DecidableEq, Repr

/-- An access of a peer or of a host that this device serves and has not answered (R278, R344): it waits for a DRAM bank or for an
earlier write of its source, or its words are read or written one by one in a vale. -/
structure Inbound where
  asks : PeerRequest ⊕ HostAccess
  run  : Option (Fin 16 × WordRun)
  deriving DecidableEq, Repr

/-- The last write of a source that this device has performed, by its number and the restarts before it (R278, R319). -/
structure InSeq where
  dev  : BitVec 10
  core : Fin 256
  who  : DomAgent
  path : Nat
  era  : Nat
  last : BitVec 32
  deriving DecidableEq, Repr

/-- A packet in the task mailbox FIFO (R302). -/
structure TaskPacket where
  core  : Fin 256
  vale  : Fin 16
  words : List Word
  deriving DecidableEq, Repr

/-- A record that has joined an exchange (R326): its SEQ, core and record, what it asks for, the bytes it brings, which
outlive its task (R307). -/
structure Joined where
  seq   : BitVec 32
  core  : Fin 256
  num   : Nat
  flags : Nat
  aux   : Nat
  data  : List Byte
  deriving DecidableEq, Repr

/-- A collective group (R326): the last completed SEQ with this member's result, this member's record in the pending exchange, and
the SEQ of a record that another member has joined to it. -/
structure Coll where
  last  : Option (BitVec 32 × List Byte)
  pend  : Option Joined
  other : Option (BitVec 32)
  deriving DecidableEq, Repr

/-- What this device has sent out (log 9): requests of a core's agent to a peer, replies to a peer's request or to a host's
access (nothing for an error), flits of a port (R317). -/
inductive Outgoing where
  | request (id : Nat) (core : Fin 256) (who : DomAgent) (dev : BitVec 10) (addr : Word) (len : Nat) (op : PeerOp)
  | reply (dev : BitVec 10) (ans : PeerAnswer)
  | hostReply (src : BitVec 32) (bytes : Option (List Byte))
  | flit (p : Fin 18) (x : Flit)
  deriving DecidableEq, Repr

/-- The hub block and what stands behind it (R302, R323). -/
structure Hub where
  index    : BitVec 10
  mgmtBase : Word
  result   : BitVec 8
  teardown : Option (Fin 16)
  pwrLimit : BitVec 12
  power    : BitVec 12
  limiting : Bool
  vdd      : BitVec 10
  domMask  : Vector Word 16
  bind     : Vector Word 256
  grpCfg   : Vector Word 64
  grpList  : Vector Word 64
  /-- GATE_WAYS and GATE_BANKS as written; the banks and ways whose gate took effect; those still waking (R214, R323). -/
  gateWays : Vector (BitVec 16) 128
  gateBanks : Vector (BitVec 32) 256
  offBanks : Vector (BitVec 32) 256
  wakingBanks : Vector (BitVec 32) 256
  wakingWays : Vector (BitVec 16) 128
  tmbx     : List TaskPacket
  tHead    : Word
  tWords   : Vector Word 8
  /-- Packets that have not closed (R25). -/
  opens    : List OpenPacket
  seqs     : List WriteSeq
  /-- Domain requests that are out, oldest first, the number of the next one, the paths (R278, R321). -/
  reqs     : List Request
  reqSeq   : Nat
  paths    : List Path
  /-- Accesses that this device serves for others, oldest first, and the writes performed of each source (R278, R320, R344). -/
  inbound  : List Inbound
  inSeqs   : List InSeq
  colls    : Vector Coll 64
  /-- The vales that the loader engine and the collective engine served last (R47 CLASS; log 60). -/
  lastLoad : Fin 16
  lastColl : Fin 16
  /-- Tasks started since device reset (the model's own numbering). -/
  epochs   : Nat
  /-- Graphs accepted since device reset (the model's own numbering). -/
  graphSeq : Nat
  deriving DecidableEq, Repr

/-- A memory stack's activation regulator (R294): LIMIT, the value firmware wrote (R332 lowers LIMIT for a time), DELAYED,
COUNT. -/
structure Stack where
  limit   : BitVec 20
  written : BitVec 20
  delayed : BitVec 32
  count   : BitVec 20
  deriving DecidableEq, Repr

/-- The management core (R100, R343): its lead slice, firmware memory, and whether it has issued a committing access (R306; log
63). -/
structure Mgmt where
  ls : LeadSlice
  fw : Memory
  commit : Bool
  deriving DecidableEq, Repr

/-! ## Who moves -/

/-- An agent that can take a step. -/
inductive Agent where
  | mgmt
  | lead (c : Fin 256)
  | lane (c : Fin 256)
  | engine (c : Fin 256) (e : Fin 4)
  | bank (ch : Fin 512) (run : Nat)
  | graph (v : Fin 16)
  | device
  deriving DecidableEq, Repr

/-- What the machine is to do next (log 1): let an agent take its next move, let an event happen to an agent, let time pass, drop an L1
word (R269), fill or drop an entry of a translation cache (R202, log 14), fill or drop a line of an L2 slice (R204, log 41), read ahead
into a fetch buffer (R69, R70; log 61), limit how many elements a copy moves in one step (log 52), say whether the accesses that issue
from now on are ones that do not fail (log 8), whether the words of an access are read and written one by one (log 52), let a port take a
store of a graph engine (R47, R345; log 60), let another member's record join the pending exchange of a group (R326; log 46), let a port
send a flit, or send again from one that its partner asks for (R317; log 62). -/
inductive Act where
  | move (a : Agent)
  | event (a : Agent) (i : Instr)
  | wait (ns : Nat)
  | drop (c : Fin 256) (va8 : Nat)
  | cacheTranslation (die : Fin 4) (v : Fin 16) (va : Word)
  | evictTranslation (die : Fin 4) (asid : BitVec 16) (page : Nat)
  | fillLine (v : Fin 16) (line : Nat)
  | evictLine (i : Fin 128) (line : Nat)
  | prefetch (c : Fin 256) (lane : Bool) (va : Word)
  | chunk (n : Nat)
  | bold (b : Bool)
  | split (b : Bool)
  | sendStore (v : Fin 16)
  | joined (g : Fin 64) (seq : BitVec 32)
  | sendFlit (p : Fin 18) (payload : BitVec 1920) (credits : BitVec 32)
  | replayFlits (p : Fin 18) (from_ : BitVec 16)
  deriving DecidableEq, Repr

/-- An entry of a compute die's translation cache (R198, R202): a 4 KiB page of an ASID, the page's physical address, whether
the frame is compute-capable, and R and W of its leaf. -/
structure CachedPage where
  die  : Fin 4
  asid : BitVec 16
  page : Nat
  pa   : Nat
  cc   : Bool
  r    : Bool
  w    : Bool
  deriving DecidableEq, Repr

/-- A line that an L2 slice holds: its line index PA[38:7] (R62), and whether it is dirty (R64). -/
structure L2Line where
  line  : Nat
  dirty : Bool
  deriving DecidableEq, Repr

/-- A DRAM bank that a copy channel of a core has reserved (R224). -/
structure BulkHold where
  bank : Nat
  core : Fin 256
  eng  : Fin 4
  deriving DecidableEq, Repr

/-- The state of the machine. -/
structure State where
  /-- TIME, in ns (R101). -/
  now    : BitVec 64
  /-- Steps taken, free values drawn (the model's own counters, log 2, 15). -/
  ticks  : Nat
  draws  : Nat
  /-- The agent in turn, what is scheduled, and whether the last instruction waited (log 1). -/
  turn   : Agent
  agenda : List Act
  stalled : Bool
  /-- DRAM by physical address, plaintext under the key of `tags` (R40, R41): 128-byte line, key and number of writes. -/
  dram   : Memory
  tags   : List (Nat × (Nat × Nat))
  /-- What the translation caches hold (R202, log 14). -/
  pages  : List CachedPage
  /-- The lines that each L2 slice holds (R62 to R64, R204); their data stands in `dram` (log 41). -/
  l2     : Vector (List L2Line) 128
  /-- The DRAM banks that are reserved (R224). -/
  bulk   : List BulkHold
  /-- The elements that a copy moves in one step at most; 0 for no limit (the model's own, log 52). -/
  chunk  : Nat
  /-- The accesses that issue now do not fail, and nothing waits behind them (the model's own, log 8). -/
  bold   : Bool
  /-- The read and the write of a copy element, and the words of each access, are steps of their own (the model's own, log 52). -/
  split  : Bool
  /-- Words marked uncorrectable (R312). -/
  poison : List ErrorAt
  mgmt   : Mgmt
  cores  : Vector Core 256
  vales  : Vector Vale 16
  chans  : Vector Channel 512
  hbm    : Vector Stack 8
  ports  : Vector Port 18
  sec    : Security
  hub    : Hub
  /-- What left the device, latest first (log 9). -/
  outbox : List Outgoing
  deriving DecidableEq, Repr

/-! ## Reset -/

/-- A lead slice with every register zero (R101, R300; log 4). -/
def LeadSlice.zero : LeadSlice :=
  { pc := 0, belt := Vector.replicate 16 (.val 0), n := Vector.replicate 16 (.val 0), lp := Vector.replicate 16 0,
    lane := false, vended := false, forkId := 0, machine := false, cause := 0, epc := 0, tval := 0, region := 0,
    seq := 0, lq := [], sq := [], held := [], buf := [] }

/-- A lane slice as R213 leaves it: rows zero and full, masks and pointers zero, no stream. -/
def LaneSlice.zero : LaneSlice :=
  { rows := Vector.replicate 256 0, full := BitVec.allOnes 256, masks := Vector.replicate 8 0,
    ptrs := Vector.replicate 8 0, pc := 0, levels := [], spacing := 0, restart := .idle, flight := [], gathers := [],
    clk := 0, counted := false, popDue := false, ticked := false, overrun := false, stopped := false, starved := false, after := 0,
    buf := [],
    body := [] }

/-- An engine with an empty queue (R121, R223). -/
def Engine.zero : Engine :=
  { queue := [], active := [], cancelled := 0, completed := 0, latch := none, undelivered := none, ptr := 0,
    ptrStopped := false, withdrawn := false, waiting := none, lastBulk := 0 }

/-- A header with every field zero. -/
def Header.zero : Header :=
  { fmt := 0, s := 0, form := 0, codec := 0, k := 0, n := 0, cratio := 0, tau := 0, dlen := 0, data := 0, expv := 0,
    scalev := 0 }

/-- An invalid basin, zero (R213). -/
def Basin.zero : Basin :=
  { st := .invalid, asid := 0, hdr := 0, slice := 0, header := Header.zero, data := Vector.replicate 128 0,
    exps := Vector.replicate 64 0, special := 0, scales := [], useAt := 0, holder := [], pinned := false }

/-- A core at device reset: idle, every register zero (R309; log 4). -/
def Core.zero : Core :=
  { ls := LeadSlice.zero, steer := [], lane := LaneSlice.zero, engines := Vector.replicate 4 Engine.zero, recSeq := 0,
    scratch := [], l1 := [], spanSeq := 0, l1Gen := 0, basins := Vector.replicate 32 Basin.zero, useSeq := 0, pins := [], pinFill := none,
    scales := [], banks := 0, banksAt := 0, task := none, run := .idle, stop := none, commit := false, isSealed := false, snap := none,
    opening := none, bankOut := 0, bankStats := [], enqGot := [], laneFault := none, poisoned := none, due := false, opens := false,
    waitsOn := none, starved := false, resumePast := false, result := 0, ctxValid := false,
    cCause := 0, cEpc := 0, cTval := 0, ctxAddr := 0, uncorrected := 0, corrected := 0, mcLast := 0 }

/-- An interface block at reset (R31 to R34). -/
def Iface.zero : Iface :=
  { phase := .unlocked, gen := 0, result := 0, reportBusy := false, scrubBusy := false, cause := 0,
    nonce := Vector.replicate 4 0, drop := 0, host := 0, mbx := [], ifc := [], head := 0, words := Vector.replicate 8 0,
    wins := Vector.replicate 8 { base := 0, size := 12, attr := 0 }, report := 0, out := Vector.replicate 256 0,
    job := none, stopping := false }

/-- A vale that owns nothing (R45, R197). -/
def Vale.zero : Vale :=
  { cores := 0, slices := 0, channels := 0, key := 0, keyLost := false, asid := 0, prio := 0, rstate := .stable, result := 0,
    predErr := false, predNode := 0, wrErr := false, nextCores := 0, nextSlices := 0, nextChannels := 0, migrBase := 0,
    migrCount := 0, taskDrop := 0, root := 0, lease := 2048, memResult := 0, shootBusy := false, resize := none,
    meas := 0, exts := 0, images := [], load := none, commands := [], graphs := [], fifos := Vector.replicate 4 [],
    preds := [], outgoing := [], rot := 0, shadow := Vector.replicate 256 [], lag := [], iface := Iface.zero }

/-- The security engine at reset (R42). -/
def Security.zero : Security :=
  { slots := Vector.replicate 64 none, keys := 0, signers := Vector.replicate 8 none, result := 0, busy := false,
    outcome := 0, addr := 0, staged := none, fwDigest := Config.resetFwDigest }

/-- A channel without frames, handlers or commands (R200, R284). -/
def Channel.zero : Channel :=
  { frames := Vector.replicate 32 0, handlers := Vector.replicate 16 none, fifo := [], serving := none }

/-- A port at reset: DOWN (R324). -/
def Port.zero : Port :=
  { phase := .down, lanes := 0, good := 0, replays := 0, inRow := 0, replaying := false, expect := 0, handed := 0, nextOut := 0,
    replay := [], credits := 0,
    partner := none, failed := false, lastVale := 15, asking := [] }

/-- The hub at reset (R302, R323). -/
def Hub.zero : Hub :=
  { index := 0, mgmtBase := 0, result := 0, teardown := none, pwrLimit := 1500, power := 0, limiting := false,
    vdd := 400, domMask := Vector.replicate 16 0, bind := Vector.replicate 256 0, grpCfg := Vector.replicate 64 0,
    grpList := Vector.replicate 64 0, gateWays := Vector.replicate 128 0, gateBanks := Vector.replicate 256 0,
    offBanks := Vector.replicate 256 0, wakingBanks := Vector.replicate 256 0, wakingWays := Vector.replicate 128 0,
    tmbx := [], tHead := 0, tWords := Vector.replicate 8 0, opens := [], seqs := [], reqs := [],
    reqSeq := 0, paths := [], inbound := [], inSeqs := [],
    colls := Vector.replicate 64 { last := none, pend := none, other := none }, lastLoad := 15, lastColl := 15, epochs := 0,
    graphSeq := 0 }

/-- The management core at reset: machine mode, at the first word of firmware memory (R343). -/
def Mgmt.zero : Mgmt :=
  { ls := { LeadSlice.zero with pc := 0x00FF000000000000, machine := true }, fw := [], commit := false }

/-- The machine right after device reset (R101, R343; what the spec does not give is named in log 1, 4, 6, 12). -/
def State.reset : State :=
  { now := 0, ticks := 0, draws := 0, turn := .mgmt, agenda := [], stalled := false, dram := [], tags := [], pages := [],
    l2 := Vector.replicate 128 [],
    bulk := [], chunk := 0, bold := false, split := false, poison := [], mgmt := Mgmt.zero,
    cores := Vector.replicate 256 Core.zero, vales := Vector.replicate 16 Vale.zero,
    chans := Vector.replicate 512 Channel.zero, hbm := Vector.replicate 8 { limit := 0, written := 0, delayed := 0, count := 0 },
    ports := Vector.replicate 18 Port.zero, sec := Security.zero, hub := Hub.zero, outbox := [] }

end Sys2Proof.Machine
end

