-- ==== Sys2Proof/Machine/Mem.lean ====
section
/-! DEFINITION. Machine/Mem.lean: sorted lists as memories (R6), and DRAM under its keys (R40, R41). -/
namespace Sys2Proof.Machine

/-! ## Sorted lists -/

/-- What address `a` holds; an unlisted address reads as `z`. -/
def alGet {β : Type} (z : β) : List (Nat × β) → Nat → β
  | [], _ => z
  | (k, b) :: t, a => if a = k then b else if a < k then z else alGet z t a

/-- Enter `b` at `a`: no entry is kept where the value is what an unlisted address reads as. -/
def alSet {β : Type} [DecidableEq β] (z : β) : List (Nat × β) → Nat → β → List (Nat × β)
  | [], a, b => if b = z then [] else [(a, b)]
  | (k, c) :: t, a, b =>
    if a = k then (if b = z then t else (a, b) :: t)
    else if a < k then (if b = z then (k, c) :: t else (a, b) :: (k, c) :: t)
    else (k, c) :: alSet z t a b

/-- Every address from `lo` on, strictly rising, and no entry that equals `z`. -/
def alWfFrom {β : Type} [DecidableEq β] (z : β) : Nat → List (Nat × β) → Bool
  | _, [] => true
  | lo, (k, b) :: t => decide (lo ≤ k) && decide (b ≠ z) && alWfFrom z (k + 1) t

/-- The byte at an address. -/
def memGet (m : Memory) (a : Nat) : Byte := alGet 0#8 m a

/-- Write one byte. -/
def memSet (m : Memory) (a : Nat) (b : Byte) : Memory := alSet 0#8 m a b

/-- The canonical form of a memory. -/
def Memory.wf (m : Memory) : Bool := alWfFrom 0#8 0 m

/-- Read `n` bytes from `a` on. -/
def memRead (m : Memory) (a : Nat) : Nat → List Byte
  | 0 => []
  | n + 1 => memGet m a :: memRead m (a + 1) n

/-- Write bytes from `a` on. -/
def memWrite (m : Memory) (a : Nat) : List Byte → Memory
  | [] => m
  | b :: bs => memWrite (memSet m a b) (a + 1) bs

/-- Write listed cells in order, moved by `base`. -/
def memCells (m : Memory) (base : Nat) : List Host.Cell → Memory
  | [] => m
  | (a, b) :: cs => memCells (memSet m (base + a) b) base cs

/-- The number in `n` bytes from `a` on, least significant byte first (R6). -/
def memNum (m : Memory) (a n : Nat) : Nat := ofBytes (memRead m a n)

/-- Write the low `n` bytes of a number. -/
def memPut (m : Memory) (a n v : Nat) : Memory := memWrite m a (toBytes n v)

/-- Zero `n` bytes from `a` on. -/
def memClear (m : Memory) (a n : Nat) : Memory := m.filter fun c => decide (c.1 < a) || decide (a + n ≤ c.1)

/-! ## DRAM under its keys -/

/-- The key under which the line of `pa` was last written, and how many writes it has had; zeros for never. -/
def lineTag (s : State) (pa : Nat) : Nat × Nat := alGet (0, 0) s.tags (pa / 128)

/-- The key under which the line of `pa` was last written; 0 for never. -/
def lineKey (s : State) (pa : Nat) : Nat := (lineTag s pa).1

/-- The 16-byte block that holds `pa`, as a number, read under `key` (R41). What stands in an L2 slice or in an exclusive L1 copy is
garbled like DRAM when the vale's key has changed since it was written: no rule says of a cached byte (log 41). -/
def dramBlock (s : State) (key pa : Nat) : Nat :=
  if lineKey s pa = key then memNum s.dram (pa / 16 * 16) 16
  else (Config.garble (lineKey s pa) key (pa / 16) (lineTag s pa).2).toNat

/-- The byte at physical address `pa` as a reader under `key` sees it (R40, R41). -/
def dramByte (s : State) (key pa : Nat) : Byte :=
  if lineKey s pa = key then memGet s.dram pa
  else BitVec.ofNat 8 (dramBlock s key pa / 256 ^ (pa % 16))

/-- `n` bytes as a reader under `key` sees them. -/
def dramRead (s : State) (key pa : Nat) : Nat → List Byte
  | 0 => []
  | n + 1 => dramByte s key pa :: dramRead s key (pa + 1) n

/-- Bring the whole line of `pa` under `key`: a controller that writes part of a line writes the rest as it reads
it (R40, R41). -/
def dramRekey (s : State) (key pa : Nat) : State :=
  if lineKey s pa = key then s
  else { s with
    dram := memWrite s.dram (pa / 128 * 128) (dramRead s key (pa / 128 * 128) 128)
    tags := alSet (0, 0) s.tags (pa / 128) (key, (lineTag s pa).2) }

/-- Write one byte under `key`. -/
def dramSet (s : State) (key pa : Nat) (b : Byte) : State :=
  let s := dramRekey s key pa
  { s with dram := memSet s.dram pa b
           tags := alSet (0, 0) s.tags (pa / 128) (key, (lineTag s pa).2 + 1) }

/-- Write bytes under `key`. -/
def dramWrite (s : State) (key pa : Nat) : List Byte → State
  | [] => s
  | b :: bs => dramWrite (dramSet s key pa b) key (pa + 1) bs

/-! ## Accesses in parts (R268, R344) -/

/-- Cut `n` bytes from address `a` on at the multiples of `line`: address and length of each piece. -/
def pieces (line : Nat) : Nat → Nat → Nat → List (Nat × Nat)
  | 0, _, _ => []
  | fuel + 1, a, n =>
    if n = 0 then []
    else
      let m := min n (line - a % line)
      (a, m) :: pieces line fuel (a + m) (n - m)

/-- The pieces of a range. -/
def piecesOf (line a n : Nat) : List (Nat × Nat) := pieces line (n / line + 2) a n

/-- The place `k` bytes on. -/
def Place.on (p : Place) (k : Nat) : Place :=
  match p with
  | .dram pa cc => .dram (pa + k) cc
  | .scratch off => .scratch (off + k)
  | .peer d a => .peer d (a + BitVec.ofNat 64 k)
  | p => p

/-- The number that a place's aligned words are counted from. -/
def Place.at : Place → Nat
  | .dram pa _ => pa
  | .scratch off => off
  | .peer _ a => a.toNat
  | _ => 0

/-- The aligned words of pieces, each with its offset in the access, which begins `off` bytes before the first piece. -/
def wordsOf (off : Nat) : List (Place × Nat) → List (Nat × Place × Nat)
  | [] => []
  | (p, n) :: rest =>
    ((piecesOf 8 p.at n).map fun x => (off + (x.1 - p.at), p.on (x.1 - p.at), x.2)) ++ wordsOf (off + n) rest

/-- A word takes its place by its offset. -/
def placeWordAt (x : Nat × List Byte) : List (Nat × List Byte) → List (Nat × List Byte)
  | [] => [x]
  | y :: ys => if x.1 ≤ y.1 then x :: y :: ys else y :: placeWordAt x ys

/-- The bytes of an access whose words have all been read. -/
def WordRun.bytes (r : WordRun) : List Byte := (r.got.foldr placeWordAt []).flatMap Prod.snd

/-! ## Poison (R312) -/

/-- Some aligned word of `n` bytes from `a` on is marked, `at` naming the memory. -/
def poisonedAt (s : State) (mem : Nat → ErrorAt) (a n : Nat) : Bool :=
  (List.range ((a + n - 1) / 8 + 1 - a / 8)).any fun i => s.poison.contains (mem (a / 8 + i))

/-- A store of all 8 bytes of a word clears its mark. -/
def clearPoison (s : State) (mem : Nat → ErrorAt) (a n : Nat) : State :=
  { s with poison := s.poison.filter fun p =>
      !((List.range (n / 8 + 1)).any fun i =>
          decide (a ≤ ((a + 7) / 8 + i) * 8) && decide (((a + 7) / 8 + i) * 8 + 8 ≤ a + n) &&
          decide (p = mem ((a + 7) / 8 + i))) }

/-- Two byte ranges meet. -/
def rangesMeet (a n b m : Nat) : Bool := decide (0 < n) && decide (0 < m) && decide (a < b + m) && decide (b < a + n)

end Sys2Proof.Machine
end

