-- ==== Sys2Proof/Machine/Homes.lean ====
section
/-! DEFINITION. Machine/Homes.lean: the home of a line (R62, R63) and what the L2 slices hold (R64, R201, R204, R214).
A slice's line is kept by its line index and whether it is dirty: the bytes stand once, in DRAM (log 41), and the directory of
a line (R204) is what the cores' L1s hold of it. -/
namespace Sys2Proof.Machine

/-- The 32-bit line index of a physical address (R62 `x`). -/
def lineIndex (pa : Nat) : Nat := pa / 128 % 2 ^ 32

/-- The set of a line within every slice (R62 `g`). -/
def homeSet (line : Nat) : Nat := line % 1024

/-- The slices of a mask in increasing number (R62 `S_sorted`). -/
def slicesOf (m : BitVec 128) : List (Fin 128) := (List.finRange 128).filter fun i => m.getLsbD i.val

/-- The home of a line in a set of slices (R62). -/
def homeSlice (m : BitVec 128) (line : Nat) : Option (Fin 128) :=
  let h := (line % 2 ^ 16) ^^^ (line / 2 ^ 16)
  (slicesOf m)[h * (slicesOf m).length / 2 ^ 16]?

/-- The home set of a vale outside REHASH (R62): a joining slice is homed no line before REHASH. -/
def Vale.homeSlices (x : Vale) : BitVec 128 :=
  match x.resize with
  | some r => if x.rstate = .growPending ∨ x.rstate = .shrinkPending then r.oldS else x.slices
  | none => x.slices

/-- Where an agent sends a request for a line: by the new hash from REHASH entry onwards (R63). -/
def lineRoute (x : Vale) (line : Nat) : Option (Fin 128) :=
  match x.resize with
  | some r => if x.rstate = .rehash then homeSlice r.newS line else homeSlice x.homeSlices line
  | none => homeSlice x.homeSlices line

/-- The slice that serves the request, the line's one home: in REHASH the slice that it was sent to where MIGRATED is set for
its set, else the old home, to which that slice forwards it (R63). -/
def lineHome (x : Vale) (line : Nat) : Option (Fin 128) :=
  match x.resize with
  | some r =>
    if x.rstate = .rehash then
      if r.migrated.getLsbD (homeSet line) then lineRoute x line else homeSlice r.oldS line
    else lineRoute x line
  | none => lineRoute x line

/-- Ways of a slice that are awake (R214). -/
def waysAwake (s : State) (i : Fin 128) : Nat :=
  ((List.range 16).filter fun w => !(s.hub.gateWays[i].getLsbD w || s.hub.wakingWays[i].getLsbD w)).length

/-- The line lies in a registered compute-capable frame: no slice holds it (R201). -/
def ccLine (s : State) (line : Nat) : Bool :=
  let pa := line * 128
  (s.chans[(BitVec.ofNat 9 (pa / 2 ^ 30)).toFin]).frames.any fun f => decide (f = 1#1 ++ BitVec.ofNat 9 (pa / 2 ^ 21))

/-- A slice takes a line into its set; a full set evicts one of its lines, which `pick` names. -/
def takeLine (ways pick : Nat) (lines : List L2Line) (x : L2Line) : List L2Line :=
  let x := { x with dirty := x.dirty || lines.any fun y => decide (y.line = x.line) && y.dirty }
  let others := lines.filter fun y => !decide (y.line = x.line)
  let set := others.filter fun y => decide (homeSet y.line = homeSet x.line)
  if ways = 0 then others
  else if set.length < ways then x :: others
  else match set[pick % set.length]? with
    | some y => x :: others.erase y
    | none => x :: others

/-- Put a line into a slice; which line is evicted is the device's choice (log 15). -/
def holdLine (s : State) (i : Fin 128) (x : L2Line) : State :=
  { s with l2 := s.l2.set i (takeLine (waysAwake s i) (Config.choose s.ticks x.line) s.l2[i] x) }

/-- A line of vale `v` is read or written at its home, which holds it from then on (R204). -/
def touchLine (s : State) (v : Fin 16) (line : Nat) (dirty : Bool) : State :=
  match lineHome s.vales[v] line with
  | some i => if ccLine s line then s else holdLine s i { line := line, dirty := dirty }
  | none => s

/-- The lines of `n` bytes from `pa` on are read or written at their homes. -/
def touchLines (s : State) (v : Fin 16) (pa n : Nat) (dirty : Bool) : State :=
  (List.range ((pa + n - 1) / 128 + 1 - pa / 128)).foldl (fun s i => touchLine s v (pa / 128 + i) dirty) s

/-- Lines leave the L2 slices, written back where they are dirty. -/
def dropLines (s : State) (gone : Fin 128 → L2Line → Bool) : State :=
  { s with l2 := Vector.ofFn fun i => s.l2[i].filter fun x => !gone i x }

/-- Keep at most `ways` lines of each set: what is left when ways are gated (R214). -/
def fitWays (ways : Nat) (lines : List L2Line) : List L2Line :=
  lines.foldl (fun kept x =>
    if (kept.filter fun y => decide (homeSet y.line = homeSet x.line)).length < ways then kept ++ [x] else kept) []

/-- Step 2 of R63 for one set: each line whose old home differs from its new home is handed over, clean where the old home
leaves (R64); the new home makes room by ordinary eviction. -/
def handOver (s : State) (r : Resize) (g : Nat) : State :=
  let moving := (slicesOf r.oldS).flatMap fun i =>
    (s.l2[i].filter fun x => decide (homeSet x.line = g) && decide (homeSlice r.newS x.line ≠ some i)).map fun x => (i, x)
  moving.foldl (fun s (p : Fin 128 × L2Line) =>
    let s := { s with l2 := s.l2.set p.1 (s.l2[p.1].erase p.2) }
    match homeSlice r.newS p.2.line with
    | some j => holdLine s j { p.2 with dirty := p.2.dirty && r.newS.getLsbD p.1.val }
    | none => s) s

end Sys2Proof.Machine
end

