-- ==== Sys2Proof/Machine/Ops.lean ====
section
/-! DEFINITION. Machine/Ops.lean: the named operations over the state: cores, vales, lead slices, translation (R188 to R195),
faults and traps (R297 to R301), issue (R102). -/
namespace Sys2Proof.Machine

/-- The outcome of a step. -/
abbrev Out := Host.Outcome State Fault Refusal

/-! ## Parts of the state -/

/-- Change one core. -/
def State.setCore (s : State) (c : Fin 256) (k : Core) : State := { s with cores := s.cores.set c k }
/-- Change one vale. -/
def State.setVale (s : State) (v : Fin 16) (x : Vale) : State := { s with vales := s.vales.set v x }
/-- Change one channel. -/
def State.setChan (s : State) (ch : Fin 512) (x : Channel) : State := { s with chans := s.chans.set ch x }
/-- Change one port. -/
def State.setPort (s : State) (p : Fin 18) (x : Port) : State := { s with ports := s.ports.set p x }
/-- One core. -/
def State.core (s : State) (c : Fin 256) : Core := s.cores[c]
/-- One vale. -/
def State.vale (s : State) (v : Fin 16) : Vale := s.vales[v]
/-- One channel. -/
def State.chan (s : State) (ch : Fin 512) : Channel := s.chans[ch]
/-- One engine of a core. -/
def Core.eng (k : Core) (e : Fin 4) : Engine := k.engines[e]
/-- Change one engine of a core. -/
def Core.setEng (k : Core) (e : Fin 4) (x : Engine) : Core := { k with engines := k.engines.set e x }

/-- A lead slice. -/
def State.ls (s : State) : LeadId → LeadSlice
  | .mgmt => s.mgmt.ls
  | .core c => (s.core c).ls

/-- Change a lead slice. -/
def State.setLs (s : State) (who : LeadId) (l : LeadSlice) : State :=
  match who with
  | .mgmt => { s with mgmt := { s.mgmt with ls := l } }
  | .core c => s.setCore c { s.core c with ls := l }

/-- The lead slice in turn. -/
def leadInTurn (s : State) : Option LeadId :=
  match s.turn with
  | .mgmt => some .mgmt
  | .lead c => some (.core c)
  | _ => none

/-- The issue has to wait: nothing changes but that it is known (log 1). -/
def State.waiting (s : State) : State := { s with stalled := true }

/-- Increment a saturating 64-bit counter. -/
def satIncr {w : Nat} (x : BitVec w) : BitVec w := if x = BitVec.allOnes w then x else x + 1

/-! ## Ownership and keys -/

/-- The vale owns a core, a slice or a channel (R39). -/
def Vale.ownsAny (x : Vale) : Bool := decide (x.cores ≠ 0) || decide (x.slices ≠ 0) || decide (x.channels ≠ 0)

/-- The key that the vale names while it is keyed (R39). -/
def valeKey (s : State) (v : Fin 16) : Option Nat :=
  if (s.vale v).ownsAny && !(s.vale v).keyLost then s.sec.slots[(s.vale v).key.toFin] else none

/-- The vale is keyed (R39). -/
def keyed (s : State) (v : Fin 16) : Bool := (valeKey s v).isSome

/-- The pseudo-channel of a physical address: PA[38:36] the stack, PA[35:30] the channel (R192). -/
def channelOf (pa : Nat) : Nat := pa / 2 ^ 30 % 512

/-- The DRAM bank of a physical address, numbered over the device (R192). -/
def bankOf (pa : Nat) : Nat := pa / 2 ^ 10 % 32 + 32 * channelOf pa

/-- The bank is held by a reservation of another copy channel than `except_`: every access to it waits (R224). -/
def bankHeld (s : State) (except_ : Option (Fin 256 × Fin 4)) (b : Nat) : Bool :=
  s.bulk.any fun h => decide (h.bank = b) && !decide (except_ = some (h.core, h.eng))

/-- The vale owns the pseudo-channel of a physical address. -/
def ownsPa (s : State) (v : Fin 16) (pa : Nat) : Bool :=
  decide (pa < 2 ^ 39) && (s.vale v).channels.getLsbD (channelOf pa)

/-! ## Translation (R193 to R195) -/

/-- What a translation can fail with, in the order of R195. -/
inductive WalkErr where
  | notMapped | pteFormat | channel | denied
  deriving DecidableEq, Repr

/-- What an access does, as the leaf's R and W bits judge it (R195): fetches are judged by neither (R69). -/
inductive Access where
  | read | write | atomic | fetch
  deriving DecidableEq, Repr

/-- A leaf: the physical address of the byte, whether the page is compute-capable, its R and W with the image attributes
of R17 applied. -/
structure Leaf where
  pa : Nat
  cc : Bool
  r  : Bool
  w  : Bool
  deriving DecidableEq, Repr

/-- Bit `i` of a number. -/
def bit (n i : Nat) : Bool := n.testBit i

/-- The cause code of a walk error for the agent `agent` (R212): classes 3 and 4. -/
def WalkErr.code (agent : Nat) : WalkErr → Nat
  | .notMapped => 96 + 8 * agent
  | .pteFormat => 98 + 8 * agent
  | .channel => 131 + 8 * agent
  | .denied => 129 + 8 * agent

/-- A frame is registered with its channel's controller (R200). -/
def frameRegistered (s : State) (pa : Nat) : Bool :=
  (s.chan ⟨channelOf pa, by unfold channelOf; omega⟩).frames.any fun f => decide (f = 1#1 ++ BitVec.ofNat 9 (pa / 2 ^ 21))

/-- The entry of a table, read under the vale's key as `.nc` (R195). For a 64 KiB page whose group differs, any entry of
the group may be taken (R194): the device's choice (log 15). -/
def tableEntry (s : State) (key table index level : Nat) : Nat :=
  let at_ (i : Nat) := ofBytes (dramRead s key (table + 8 * i) 8)
  let e := at_ index
  if level = 0 && bit e 0 && bit e 6 then
    let group := (List.range 16).map fun j => at_ (index / 16 * 16 + j)
    if group.all (fun x => decide (x = e)) then e else group.getD (Config.pick s.ticks % 16) e
  else e

/-- An entry breaks its form at its level (R194, R195). -/
def badEntry (s : State) (level e : Nat) : Bool :=
  let leaf := bit e 1
  let frame := e / 2 ^ 12 % 2 ^ 27 * 2 ^ 12
  decide (e / 2 ^ 39 ≠ 0) || decide (e / 2 ^ 7 % 32 ≠ 0) || bit e 2 || (leaf && decide (3 ≤ level)) ||
  (!leaf && decide (level = 0)) ||
  (leaf && decide (level = 2) && decide (frame % 2 ^ 30 ≠ 0)) ||
  (leaf && decide (level = 1) && decide (frame % 2 ^ 21 ≠ 0)) ||
  (bit e 6 && (!leaf || decide (level ≠ 0))) || (bit e 6 && decide (frame % 2 ^ 16 ≠ 0)) ||
  (bit e 5 && (!leaf || decide (level ≠ 1) || !frameRegistered s frame))

/-- Bytes of a leaf of a level. -/
def leafSize (level e : Nat) : Nat :=
  match level with
  | 2 => 2 ^ 30
  | 1 => 2 ^ 21
  | _ => if bit e 6 then 2 ^ 16 else 2 ^ 12

/-- The walk from `table` down, one level of the list after another (R193, R195). -/
def walkFrom (s : State) (v : Fin 16) (key : Nat) (va : Nat) (acc : Access) (image : Bool) :
    Nat → Nat → Except WalkErr Leaf
  | table, level + 1 =>
    if !ownsPa s v table then .error .channel
    else
      let shift := 12 + 9 * level
      let e := tableEntry s key table (va / 2 ^ shift % (if level = 4 then 256 else 512)) level
      if !bit e 0 then .error .notMapped
      else if badEntry s level e then .error .pteFormat
      else
        let frame := e / 2 ^ 12 % 2 ^ 27 * 2 ^ 12
        if bit e 1 then
          if !ownsPa s v frame then .error .channel
          else
            let r := bit e 3 || image
            let w := bit e 4 && !image
            let ok := match acc with
              | .read => r
              | .write => w
              | .atomic => r && w
              | .fetch => true
            if ok then .ok ⟨frame + va % leafSize level e, bit e 5, r, w⟩ else .error .denied
        else walkFrom s v key va acc image frame level
  | _, 0 => .error .notMapped

/-- An image of the vale, loaded or loading, covers the address: its pages are read-only (R15, R17), denied by virtual address (log
80). -/
def inImage (x : Vale) (va : Nat) : Bool :=
  (x.images.any fun i => decide (i.base.toNat ≤ va) && decide (va < i.base.toNat + i.len)) ||
  (match x.load with
   | some j => decide (j.image.base.toNat ≤ va) && decide (va < j.image.base.toNat + j.image.len)
   | none => false)

/-- The walk of the vale's tree for a global address (R193 to R195). -/
def walk (s : State) (v : Fin 16) (key va : Nat) (acc : Access) (image : Bool) : Except WalkErr Leaf :=
  walkFrom s v key (va % 2 ^ 56) acc image ((s.vale v).root.toNat * 2 ^ 12) 5

/-- A cached page answers an access as its leaf would have (R194, R198, R202). -/
def useCached (s : State) (v : Fin 16) (e : CachedPage) (va : Nat) (acc : Access) (image : Bool) : Except WalkErr Leaf :=
  if !ownsPa s v e.pa then .error .channel
  else
    let r := e.r || image
    let w := e.w && !image
    let ok := match acc with
      | .read => r
      | .write => w
      | .atomic => r && w
      | .fetch => true
    if ok then .ok ⟨e.pa + va % 2 ^ 12, e.cc, r, w⟩ else .error .denied

/-- The cached pages that may answer for an address of the vale. -/
def cachedFor (s : State) (v : Fin 16) (va : Nat) : List CachedPage :=
  s.pages.filter fun e => decide (e.asid = (s.vale v).asid) && decide (e.page = va % 2 ^ 56 / 2 ^ 12)

/-- The cached page through which an address of the vale is translated, where the device does not walk (log 14). -/
def chosenPage (s : State) (v : Fin 16) (va : Nat) : Option CachedPage :=
  match cachedFor s v va with
  | [] => none
  | e :: es => (e :: es)[Config.choose s.ticks (va / 2 ^ 12) % (es.length + 2)]?

/-- Translate a global address of the vale: through an entry of a translation cache or by a walk, as the device chooses
(R193 to R195, R202; log 14). A vale that is not keyed is denied, its walk being refused at its first read (R342); that the
root's channel is not the vale's own is judged before any read (R195). -/
def translate (s : State) (v : Fin 16) (va : Nat) (acc : Access) : Except WalkErr Leaf :=
  match valeKey s v with
  | none => if ownsPa s v ((s.vale v).root.toNat * 2 ^ 12) then .error .denied else .error .channel
  | some key =>
    let image := inImage (s.vale v) va
    match chosenPage s v va with
    | some e => useCached s v e va acc image
    | none => walk s v key va acc image

/-- The table entries that the walk from `table` down reads: address and length of each, or of the group that it may take (R194,
R195). -/
def walkTables (s : State) (v : Fin 16) (key va : Nat) : Nat → Nat → List (Nat × Nat)
  | table, level + 1 =>
    if !ownsPa s v table then []
    else
      let i := va / 2 ^ (12 + 9 * level) % (if level = 4 then 256 else 512)
      let e := tableEntry s key table i level
      let here : Nat × Nat := if level = 0 && bit e 0 && bit e 6 then (table + i / 16 * 128, 128) else (table + 8 * i, 8)
      here :: (if bit e 0 && !bit e 1 && !badEntry s level e then walkTables s v key va (e / 2 ^ 12 % 2 ^ 27 * 2 ^ 12) level
        else [])
  | _, 0 => []

/-- The table entries that the translation of an address reads: none through a cached page, nor for a vale that is not keyed. -/
def walkReads (s : State) (v : Fin 16) (va : Nat) : List (Nat × Nat) :=
  match valeKey s v, chosenPage s v va with
  | some key, none => walkTables s v key (va % 2 ^ 56) ((s.vale v).root.toNat * 2 ^ 12) 5
  | _, _ => []

/-! ## Banks that a copy channel holds (R224; log 44) -/

/-- The home slice of vale `v` holds the line of a physical address: an access that it serves reaches no channel controller. -/
def homeHolds (s : State) (v : Fin 16) (pa : Nat) : Bool :=
  match lineHome s.vales[v] (lineIndex pa) with
  | some i => s.l2[i].any fun x => decide (x.line = lineIndex pa)
  | none => false

/-- An access of vale `v` waits at the channel controller for a bank that another copy channel than `except_` holds (R224). -/
def bankBlocks (s : State) (v : Fin 16) (except_ : Option (Fin 256 × Fin 4)) (pa : Nat) : Bool :=
  bankHeld s except_ (bankOf pa) && !homeHolds s v pa

/-- The translation of an address waits so for an entry that it reads. -/
def walkHeld (s : State) (v : Fin 16) (except_ : Option (Fin 256 × Fin 4)) (va : Nat) : Bool :=
  !s.bulk.isEmpty && (walkReads s v va).any fun r => bankBlocks s v except_ r.1

/-- An access of the vale to an address waits so, for its walk or for its own bytes. -/
def vaHeld (s : State) (v : Fin 16) (except_ : Option (Fin 256 × Fin 4)) (va : Nat) (acc : Access) : Bool :=
  !s.bulk.isEmpty && (walkHeld s v except_ va || (match translate s v va acc with
    | .ok l => bankBlocks s v except_ l.pa
    | .error _ => false))

/-- An access to `n` bytes from an address on waits so for some row of them. -/
def rangeHeld (s : State) (v : Fin 16) (va n : Nat) (acc : Access) : Bool :=
  !s.bulk.isEmpty && (List.range ((va + n - 1) / 1024 + 1 - va / 1024)).any fun i =>
    vaHeld s v none (max va ((va / 1024 + i) * 1024)) acc

/-- An access to `n` physical bytes from an address on waits so for some line of them. -/
def linesHeld (s : State) (v : Fin 16) (pa n : Nat) : Bool :=
  !s.bulk.isEmpty && (List.range ((pa + n - 1) / 128 + 1 - pa / 128)).any fun i => bankBlocks s v none ((pa / 128 + i) * 128)

/-- Enter a page into a die's translation cache of 8,192 entries (R202): the oldest leaves a full one. -/
def enterPage (pages : List CachedPage) (e : CachedPage) : List CachedPage :=
  let mine := pages.filter fun x => decide (x.die = e.die)
  e :: (if mine.length < 8192 then pages else match mine.getLast? with
    | some x => pages.erase x
    | none => pages)

/-- Entries of an ASID leave the translation caches (R65, R198, R213). -/
def shootPages (s : State) (asid : BitVec 16) (gone : CachedPage → Bool) : State :=
  { s with pages := s.pages.filter fun e => !(decide (e.asid = asid) && gone e) }

/-! ## Bytes of a vale's memory -/

/-- Read a vale's physical bytes; a vale without a key reads nothing of its own, and its readers are refused before. -/
def valeRead (s : State) (v : Fin 16) (pa n : Nat) : List Byte := dramRead s ((valeKey s v).getD 0) pa n

/-- The copy holds word `w` of DRAM exclusively, under some virtual alias (R202). -/
def L1Word.owns (x : L1Word) (w : Nat) : Bool := decide (x.rq = 0) && decide (x.place = .dram (w * 8) false)

/-- The spans of a core's `.own` copies that hold word `w` of DRAM (R203). -/
def ownSpans (k : Core) (w : Nat) : List Nat := (k.l1.filter (·.owns w)).flatMap (·.spans)

/-- The word is an exclusive one of a registered span of the list. -/
def L1Word.inSpans (x : L1Word) (l : List Nat) : Bool := decide (x.rq = 0) && x.spans.any fun n => l.contains n

/-- Drop from every L1 the `.own` copies that hold word `w` of DRAM, with the whole of every span that they are registered in
(R203, R204). -/
def recallOwn (s : State) (except_ : Option (Fin 256)) (w : Nat) : State :=
  if s.cores.toList.all fun k => !k.l1.any (·.owns w) then s
  else { s with cores := s.cores.mapFinIdx fun i k hi =>
      if except_ = some ⟨i, hi⟩ then k
      else { k with l1 := k.l1.filter fun y => !(y.owns w || y.inSpans (ownSpans k w)) } }

/-- Recall every other core's `.own` copies of `n` bytes from `pa` on; where no core has any there is nothing to recall. -/
def recallRange (s : State) (except_ : Option (Fin 256)) (pa n : Nat) : State :=
  if s.cores.toList.all fun k => k.l1.all fun y => decide (y.rq ≠ 0) then s
  else (List.range ((pa + n - 1) / 8 + 1 - pa / 8)).foldl (fun s i => recallOwn s except_ (pa / 8 + i)) s

/-- The walker's reads recall the `.own` copies of the table entries (R206, R269). -/
def noteWalk (s : State) (v : Fin 16) (va : Nat) : State :=
  (walkReads s v va).foldl (fun s r => recallRange s none r.1 r.2) s

/-- A walk that is made whatever the caches hold recalls them as well. -/
def noteTables (s : State) (v : Fin 16) (key va : Nat) : State :=
  (walkTables s v key (va % 2 ^ 56) ((s.vale v).root.toNat * 2 ^ 12) 5).foldl (fun s r => recallRange s none r.1 r.2) s

/-- A walk fills an entry of a compute die's translation cache (R202). -/
def cachePage (s : State) (die : Fin 4) (v : Fin 16) (va : Nat) : State :=
  match valeKey s v with
  | none => s
  | some key =>
    if walkHeld s v none va then s
    else
      let t := noteTables s v key va
      match walk s v key (va / 2 ^ 12 * 2 ^ 12) .fetch false with
      | .ok l => { t with pages := enterPage s.pages {
          die := die, asid := (s.vale v).asid, page := va % 2 ^ 56 / 2 ^ 12, pa := l.pa, cc := l.cc, r := l.r, w := l.w } }
      | .error _ => t

/-- Write a vale's physical bytes at their home, as a `.nc` store of an agent other than core `except_` (R204, R221). -/
def valeWrite (s : State) (v : Fin 16) (except_ : Option (Fin 256)) (pa : Nat) (bs : List Byte) : State :=
  let s := touchLines (recallRange s except_ pa bs.length) v pa bs.length true
  clearPoison (dramWrite s ((valeKey s v).getD 0) pa bs) .dram pa bs.length

/-- Update a core's own `.wt` and `.si` copies of the bytes stored at a place (R204); a domain load that is out takes no copy. -/
def updateCopies (k : Core) (p : Place) (bs : List Byte) : Core :=
  let touch (x : L1Word) (a b : Nat) : L1Word :=
    let old := toBytes 8 x.data.toNat
    let new := (List.range 8).map fun i =>
      if a ≤ b + i ∧ b + i < a + bs.length then bs.getD (b + i - a) 0 else old.getD i 0
    { x with data := BitVec.ofNat 64 (ofBytes new), bad := x.bad && !(decide (a ≤ b) && decide (b + 8 ≤ a + bs.length)) }
  { k with
    l1Gen := k.l1Gen + 1
    l1 := k.l1.map fun x =>
      match p, x.place with
      | .dram a _, .dram b _ => touch x a b
      | .peer d a, .peer d' b => if d = d' then touch x a.toNat b.toNat else x
      | _, _ => x }

/-! ## Reports (R297 to R300) -/

/-- A report: in task mode the three CSRs, their copies in the core block and TRAPPED; in machine mode the CSRs and the
firmware trap entry (R299). Accesses that are out stay out. A marker that an abandoned REGION has appended stays in its queue, for
no entry is withdrawn (R130), and a REGION that issues again appends its own (log 67). -/
def report (s : State) (who : LeadId) (code : BitVec 12) (epc tval : Word) : State :=
  let l := { s.ls who with cause := code, epc := epc, tval := tval }
  match who with
  | .mgmt =>
    let s := s.setLs .mgmt { l with pc := 0x00FF000000000100 }
    { s with mgmt := { s.mgmt with commit := false }, stalled := false }
  | .core c =>
    let past := decide (code = 324) || decide (code = 325)
    let k := { s.core c with ls := l, opening := none, cCause := code, cEpc := epc, cTval := tval, run := .trapped,
                             waitsOn := none, starved := false, opens := false, pinFill := none, enqGot := [],
                             resumePast := past }
    { s.setCore c k with stalled := false }

/-- Record in MC_COUNT and MC_LAST a class 11 event of core `c` (R309, R312). -/
def logError (s : State) (c : Fin 256) (code : BitVec 9) : State :=
  let k := s.core c
  if code.extractLsb' 0 3 = 0 then s.setCore c { k with corrected := satIncr k.corrected, mcLast := code }
  else s.setCore c { k with uncorrected := satIncr k.uncorrected, mcLast := code }

/-- Record a poisoned word that a lead slice consumes; the management core has no such registers. -/
def logLead (s : State) (who : LeadId) : State :=
  match who with
  | .mgmt => s
  | .core c => logError s c 353

/-- Return from an exception: the lead fetch continues at LS_EPC (R301). -/
def returnFromTrap (l : LeadSlice) : LeadSlice := { l with pc := l.epc }

/-! ## Issue (R102, R103) -/

/-- What an instruction does at issue: it has its effect, it raises a cause with LS_TVAL, it does so after a walk that recalls what
it reads (R269), it consumes a poisoned word
(R312), it waits, or it has a part of its effect and waits (R119, R305). -/
inductive Issue where
  | done (s : State)
  | trap (code : BitVec 12) (tval : Word)
  | denied (s : State) (code : BitVec 12) (tval : Word)
  | poison (tval : Word)
  | wait
  | hold (s : State)

/-- The word of an instruction, as LS_TVAL holds it (R75). -/
def wordOf : Instr → Word
  | .illegalEncoding _ w => w
  | i => ((encode32 i).getD 0).setWidth 64

/-- The instruction may follow a committing access (R306); a fetch that is denied is reported as what it is. -/
def endsRegion : Instr → Bool
  | .region .. | .halt | .fetchDenied .. => true
  | _ => false

/-- No lane word issues any more before the lead slice does: no stream, an ended one, or a slice that has stopped (R310). -/
def lanesStopped (k : Core) : Bool := !k.ls.lane || k.ls.vended || k.lane.stopped

/-- The lead slice issues at all: the management core always, a core while it runs or waits to stop (R307); for a capture it stops
once the lane slice has stopped (R310). -/
def canIssue (s : State) : LeadId → Bool
  | .mgmt => true
  | .core c =>
    let k := s.core c
    match k.run with
    | .running => true
    | .stopping => !(decide (k.stop = some .capture) && lanesStopped k)
    | _ => false

/-- The next word must be REGION or HALT (R306); in machine mode the report of 327 ends that (log 63). -/
def committed (s : State) : LeadId → Bool
  | .mgmt => s.mgmt.commit
  | .core c => (s.core c).commit

/-- Which of the reports that are pending at an issue boundary is taken (R298): a poisoned word that a lane word or an engine
consumed, a lane fault, the fault of an engine. -/
inductive Pending where
  | poison (r : Report)
  | lane (r : Report)
  | engine (e : Fin 4)
  deriving DecidableEq, Repr

/-- LS_CAUSE of an engine fault: the code and the engine's number with its mark (R300). -/
def engineCause (e : Fin 4) (code : BitVec 9) : BitVec 12 := (BitVec.ofNat 2 e.val ++ 1#1 ++ code : BitVec 12)

/-- The engine's latched fault, undelivered, is a poisoned word that a record consumed (R296, R312). -/
def Engine.poisoned (x : Engine) : Bool := x.undelivered.isSome && (decide (x.latch = some 369) || decide (x.latch = some 377))

/-- The lowest engine with a latched fault that has not been delivered. -/
def undelivered (k : Core) : Option (Fin 4) := (List.finRange 4).find? fun e => (k.eng e).undelivered.isSome

/-- The report of a core that comes before a fault of the instruction itself: a poisoned word (R298). -/
def firstReport (s : State) : LeadId → Option Pending
  | .mgmt => none
  | .core c =>
    match (s.core c).poisoned with
    | some r => some (.poison r)
    | none => if (s.core c).due then ((List.finRange 4).find? fun e => ((s.core c).eng e).poisoned).map .engine else none

/-- The report that comes after a fault of the instruction itself: a lane fault, then the lowest engine's (R298). -/
def dueReport (s : State) : LeadId → Option Pending
  | .mgmt => none
  | .core c =>
    match (s.core c).laneFault with
    | some r => some (.lane r)
    | none => if (s.core c).due then (undelivered (s.core c)).map .engine else none

/-- A pending report is taken; an engine's gives the next lead word not issued (R297, R300). -/
def takePending (s : State) (who : LeadId) (p : Pending) : State :=
  match who with
  | .mgmt => s
  | .core c =>
    let k := s.core c
    match p with
    | .poison r => report (s.setCore c { k with poisoned := none }) who r.code r.epc r.tval
    | .lane r => report (s.setCore c { k with laneFault := none }) who r.code r.epc r.tval
    | .engine e =>
      let x := k.eng e
      let s := s.setCore c { k.setEng e { x with undelivered := none } with due := false }
      report s who (engineCause e (x.latch.getD 0)) k.ls.pc (x.undelivered.getD 0)

/-- Instructions whose whole effect is on the registers, the fetch address, the two queues and the L1: what they do can be taken
back, so they issue behind an access that can still fail (R102, R271; log 8). -/
def speculable : Instr → Bool
  | .add .. | .sub .. | .mul .. | .mulh .. | .mulhn .. | .div .. | .divn .. | .rem .. | .remn .. | .and .. | .or .. | .xor ..
  | .andn .. | .shl .. | .shr .. | .sar .. | .min .. | .max .. | .minn .. | .maxn .. | .clz .. | .ctz .. | .popc .. | .mov ..
  | .cmpeq .. | .cmpne .. | .cmplt .. | .cmple .. | .cmpltn .. | .cmplen .. | .sel .. | .sext .. | .zext .. | .fshl .. | .fshr ..
  | .ins .. | .fadd .. | .fmul .. | .ffma .. | .fcmp .. | .fcvt .. | .jr .. | .addi .. | .andi .. | .ori .. | .xori .. | .shli ..
  | .shri .. | .sari .. | .li .. | .lih .. | .lea .. | .extr .. | .csrrd .. | .bz .. | .bnz .. | .jmp .. | .jal .. | .ld ..
  | .st .. | .pf .. | .mark | .fence .. | .amo .. | .cas .. | .bartest .. | .barwait .. | .lpw .. | .wptr .. | .estat ..
  | .bprobe .. => true
  | _ => false

/-- An older access can still fail, or has failed: a report of the access behind it waits (R297). -/
def olderHeld (l : LeadSlice) (id : Nat) : Bool := l.held.any fun h => decide (h.id < id) && (!h.sure || h.fault.isSome)

/-- The access is one that does not fail (log 8). -/
def LeadSlice.sure (l : LeadSlice) (id : Nat) : Bool := l.held.any fun h => decide (h.id = id) && h.sure

/-- An access has failed and none that is older can: its report is due (R297, R298). -/
def failDue (l : LeadSlice) : Bool := l.held.any fun h => h.fault.isSome && !olderHeld l h.id

/-- The cause with which an entry has failed. -/
def heldFault (l : LeadSlice) (e : Entry) : Option (BitVec 12) :=
  (l.held.find? fun h => decide (h.id = e.id)).bind Held.fault

/-- An access among those that `p` names holds back what cannot be taken back: it has failed, or it can still fail (R102, R297;
log 8). -/
def LeadSlice.holdsBack (l : LeadSlice) (p : Held → Bool) : Bool := l.held.any fun h => p h && (h.fault.isSome || !h.sure)

/-- What issues behind an access that holds back: an instruction that can be taken back, where it has its effect; all else waits, a
fault of its own as well, until the access is performed or has failed (R297; log 8). -/
def issueBehind (i : Instr) (s : State) (r : Issue) : State :=
  match r with
  | .done s' => if speculable i then { s' with stalled := false } else s.waiting
  | _ => s.waiting

/-- One issue boundary of a lead slice (R297, R298, R306): what becomes of the instruction at the fetch address. -/
def issue (i : Instr) (who : LeadId) (s : State) (r : Issue) : State :=
  if !canIssue s who then s.waiting
  else
    match firstReport s who with
    | some p => takePending s who p
    | none =>
      if (s.ls who).holdsBack fun _ => true then
        match failDue (s.ls who), dueReport s who with
        | true, _ => s.waiting
        | false, some p => takePending s who p
        | false, none => if committed s who then s.waiting else issueBehind i s r
      else if committed s who && !endsRegion i then report s who 327 (s.ls who).pc (wordOf i)
      else
        match r, dueReport s who with
        | .trap code tval, _ => report s who code (s.ls who).pc tval
        | .denied s' code tval, _ => report s' who code (s.ls who).pc tval
        | .poison tval, _ => report (logLead s who) who 353 (s.ls who).pc tval
        | _, some p => takePending s who p
        | .done s', none => { s' with stalled := false }
        | .wait, none => s.waiting
        | .hold s', none => s'.waiting

/-- A lead instruction acts on the lead slice in turn. An instruction of another stream than the one in turn does
nothing: the decoder of that stream never gives it (log 1). -/
def leadStep (i : Instr) (f : LeadId → State → Issue) (s : State) : Out :=
  match leadInTurn s with
  | some who => .next (issue i who s (f who s))
  | none => .next s

/-! ## Registers (R77, R98, R99, R103) -/

/-- What a source specifier names: t1 to t16 by age, then n0 to n15 (R77). -/
def readSlot (l : LeadSlice) (x : BitVec 5) : Slot :=
  if x.getLsbD 4 then l.n[(x.extractLsb' 0 4).toFin] else l.belt[(x.extractLsb' 0 4).toFin]

/-- The value of a source; none while it is pending (R102). -/
def readSrc (l : LeadSlice) (x : BitVec 5) : Option Word :=
  match readSlot l x with
  | .val v => some v
  | .pend _ => none

/-- The belt after a push: every older value one age further, t16 lost (R98). -/
def beltPush {α : Type} (b : Vector α 16) (x : α) : Vector α 16 :=
  Vector.ofFn fun i : Fin 16 => if h : i.val = 0 then x else b[i.val - 1]

/-- Write a result as the destination field says (R77). -/
def writeSlot (l : LeadSlice) (d : BitVec 5) (x : Slot) : LeadSlice :=
  if d = 0 then { l with belt := beltPush l.belt x }
  else { l with n := l.n.set (d.extractLsb' 0 4).toFin x }

/-- Write a final result. -/
def writeDst (l : LeadSlice) (d : BitVec 5) (v : Word) : LeadSlice := writeSlot l d (.val v)

/-- A slot once the value numbered `id` is there. -/
def Slot.arrive (id : Nat) (v : Word) (x : Slot) : Slot := if x = .pend id then .val v else x

/-- A load's value arrives (R103): it reaches whatever still waits for it. -/
def arrive (l : LeadSlice) (id : Nat) (v : Word) : LeadSlice :=
  { l with belt := l.belt.map (Slot.arrive id v)
           n := l.n.map (Slot.arrive id v)
           held := l.held.map fun h => { h with belt := h.belt.map (Slot.arrive id v), n := h.n.map (Slot.arrive id v) } }

/-- The fetch address moves to the next word (R69). -/
def nextPc (l : LeadSlice) : LeadSlice := { l with pc := l.pc + 4 }

/-- The instruction retires with a result. -/
def retire (s : State) (who : LeadId) (d : BitVec 5) (v : Word) : Issue :=
  .done (s.setLs who (nextPc (writeDst (s.ls who) d v)))

/-- The instruction retires without a result. -/
def retireNone (s : State) (who : LeadId) : Issue := .done (s.setLs who (nextPc (s.ls who)))

/-! ## Arbitration between vales (R47 CLASS) -/

/-- Vale `v` is served next of those whose requests a resource holds: no other has a higher class, and of equal class none comes
before it in turn after the vale served last (R47). -/
def arbitrates (s : State) (asks : Fin 16 → Bool) (last v : Fin 16) : Bool :=
  let turn (w : Fin 16) : Nat := (w.val + 15 - last.val) % 16
  (List.finRange 16).all fun w => !asks w || decide (w = v) || decide ((s.vale w).prio < (s.vale v).prio) ||
    (decide ((s.vale w).prio = (s.vale v).prio) && decide (turn v < turn w))

/-! ## Runs of bank handlers (R284) -/

/-- The run in turn, if it has not ended. -/
def runInTurn (s : State) : Option (Fin 512 × Nat × Serve × BankRun) :=
  match s.turn with
  | .bank ch r =>
    match (s.chan ch).serving with
    | some sv => match sv.runs[r]? with
      | some run => if run.finished then none else some (ch, r, sv, run)
      | none => none
    | none => none
  | _ => none

/-- Put a run back. -/
def setRun (s : State) (ch : Fin 512) (r : Nat) (sv : Serve) (run : BankRun) : State :=
  s.setChan ch { s.chan ch with serving := some { sv with runs := sv.runs.set r run } }

/-- A source of a run: its own belt and registers (R284). -/
def runSrc (run : BankRun) (x : BitVec 5) : Word :=
  if x.getLsbD 4 then run.n[(x.extractLsb' 0 4).toFin] else run.belt[(x.extractLsb' 0 4).toFin]

/-- A result of a run (R77, R284). -/
def runWrite (run : BankRun) (d : BitVec 5) (v : Word) : BankRun :=
  if d = 0 then { run with belt := beltPush run.belt v }
  else { run with n := run.n.set (d.extractLsb' 0 4).toFin v }

/-- The agent of a lead-format word: a lead slice, or a bank run for the words of R96. `vals` are its sources. -/
def valueStep (i : Instr) (d : BitVec 5) (srcs : List (BitVec 5)) (f : List Word → Word) (s : State) : Out :=
  match runInTurn s with
  | some (ch, r, sv, run) =>
    .next (setRun s ch r sv { runWrite run d (f (srcs.map (runSrc run))) with pc := run.pc + 1 })
  | none =>
    leadStep i (fun who s =>
      match srcs.mapM (readSrc (s.ls who)) with
      | some vs => retire s who d (f vs)
      | none => .wait) s

end Sys2Proof.Machine
end

