-- ==== Sys2Proof/Machine/Alu.lean ====
section
/-! DEFINITION. Machine/Alu.lean: the integer, logic, comparison and bit-field instructions of the lead slice and of the bank
units (R105 to R108, R284). -/
namespace Sys2Proof.Machine

/-! ## Values -/

/-- First source of a list. -/
def src0 : List Word → Word
  | a :: _ => a
  | [] => 0
/-- Second source. -/
def src1 : List Word → Word
  | _ :: b :: _ => b
  | _ => 0
/-- Third source. -/
def src2 : List Word → Word
  | _ :: _ :: c :: _ => c
  | _ => 0

/-- A truth value as a result (R106). -/
def boolWord (b : Bool) : Word := if b then 1 else 0

/-- MULH: the high half of the signed product (R105). -/
def mulhVal (a b : Word) : Word := BitVec.ofInt 64 (a.toInt * b.toInt / 2 ^ 64)
/-- MULHN: the high half of the unsigned product (R105). -/
def mulhnVal (a b : Word) : Word := BitVec.ofNat 64 (a.toNat * b.toNat / 2 ^ 64)
/-- DIV (R105). -/
def divVal (a b : Word) : Word := if b = 0 then BitVec.allOnes 64 else BitVec.ofInt 64 (a.toInt.tdiv b.toInt)
/-- DIVN (R105). -/
def divnVal (a b : Word) : Word := if b = 0 then BitVec.allOnes 64 else BitVec.ofNat 64 (a.toNat / b.toNat)
/-- REM (R105). -/
def remVal (a b : Word) : Word := if b = 0 then a else BitVec.ofInt 64 (a.toInt - b.toInt * a.toInt.tdiv b.toInt)
/-- REMN (R105). -/
def remnVal (a b : Word) : Word := if b = 0 then a else BitVec.ofNat 64 (a.toNat % b.toNat)
/-- The shift count: bits [5:0] of b (R105). -/
def shiftCount (b : Word) : Nat := b.toNat % 64
/-- Leading zero bits of a number of `w` bits (R105, R153). -/
def leadingZeros (w n : Nat) : Nat := if n = 0 then w else w - 1 - Nat.log2 n
/-- Trailing zero bits, counted from bit `i` over `fuel` bits. -/
def trailingFrom (n : Nat) : Nat → Nat → Nat
  | i, fuel + 1 => if n.testBit i then i else trailingFrom n (i + 1) fuel
  | i, 0 => i
/-- Number of one bits among the low `w` bits. -/
def popCount (n : Nat) : Nat → Nat
  | 0 => 0
  | w + 1 => (n.testBit w).toNat + popCount n w
/-- Bits of a width code of SEXT and ZEXT: 8, 16, 32 (R106). -/
def widthBits (w : BitVec 2) : Nat := 8 * 2 ^ w.toNat
/-- The low `w` bits of a, sign-extended (R8). -/
def sextVal (a : Word) (w : Nat) : Word := (a.setWidth w).signExtend 64
/-- The low `w` bits of a, zero-extended (R8). -/
def zextVal (a : Word) (w : Nat) : Word := (a.setWidth w).setWidth 64
/-- FSHL: bits [127:64] of (a, b) shifted left by k (R106). -/
def fshlVal (a b : Word) (k : Nat) : Word := BitVec.ofNat 64 ((a.toNat * 2 ^ 64 + b.toNat) * 2 ^ k / 2 ^ 64)
/-- FSHR: bits [63:0] of (a, b) shifted right by k (R106). -/
def fshrVal (a b : Word) (k : Nat) : Word := BitVec.ofNat 64 ((a.toNat * 2 ^ 64 + b.toNat) / 2 ^ k)
/-- INS: `len` low bits of b placed at bit `pos` of a (R107). -/
def insVal (a b : Word) (pos len : Nat) : Word :=
  let m : Word := BitVec.ofNat 64 ((2 ^ len - 1) * 2 ^ pos)
  (a &&& ~~~ m) ||| ((b <<< pos) &&& m)
/-- EXTR: `len` bits from bit `pos` on (R108). -/
def extrVal (a : Word) (pos len : Nat) : Word := BitVec.ofNat 64 (a.toNat / 2 ^ pos % 2 ^ len)
/-- An imm16, sign-extended (R82). -/
def immVal (imm : BitVec 16) : Word := imm.signExtend 64

/-! ## Meanings -/

/-- ADD (R105). -/
def execAdd (d a b : BitVec 5) (s : State) : Out :=
  valueStep (.add d a b) d [a, b] (fun v => src0 v + src1 v) s

/-- SUB (R105). -/
def execSub (d a b : BitVec 5) (s : State) : Out :=
  valueStep (.sub d a b) d [a, b] (fun v => src0 v - src1 v) s

/-- MUL (R105). -/
def execMul (d a b : BitVec 5) (s : State) : Out :=
  valueStep (.mul d a b) d [a, b] (fun v => src0 v * src1 v) s

/-- MULH (R105). -/
def execMulh (d a b : BitVec 5) (s : State) : Out :=
  valueStep (.mulh d a b) d [a, b] (fun v => mulhVal (src0 v) (src1 v)) s

/-- MULHN (R105). -/
def execMulhn (d a b : BitVec 5) (s : State) : Out :=
  valueStep (.mulhn d a b) d [a, b] (fun v => mulhnVal (src0 v) (src1 v)) s

/-- DIV (R105). -/
def execDiv (d a b : BitVec 5) (s : State) : Out :=
  valueStep (.div d a b) d [a, b] (fun v => divVal (src0 v) (src1 v)) s

/-- DIVN (R105). -/
def execDivn (d a b : BitVec 5) (s : State) : Out :=
  valueStep (.divn d a b) d [a, b] (fun v => divnVal (src0 v) (src1 v)) s

/-- REM (R105). -/
def execRem (d a b : BitVec 5) (s : State) : Out :=
  valueStep (.rem d a b) d [a, b] (fun v => remVal (src0 v) (src1 v)) s

/-- REMN (R105). -/
def execRemn (d a b : BitVec 5) (s : State) : Out :=
  valueStep (.remn d a b) d [a, b] (fun v => remnVal (src0 v) (src1 v)) s

/-- AND (R105). -/
def execAnd (d a b : BitVec 5) (s : State) : Out :=
  valueStep (.and d a b) d [a, b] (fun v => src0 v &&& src1 v) s

/-- OR (R105). -/
def execOr (d a b : BitVec 5) (s : State) : Out :=
  valueStep (.or d a b) d [a, b] (fun v => src0 v ||| src1 v) s

/-- XOR (R105). -/
def execXor (d a b : BitVec 5) (s : State) : Out :=
  valueStep (.xor d a b) d [a, b] (fun v => src0 v ^^^ src1 v) s

/-- ANDN (R105). -/
def execAndn (d a b : BitVec 5) (s : State) : Out :=
  valueStep (.andn d a b) d [a, b] (fun v => src0 v &&& ~~~ src1 v) s

/-- SHL (R105). -/
def execShl (d a b : BitVec 5) (s : State) : Out :=
  valueStep (.shl d a b) d [a, b] (fun v => src0 v <<< shiftCount (src1 v)) s

/-- SHR (R105). -/
def execShr (d a b : BitVec 5) (s : State) : Out :=
  valueStep (.shr d a b) d [a, b] (fun v => src0 v >>> shiftCount (src1 v)) s

/-- SAR (R105). -/
def execSar (d a b : BitVec 5) (s : State) : Out :=
  valueStep (.sar d a b) d [a, b] (fun v => (src0 v).sshiftRight (shiftCount (src1 v))) s

/-- MIN (R105). -/
def execMin (d a b : BitVec 5) (s : State) : Out :=
  valueStep (.min d a b) d [a, b] (fun v => if (src0 v).toInt ≤ (src1 v).toInt then src0 v else src1 v) s

/-- MAX (R105). -/
def execMax (d a b : BitVec 5) (s : State) : Out :=
  valueStep (.max d a b) d [a, b] (fun v => if (src1 v).toInt ≤ (src0 v).toInt then src0 v else src1 v) s

/-- MINN (R105). -/
def execMinn (d a b : BitVec 5) (s : State) : Out :=
  valueStep (.minn d a b) d [a, b] (fun v => if src0 v ≤ src1 v then src0 v else src1 v) s

/-- MAXN (R105). -/
def execMaxn (d a b : BitVec 5) (s : State) : Out :=
  valueStep (.maxn d a b) d [a, b] (fun v => if src1 v ≤ src0 v then src0 v else src1 v) s

/-- CLZ (R105). -/
def execClz (d a : BitVec 5) (s : State) : Out :=
  valueStep (.clz d a) d [a] (fun v => BitVec.ofNat 64 (leadingZeros 64 (src0 v).toNat)) s

/-- CTZ (R105). -/
def execCtz (d a : BitVec 5) (s : State) : Out :=
  valueStep (.ctz d a) d [a] (fun v => BitVec.ofNat 64 (trailingFrom (src0 v).toNat 0 64)) s

/-- POPC (R105). -/
def execPopc (d a : BitVec 5) (s : State) : Out :=
  valueStep (.popc d a) d [a] (fun v => BitVec.ofNat 64 (popCount (src0 v).toNat 64)) s

/-- MOV (R105). -/
def execMov (d a : BitVec 5) (s : State) : Out :=
  valueStep (.mov d a) d [a] (fun v => src0 v) s

/-- CMPEQ (R106). -/
def execCmpeq (d a b : BitVec 5) (s : State) : Out :=
  valueStep (.cmpeq d a b) d [a, b] (fun v => boolWord (src0 v == src1 v)) s

/-- CMPNE (R106). -/
def execCmpne (d a b : BitVec 5) (s : State) : Out :=
  valueStep (.cmpne d a b) d [a, b] (fun v => boolWord (src0 v != src1 v)) s

/-- CMPLT (R106). -/
def execCmplt (d a b : BitVec 5) (s : State) : Out :=
  valueStep (.cmplt d a b) d [a, b] (fun v => boolWord ((src0 v).slt (src1 v))) s

/-- CMPLE (R106). -/
def execCmple (d a b : BitVec 5) (s : State) : Out :=
  valueStep (.cmple d a b) d [a, b] (fun v => boolWord ((src0 v).sle (src1 v))) s

/-- CMPLTN (R106). -/
def execCmpltn (d a b : BitVec 5) (s : State) : Out :=
  valueStep (.cmpltn d a b) d [a, b] (fun v => boolWord ((src0 v).ult (src1 v))) s

/-- CMPLEN (R106). -/
def execCmplen (d a b : BitVec 5) (s : State) : Out :=
  valueStep (.cmplen d a b) d [a, b] (fun v => boolWord ((src0 v).ule (src1 v))) s

/-- SEL (R106). -/
def execSel (d a b c : BitVec 5) (s : State) : Out :=
  valueStep (.sel d a b c) d [a, b, c] (fun v => if src2 v = 0 then src1 v else src0 v) s

/-- SEXT (R106). -/
def execSext (d a : BitVec 5) (width : BitVec 2) (s : State) : Out :=
  valueStep (.sext d a width) d [a] (fun v => sextVal (src0 v) (widthBits width)) s

/-- ZEXT (R106). -/
def execZext (d a : BitVec 5) (width : BitVec 2) (s : State) : Out :=
  valueStep (.zext d a width) d [a] (fun v => zextVal (src0 v) (widthBits width)) s

/-- FSHL (R106). -/
def execFshl (d a b : BitVec 5) (k : BitVec 6) (s : State) : Out :=
  valueStep (.fshl d a b k) d [a, b] (fun v => fshlVal (src0 v) (src1 v) k.toNat) s

/-- FSHR (R106). -/
def execFshr (d a b : BitVec 5) (k : BitVec 6) (s : State) : Out :=
  valueStep (.fshr d a b k) d [a, b] (fun v => fshrVal (src0 v) (src1 v) k.toNat) s

/-- INS (R107). -/
def execIns (d a b : BitVec 5) (pos : BitVec 6) (len1 : BitVec 5) (s : State) : Out :=
  valueStep (.ins d a b pos len1) d [a, b] (fun v => insVal (src0 v) (src1 v) pos.toNat (len1.toNat + 1)) s


/-- ADDI (R108). -/
def execAddi (d a : BitVec 5) (imm : BitVec 16) (s : State) : Out :=
  valueStep (.addi d a imm) d [a] (fun v => src0 v + immVal imm) s

/-- ANDI (R108). -/
def execAndi (d a : BitVec 5) (imm : BitVec 16) (s : State) : Out :=
  valueStep (.andi d a imm) d [a] (fun v => src0 v &&& immVal imm) s

/-- ORI (R108). -/
def execOri (d a : BitVec 5) (imm : BitVec 16) (s : State) : Out :=
  valueStep (.ori d a imm) d [a] (fun v => src0 v ||| immVal imm) s

/-- XORI (R108). -/
def execXori (d a : BitVec 5) (imm : BitVec 16) (s : State) : Out :=
  valueStep (.xori d a imm) d [a] (fun v => src0 v ^^^ immVal imm) s

/-- LIH (R108). -/
def execLih (d a : BitVec 5) (imm : BitVec 16) (s : State) : Out :=
  valueStep (.lih d a imm) d [a] (fun v => (src0 v <<< 16) + imm.setWidth 64) s

/-- LEA (R108). -/
def execLea (d a : BitVec 5) (imm : BitVec 16) (s : State) : Out :=
  valueStep (.lea d a imm) d [a] (fun v => src0 v + immVal imm * 64) s

/-- SHLI (R108). -/
def execShli (d a : BitVec 5) (k : BitVec 6) (s : State) : Out :=
  valueStep (.shli d a k) d [a] (fun v => src0 v <<< k.toNat) s

/-- SHRI (R108). -/
def execShri (d a : BitVec 5) (k : BitVec 6) (s : State) : Out :=
  valueStep (.shri d a k) d [a] (fun v => src0 v >>> k.toNat) s

/-- SARI (R108). -/
def execSari (d a : BitVec 5) (k : BitVec 6) (s : State) : Out :=
  valueStep (.sari d a k) d [a] (fun v => (src0 v).sshiftRight k.toNat) s

/-- LI (R108). -/
def execLi (d : BitVec 5) (imm : BitVec 16) (s : State) : Out :=
  valueStep (.li d imm) d [] (fun _ => immVal imm) s

/-- EXTR (R108). -/
def execExtr (d a : BitVec 5) (len1 pos : BitVec 6) (s : State) : Out :=
  valueStep (.extr d a len1 pos) d [a] (fun v => extrVal (src0 v) pos.toNat (len1.toNat + 1)) s

end Sys2Proof.Machine
end

