-- ==== Sys2Proof/Machine/Domain.lean ====
section
/-! DEFINITION. Machine/Domain.lean: atomics on values (R275), the routes of the fabric unit (R316, R320), a domain access as
this device serves it (R320, R344), and the sequence numbers of domain writes (R278). -/
namespace Sys2Proof.Machine

/-! ## Atomic operations (R275) -/

/-- A number of `bytes` bytes read as signed. -/
def signedOf (bytes n : Nat) : Int := if 2 ^ (8 * bytes - 1) ≤ n then (n : Int) - 2 ^ (8 * bytes) else n

/-- new(old, v) of an AMO on `bytes` bytes (R275). -/
def amoNew (op : BitVec 4) (bytes old v : Nat) : Nat :=
  match op.toNat with
  | 0 => (old + v) % 2 ^ (8 * bytes)
  | 1 => old &&& v
  | 2 => old ||| v
  | 3 => old ^^^ v
  | 4 => v
  | 5 => if signedOf bytes old ≤ signedOf bytes v then old else v
  | 6 => if signedOf bytes v ≤ signedOf bytes old then old else v
  | 7 => min old v
  | _ => max old v

/-- What an atomic does with the old value: nothing for an access that is none, or the value it writes (R275). -/
inductive Atomic where
  | amo (op : BitVec 4) (v : Word)
  | cas (cmp new : Word)
  deriving DecidableEq, Repr

/-- The value written, if any. -/
def Atomic.result (x : Atomic) (bytes old : Nat) : Option Nat :=
  match x with
  | .amo op v => some (amoNew op bytes old (v.toNat % 2 ^ (8 * bytes)))
  | .cas cmp new => if old = cmp.toNat % 2 ^ (8 * bytes) then some (new.toNat % 2 ^ (8 * bytes)) else none

/-! ## A vale's words at their home -/

/-- Read a vale's bytes at their home, unless a word of them is poisoned (R312). -/
def homeRead (s : State) (v : Fin 16) (pa n : Nat) : Option (List Byte) :=
  if poisonedAt s .dram pa n then none else some (valeRead s v pa n)

/-- One read-modify-write at the home, on behalf of an agent of core `except_` or none; the old value (R275). -/
def homeAtomic (s : State) (v : Fin 16) (except_ : Option (Fin 256)) (pa bytes : Nat) (x : Atomic) : State × Nat :=
  let s := recallRange s except_ pa bytes
  let old := ofBytes (valeRead s v pa bytes)
  match x.result bytes old with
  | some new => (valeWrite s v except_ pa (toBytes bytes new), old)
  | none => (s, old)

/-! ## Addresses (R188) -/

/-- The top byte of an address. -/
def topByte (va : Word) : Nat := va.toNat / 2 ^ 56

/-- The peer device of a domain address (R188). -/
def domainDev (va : Word) : BitVec 10 := va.extractLsb' 46 10

/-- The address at the peer (R188). -/
def domainAddr (va : Word) : Word := (va.extractLsb' 0 46).setWidth 64

/-! ## Routes (R190, R316, R320) -/

/-- Device `d` is in the domain (R320): bit d of DOM_MASK. -/
def inDomain (s : State) (d : BitVec 10) : Bool :=
  (s.hub.domMask[(d.extractLsb' 6 4).toFin]).getLsbD (d.extractLsb' 0 6).toNat

/-- The path to device `d`: the one that was given when a port toward it trained, until a link reset of that port (R278). -/
def pathFor (s : State) (d : BitVec 10) : Option Path := s.hub.paths.find? fun x => decide (x.dev = d)

/-- The paths that port `p` offers (R278, R316). -/
def pathsOf (s : State) (p : Fin 18) : List Path :=
  match s.ports[p].partner with
  | some q => q.vias.map fun r => { dev := r.dev, port := p, path := r.switch }
  | none => []

/-- A path for every device that had none, through the lowest port that reaches it (R278). -/
def addPaths (s : State) : State :=
  let offers := (List.finRange 18).flatMap (pathsOf s)
  { s with hub := { s.hub with paths := offers.foldl (fun l x =>
      if l.any fun y => decide (y.dev = x.dev) then l else l ++ [x]) s.hub.paths } }

/-- What a request to device `d` meets: a path in UP, a path that repairs or retrains, for which it waits (R318), or none. -/
inductive Route where
  | up (x : Path)
  | later (x : Path)
  | none
  deriving DecidableEq, Repr

/-- The route to a device (R278, R318, R320). -/
def routeTo (s : State) (d : BitVec 10) : Route :=
  match pathFor s d with
  | some x =>
    match s.ports[x.port].phase with
    | .up => .up x
    | .repair | .retrain => .later x
    | _ => .none
  | none => .none

/-- What device `d`, reached through port `p`, advertised as a host node (R277). -/
def hostAtomics (s : State) (p : Fin 18) (d : BitVec 10) : Option HostAtomics :=
  match s.ports[p].partner with
  | some q => (q.vias.find? fun r => decide (r.dev = d)).bind Reached.host
  | none => none

/-- The local vale that serves vale `rv` of device `rd`: the first valid BIND that names them (R320). -/
def boundVale (s : State) (rd : BitVec 10) (rv : BitVec 4) : Option (Fin 16) :=
  (s.hub.bind.toList.find? fun b =>
    b.getLsbD 63 && decide (b.extractLsb' 0 10 = rd) && decide (b.extractLsb' 48 4 = rv)).map
    fun b => (b.extractLsb' 52 4).toFin

/-- An access of 1 to 128 bytes within one aligned 128-byte line (R344). -/
def lineAccess (a n : Nat) : Bool := decide (1 ≤ n) && decide (a % 128 + n ≤ 128)

/-- What a peer's operation does, for the walk. -/
def opAccess : PeerOp → Access
  | .read => .read
  | .write _ => .write
  | .amo .. | .cas .. => .atomic

/-- The access of a peer waits in this device for a DRAM bank that a copy channel holds (R224). -/
def peerHeld (s : State) (q : PeerRequest) : Bool :=
  match boundVale s q.dev q.vale with
  | none => false
  | some v =>
    let a := q.addr.toNat
    decide (a < 2 ^ 46) && keyed s v && lineAccess a q.len && vaHeld s v none a (opAccess q.op)

/-- Serve a domain access in this device (R320, R342, R344). -/
def servePeer (s : State) (q : PeerRequest) : State × PeerAnswer :=
  match boundVale s q.dev q.vale with
  | none => (s, .unbound)
  | some v =>
    let a := q.addr.toNat
    if 2 ^ 46 ≤ a || !keyed s v || !lineAccess a q.len then (s, .denied)
    else
      let s := noteWalk s v a
      match q.op with
      | .read =>
        match translate s v a .read with
        | .error _ => (s, .denied)
        | .ok l => match homeRead s v l.pa q.len with
          | some bs => (recallRange s none l.pa q.len, .data bs)
          | none => (s, .poison)
      | .write bs =>
        if bs.length ≠ q.len then (s, .denied)
        else match translate s v a .write with
          | .error _ => (s, .denied)
          | .ok l => (valeWrite s v none l.pa bs, .data [])
      | .amo op x =>
        if (q.len ≠ 4 ∧ q.len ≠ 8) ∨ a % q.len ≠ 0 then (s, .denied)
        else match translate s v a .atomic with
          | .error _ => (s, .denied)
          | .ok l =>
            if poisonedAt s .dram l.pa q.len then (s, .poison)
            else let r := homeAtomic s v none l.pa q.len (.amo op x); (r.1, .data (toBytes q.len r.2))
      | .cas cmp new =>
        if (q.len ≠ 4 ∧ q.len ≠ 8) ∨ a % q.len ≠ 0 then (s, .denied)
        else match translate s v a .atomic with
          | .error _ => (s, .denied)
          | .ok l =>
            if poisonedAt s .dram l.pa q.len then (s, .poison)
            else let r := homeAtomic s v none l.pa q.len (.cas cmp new); (r.1, .data (toBytes q.len r.2))

/-! ## Sequence numbers (R278) -/

/-- The sequence of a source through an egress switch. -/
def seqOf (s : State) (c : Fin 256) (who : DomAgent) (path : Nat) : WriteSeq :=
  (s.hub.seqs.find? fun x => decide (x.core = c) && decide (x.who = who) && decide (x.path = path)).getD
    { core := c, who := who, path := path, next := 0, acked := 0 }

/-- Put a sequence back. -/
def putSeq (s : State) (x : WriteSeq) : State :=
  { s with hub := { s.hub with seqs := x :: s.hub.seqs.filter fun y =>
      !(decide (y.core = x.core) && decide (y.who = x.who) && decide (y.path = x.path)) } }

/-- Number the next write of a source; none while 4,096 of them are unacknowledged. -/
def takeSeq (s : State) (c : Fin 256) (who : DomAgent) (path : Nat) : Option (State × BitVec 32) :=
  let x := seqOf s c who path
  if 4096 ≤ (x.next - x.acked).toNat then none
  else some (putSeq s { x with next := x.next + 1 }, x.next)

/-- A returned prefix has passed write number `n` (R278): `acked` counts the writes performed. -/
def ackedBy (x : WriteSeq) (n : BitVec 32) : Bool := decide ((x.acked - n).toNat - 1 < 2 ^ 31) && decide (x.acked ≠ n)

/-! ## Requests (R278, R321) -/

/-- Send something out of the device. -/
def sendOut (s : State) (o : Outgoing) : State := { s with outbox := o :: s.outbox }

/-- What a request asks for, and for whom. -/
structure Ask where
  core : Fin 256
  who  : DomAgent
  num  : Nat
  part : Nat
  dev  : BitVec 10
  addr : Word
  len  : Nat
  op   : PeerOp
  deriving DecidableEq, Repr

/-- A request leaves the device, under the next number (R278, R321). -/
def sendRequest (s : State) (x : Path) (q : Ask) (wseq : Option (BitVec 32)) (emul : Option Emulation) : State :=
  let id := s.hub.reqSeq
  let r : Request :=
    { id := id, core := q.core, who := q.who, num := q.num, part := q.part, dev := q.dev, addr := q.addr, len := q.len,
      port := x.port, path := x.path, since := s.now.toNat, wseq := wseq, acked := false, back := false, emul := emul,
      gen := (s.core q.core).l1Gen }
  sendOut { s with hub := { s.hub with reqs := s.hub.reqs ++ [r], reqSeq := id + 1 } }
    (.request id q.core q.who q.dev q.addr q.len q.op)

/-- A read leaves the device; the number of the request that it makes is the one that was next. -/
def sendRead (s : State) (x : Path) (q : Ask) : State := sendRequest s x q none none

/-- A write or an atomic packet leaves the device with the next number of its sequence (R278); none while it has to wait. -/
def sendWrite (s : State) (x : Path) (q : Ask) : Option State :=
  (takeSeq s q.core q.who x.path).map fun t => sendRequest t.1 x q (some t.2) none

/-- The request numbered `id`. -/
def requestOf (s : State) (id : Nat) : Option Request := s.hub.reqs.find? fun r => decide (r.id = id)

/-- Change a request. -/
def putRequest (s : State) (r : Request) : State :=
  { s with hub := { s.hub with reqs := s.hub.reqs.map fun x => if x.id = r.id then r else x } }

/-- Requests that are complete, or whose response is to be discarded when it comes (R307), leave. -/
def dropRequests (s : State) (gone : Request → Bool) : State :=
  { s with hub := { s.hub with reqs := s.hub.reqs.filter fun r => !gone r } }

/-- The request has been out for more than 20 µs (R321). -/
def requestLate (s : State) (r : Request) : Bool := decide (r.since + 20000 < s.now.toNat)

/-- The source's counter has passed the write of the request (R278). -/
def requestPassed (s : State) (r : Request) : Bool :=
  match r.wseq with
  | some n => ackedBy (seqOf s r.core r.who r.path) n
  | none => true

/-- The address of an access. -/
def entryVa : EntryKind → Word
  | .load va .. => va
  | .store va .. => va
  | .amo va .. => va
  | .cas va .. => va
  | _ => 0

/-! ## Arbitration at a port (R47 CLASS) -/

/-- The place of a queue entry. -/
def EntryKind.place : EntryKind → Option Place
  | .load _ _ _ _ _ p => some p
  | .store _ _ _ _ _ p => some p
  | .amo _ _ _ _ p => some p
  | .cas _ _ _ _ p => some p
  | .mark | .fence .. => none

/-- The address of a store goes to a peer that port `p` leads to. -/
def leavesThrough (s : State) (p : Fin 18) (va : Word) : Bool :=
  decide (topByte va = 1) && decide (domainDev va ≠ s.hub.index) && (match pathFor s (domainDev va) with
    | some x => decide (x.port = p)
    | none => false)

/-- The engine still has the work for which its request waits at a port. -/
def stillAsks (s : State) (c : Fin 256) : DomAgent → Bool
  | .engine e => !((s.core c).eng e).active.isEmpty || (decide (e = 2) && (s.core c).pinFill.isSome)
  | _ => false

/-- A core of vale `v` has an access at the head of a queue that is to leave through port `p`, an engine a request that waits there,
or its graph engine a store (R47). -/
def asksPort (s : State) (p : Fin 18) (v : Fin 16) : Bool :=
  let asks (q : List Entry) : Bool := match q.head? with
    | some e => e.sent.isNone && (match e.kind.place with
      | some (.peer d _) => decide (d ≠ s.hub.index) && (match pathFor s d with
        | some x => decide (x.port = p)
        | none => false)
      | _ => false)
    | none => false
  let mine (k : Core) : Bool := match k.task with
    | some t => decide (t.vale = v)
    | none => false
  (s.cores.toList.any fun k => mine k && (asks k.ls.lq || asks k.ls.sq)) ||
  (s.ports[p].asking.any fun x => decide (x.2.2 = v) && mine (s.core x.1) && stillAsks s x.1 x.2.1) ||
  (match (s.vale v).outgoing with
   | x :: _ => leavesThrough s p x.1
   | [] => false)

/-- A request of vale `v` is the port's next (R47). -/
def portServes (s : State) (p : Fin 18) (v : Fin 16) : Bool := arbitrates s (asksPort s p) s.ports[p].lastVale v

/-- The port takes a request: its agent waits there no longer, and its vale is the last one served. -/
def noteServed (s : State) (p : Fin 18) (v : Fin 16) (c : Fin 256) (who : DomAgent) : State :=
  let x := s.ports[p]
  s.setPort p { x with lastVale := v, asking := x.asking.filter fun y => !(decide (y.1 = c) && decide (y.2.1 = who)) }

/-- An agent waits at no port any more. -/
def askNoMore (s : State) (c : Fin 256) (who : DomAgent) : State :=
  { s with ports := s.ports.map fun x =>
      { x with asking := x.asking.filter fun y => !(decide (y.1 = c) && decide (y.2.1 = who)) } }

/-- The request of an engine waits at the port for its turn (R47; log 60). -/
def askPort (s : State) (p : Fin 18) (v : Fin 16) (c : Fin 256) (who : DomAgent) : State :=
  let x := s.ports[p]
  if x.asking.any fun y => decide (y.1 = c) && decide (y.2.1 = who) then s
  else s.setPort p { x with asking := x.asking ++ [(c, who, v)] }

end Sys2Proof.Machine
end

