-- ==== Sys2Proof/Machine/Basins.lean ====
section
/-! DEFINITION. Machine/Basins.lean: the state of basins (R241, R243), the tag check (R259), invalidation (R258), the pin table
(R257), and what reaches the graph engine's shadow (R54). -/
namespace Sys2Proof.Machine

/-- The byte ranges that a header gives beside its own 64 bytes (R241). -/
def Header.ranges (h : Header) : List (Word × Nat) :=
  [(h.data, h.dlen)] ++ (if h.form = 1 then [(h.expv, 128)] else []) ++ (if h.fmt = 16 then [(h.scalev, 256)] else [])

/-- The byte ranges recorded with a tag (R241). -/
def Basin.ranges (b : Basin) : List (Word × Nat) := (b.hdr, 64) :: b.header.ranges

/-- Some listed range meets the `n` bytes at `va`. -/
def anyMeet (rs : List (Word × Nat)) (va n : Nat) : Bool := rs.any fun r => rangesMeet r.1.toNat r.2 va n

/-- The basin is valid or stale: it holds a tag. -/
def Basin.tagged (b : Basin) : Bool := decide (b.st = .valid) || decide (b.st = .stale)

/-- The basin is reserved for a fill or being filled. -/
def Basin.unfilled (b : Basin) : Bool := decide (b.st = .reserved) || decide (b.st = .filling)

/-- A change of basin `b` of core `c` that is to reach the shadow of the core's vale (R54). -/
def noteShadow (s : State) (c : Fin 256) (b : Fin 32) (tag : Option ShadowTag) : State :=
  { s with vales := s.vales.map fun x =>
      if x.cores.getLsbD c then { x with lag := x.lag ++ [{ core := c, basin := b, tag := tag }] } else x }

/-- Put a basin back. -/
def setBasin (s : State) (c : Fin 256) (b : Fin 32) (x : Basin) : State :=
  s.setCore c { s.core c with basins := (s.core c).basins.set b x }

/-- A basin becomes invalid; the shadow learns of it. -/
def invalidate (s : State) (c : Fin 256) (b : Fin 32) : State := noteShadow (setBasin s c b Basin.zero) c b none

/-- Turn a basin stale: invalid at once where no record holds it (R241). -/
def makeStale (s : State) (c : Fin 256) (b : Fin 32) : State :=
  let x := (s.core c).basins[b]
  if !x.tagged then s
  else if x.holder.isEmpty then invalidate s c b
  else noteShadow (setBasin s c b { x with st := .stale, pinned := false }) c b none

/-- Turn stale every basin of a core that `p` holds of. -/
def staleWhere (s : State) (c : Fin 256) (p : Basin → Bool) : State :=
  (List.finRange 32).foldl (fun s b => if p (s.core c).basins[b] then makeStale s c b else s) s

/-- The ASID of the vale that owns a task's core. -/
def asidOf (s : State) (v : Fin 16) : BitVec 16 := (s.vale v).asid

/-- The tag check of a lead store of core `c` (R259): every basin that shares its header with one whose recorded ranges
meet the bytes turns stale. -/
def tagCheck (s : State) (c : Fin 256) (va : Word) (n : Nat) : State :=
  match (s.core c).task with
  | none => s
  | some t =>
    let asid := asidOf s t.vale
    let hit := (s.core c).basins.toList.filter fun b =>
      b.tagged && decide (b.asid = asid) && anyMeet b.ranges va.toNat n
    if hit.isEmpty then s
    else staleWhere s c fun b => b.tagged && decide (b.asid = asid) && hit.any fun h => decide (h.hdr = b.hdr)

/-- A store or an atomic that has been performed passes the basin tag check (R259). -/
def entryTagCheck (s : State) (c : Fin 256) (k : EntryKind) : State :=
  match k with
  | .store va n .. => tagCheck s c va n
  | .amo va n .. => tagCheck s c va n
  | .cas va n .. => tagCheck s c va n
  | _ => s

/-- A matrix record of the core is still to read or write the bytes for its fill (R266). -/
def fillBlocks (k : Core) (va : Word) (n : Nat) : Bool :=
  (k.engines[2]).active.any fun a => anyMeet a.fills va.toNat n

/-- The valid basins that hold a slice, lowest first (R241). -/
def validBasins (k : Core) (asid : BitVec 16) (hdr : Word) (slice : Nat) : List (Fin 32) :=
  (List.finRange 32).filter fun b =>
    let x := k.basins[b]
    decide (x.st = .valid) && decide (x.asid = asid) && decide (x.hdr = hdr) && decide (x.slice = slice)

/-- The slices of a header that the task has pinned (R257). -/
def pinBits (k : Core) (hdr : Word) : BitVec 8 :=
  match k.pins.find? fun p => decide (p.hdr = hdr) with
  | some p => p.slices
  | none => 0

/-- Set the pinned slices of a header; an entry without a bit is dropped. -/
def setPinBits (k : Core) (hdr : Word) (m : BitVec 8) : Core :=
  { k with pins :=
      if m = 0 then k.pins.filter fun p => !decide (p.hdr = hdr)
      else if k.pins.any fun p => decide (p.hdr = hdr) then
        k.pins.map fun p => if p.hdr = hdr then { p with slices := m } else p
      else k.pins ++ [{ hdr := hdr, slices := m }] }

/-- The basin that a fill takes (R243): the lowest invalid one, else the least recently used that is neither pinned nor
held. -/
def victim (k : Core) : Option (Fin 32) :=
  match (List.finRange 32).find? fun b => decide (k.basins[b].st = .invalid) with
  | some b => some b
  | none =>
    (List.finRange 32).foldl (fun best b =>
      let x := k.basins[b]
      if x.tagged && !x.pinned && x.holder.isEmpty then
        match best with
        | none => some b
        | some y => if x.useAt < k.basins[y].useAt then some b else some y
      else best) none

/-- Record a use of a basin at the end of its fill (R243). -/
def touchBasin (s : State) (c : Fin 256) (b : Fin 32) : State :=
  let k := s.core c
  s.setCore c { k with useSeq := k.useSeq + 1
                       basins := k.basins.set b { k.basins[b] with useAt := k.useSeq + 1 } }

/-- Release every pin of the core's task (R127). -/
def releasePins (k : Core) : Core := { k with pins := [], basins := k.basins.map fun b => { b with pinned := false } }

end Sys2Proof.Machine
end

