-- ==== Sys2Proof/Machine/Operands.lean ====
section
/-! DEFINITION. Machine/Operands.lean: every form of operand that names memory: effective addresses (R210), windows and their
checks (R188 to R191, R199, R211, R313, R343), L1 (R202 to R204), the bytes at a place. -/
namespace Sys2Proof.Machine

/-! ## Effective addresses -/

/-- Bytes of a size code (R78, R210). -/
def sizeBytes (size : BitVec 3) : Nat := 2 ^ (if 4 ≤ size.toNat then size.toNat - 4 else size.toNat)

/-- The size code loads a signed value (R210). -/
def sizeSigned (size : BitVec 3) : Bool := decide (4 ≤ size.toNat)

/-- EA (R210). -/
def effAddr (base : Word) (off : BitVec 7) (b : Nat) : Word := base + off.signExtend 64 * BitVec.ofNat 64 b

/-- The loaded value in a register (R210). -/
def extendLoaded (signed : Bool) (b n : Nat) : Word :=
  if signed then BitVec.ofInt 64 (signedOf b n) else BitVec.ofNat 64 n

/-! ## Windows of a task (R188 to R190) -/

/-- The top byte is one of R188 and the bits it marks zero are zero. -/
def windowOk (va : Word) : Bool :=
  match topByte va with
  | 0 | 1 => true
  | 2 => decide (va.extractLsb' 21 35 = 0)
  | 3 => decide (va.extractLsb' 24 32 = 0)
  | _ => false

/-- The endpoint exists for a task of vale `v` (R189). -/
def endpointOk (s : State) (v : Fin 16) (e : BitVec 12) : Bool :=
  decide (e = 1) || (decide (0x100 ≤ e.toNat) && decide (e.toNat < 0x300) &&
    (s.vale v).channels.getLsbD (e.toNat - 0x100))

/-- `n` bytes of scratchpad from `off` on lie in the task's allocation (R188). -/
def inAlloc (t : Task) (off n : Nat) : Bool := decide (t.alloc ≤ off) && decide (off + n ≤ t.alloc + t.size)

/-! ## L1 (R202 to R204) -/

/-- The word of an address is valid in the core's L1 for a request of type `rq`, and the fill's check allows the access
(R204, R211, R269). A copy that another core's store does not recall serves a `.si` load for the time of a lease from its fill, so that
R206's bound holds (log 76). -/
def l1Hit (s : State) (k : Core) (asid : BitVec 16) (va : Word) (rq : BitVec 2) (store : Bool) : Option L1Word :=
  k.l1.find? fun x =>
    decide (x.asid = asid) && decide (x.va8 = va.toNat / 8) && (if store then x.wr else x.rd) &&
    (decide (x.rq ≠ 2) || decide (s.now.toNat < x.ends)) &&
    (if topByte va = 1 then decide (rq = 2) && !store
     else if store then decide (rq = 0) && decide (x.rq = 0)
     else match rq.toNat with
      | 0 => decide (x.rq = 0)
      | 1 => true
      | 2 => decide (x.rq = 0) || decide (s.now.toNat < x.ends)
      | _ => false)

/-- The instant in ns at which a lease that starts now ends (R197, R204); a clk is 5/6 ns. -/
def leaseEnd (s : State) (v : Fin 16) : Nat := s.now.toNat + (s.vale v).lease.toNat * 5 / 6

/-- The line of an L1 word (R202). -/
def L1Word.lineOf (x : L1Word) : BitVec 16 × Nat := (x.asid, x.va8 / 16)

/-- Make room for a line in an L1 of 2,048 lines (256 KiB, R202): a full one evicts another line, which `pick` names. -/
def l1Room (k : Core) (pick : Nat) (line : BitVec 16 × Nat) : Core :=
  if k.l1.length < 2048 then k
  else
    let lines := (k.l1.map L1Word.lineOf).dedup
    if lines.length < 2048 ∨ lines.contains line = true then k
    else match lines[pick % lines.length]? with
      | some q => { k with l1 := k.l1.filter fun y => !decide (y.lineOf = q) }
      | none => k

/-- Replace one word of an L1; a word that is held for `.own` stays so, and stays registered in its earlier spans. -/
def l1Put (k : Core) (x : L1Word) : Core :=
  let same (y : L1Word) : Bool := decide (y.asid = x.asid) && decide (y.va8 = x.va8)
  let old := (k.l1.filter fun y => same y && decide (y.rq = 0)).flatMap (·.spans)
  if x.rq ≠ 0 ∧ k.l1.any (fun y => same y && decide (y.rq = 0)) then k
  else { k with l1 := { x with spans := x.spans ++ old } :: k.l1.filter fun y => !same y }

/-- Fill the span of an access (R203): words w0 to min(w0 + span, 15) of the line. A `.own` fill takes them exclusive;
poisoned words are not taken. -/
def l1Fill (s : State) (c : Fin 256) (v : Fin 16) (va : Nat) (rq : BitVec 2) (span : Nat) (l : Leaf) : State :=
  let w0 := va / 8 % 16
  let n := min (w0 + span) 15 + 1 - w0
  let s := touchLines (recallRange s (some c) (l.pa / 8 * 8) (8 * n)) v l.pa 1 false
  let number := (s.core c).spanSeq
  let room := l1Room (s.core c) (Config.choose s.ticks va) (asidOf s v, va / 128)
  s.setCore c ((List.range n).foldl (fun k i =>
    let w := l.pa / 8 + i
    if poisonedAt s .dram (w * 8) 8 then k
    else l1Put k
      { va8 := va / 8 + i, asid := asidOf s v, rq := rq, place := .dram (w * 8) l.cc,
        data := if rq = 0 then 0 else BitVec.ofNat 64 (ofBytes (valeRead s v (w * 8) 8)),
        ends := if rq = 0 then 0 else leaseEnd s v, spans := [number], rd := l.r, wr := l.w,
        late := 0, bad := false }) { room with spanSeq := number + 1 })

/-- Drop every `.wt` and `.si` word of a core (R205); a domain load that is out takes no copy of what it read before. -/
def acquireL1 (s : State) (c : Fin 256) : State :=
  let k := s.core c
  s.setCore c { k with l1Gen := k.l1Gen + 1, l1 := k.l1.filter fun x => decide (x.rq = 0) }

/-- An acquire by a lead slice (R205); the management core keeps no L1 copy. -/
def acquireLead (s : State) (who : LeadId) : State :=
  match who with
  | .mgmt => s
  | .core c => acquireL1 s c

/-! ## The checks of a lead access (R211) -/

/-- What a lead access is, for the checks. -/
structure Req where
  acc  : Access
  va   : Word
  n    : Nat
  rq   : BitVec 2
  deriving DecidableEq, Repr

/-- The request is a plain load or store of 8 bytes with request type `.nc` (R199, R313). -/
def plainNc (q : Req) : Bool := decide (q.n = 8) && decide (q.rq = 3) && decide (q.acc ≠ .atomic)

/-- An image page takes no store (R17); the walk's own codes otherwise. -/
def walkCode (agent : Nat) (e : WalkErr) : BitVec 12 := BitVec.ofNat 12 (e.code agent)

/-- Steps 1 to 7 of R211 for a task's access: the place, or the first cause. -/
def taskPlace (s : State) (c : Fin 256) (t : Task) (q : Req) : Except (BitVec 12) (Place × Option Leaf) :=
  if !windowOk q.va then .error 65
  else if q.va.toNat % q.n ≠ 0 then .error 64
  else
    match topByte q.va with
    | 3 =>
      let e := q.va.extractLsb' 12 12
      let off := q.va.extractLsb' 0 12
      if q.acc ≠ .write ∨ q.n ≠ 8 ∨ !endpointOk s t.vale e ∨ off.extractLsb' 7 5 ≠ 0 then .error 67
      else .ok (.endpoint e off, none)
    | 2 =>
      let off := (q.va.extractLsb' 0 21).toNat
      if inAlloc t off q.n then .ok (.scratch off, none) else .error 128
    | 1 =>
      if !inDomain s (domainDev q.va) then .error 68
      else
        match (if q.acc = .read then l1Hit s (s.core c) (asidOf s t.vale) q.va q.rq false else none) with
        | some x => .ok (match x.place with
          | .peer d a => (.peer d (a + BitVec.ofNat 64 (q.va.toNat % 8)), none)
          | p => (p, none))
        | none =>
          if !keyed s t.vale then .error 129
          else if q.rq = 0 ∧ q.acc ≠ .atomic then .error 97
          else .ok (.peer (domainDev q.va) (domainAddr q.va), none)
    | _ =>
      match (if q.acc = .atomic then none
             else l1Hit s (s.core c) (asidOf s t.vale) q.va q.rq (decide (q.acc = .write))) with
      | some x => .ok (match x.place with
        | .dram a cc => (.dram (a + q.va.toNat % 8) cc, none)
        | p => (p, none))
      | none =>
        match translate s t.vale q.va.toNat q.acc with
        | .error e => .error (walkCode 0 e)
        | .ok l =>
          if l.cc && q.acc ≠ .atomic && (decide (q.rq = 0) || decide (q.rq = 2)) then .error 97
          else .ok (.dram l.pa l.cc, some l)

/-- The address map of the management core (R343), with the vale windows of R199, whose stores no write-deny of
R15 refuses (log 80), and the register blocks of R313. -/
def mgmtPlace (s : State) (q : Req) : Except (BitVec 12) Place :=
  let a := q.va.toNat
  if 0x00F0000000000000 ≤ a ∧ a < 0x00F0080000000000 then
    if a % q.n ≠ 0 then .error 64
    else
      let v : Fin 16 := (q.va.extractLsb' 39 4).toFin
      let pa := a % 2 ^ 39
      if !ownsPa s v pa then .error 131
      else if !keyed s v then .error 129
      else if !plainNc q then .error 97
      else .ok (.valeWindow v pa)
  else if 0x00FF000000000000 ≤ a ∧ a < 0x00FF000004000000 then
    if a % q.n ≠ 0 then .error 64 else .ok (.firmware (a - 0x00FF000000000000))
  else if 0x00FF700000000000 ≤ a ∧ a < 0x0100000000000000 then
    if a % q.n ≠ 0 then .error 64 else if !plainNc q then .error 97 else .ok (.block a)
  else .error 65

/-- The place of a lead access with its leaf, or its cause. -/
def leadPlace (s : State) (who : LeadId) (q : Req) : Except (BitVec 12) (Place × Option Leaf) :=
  match who with
  | .mgmt => (mgmtPlace s q).map fun p => (p, none)
  | .core c => match (s.core c).task with
    | some t => taskPlace s c t q
    | none => .error 65

/-- The vale whose tree a lead access is translated through: a global one that passes the steps before and that no L1 copy serves
(R202, R211). -/
def walkedVale (s : State) (who : LeadId) (q : Req) : Option (Fin 16) :=
  match who with
  | .mgmt => none
  | .core c => match (s.core c).task with
    | none => none
    | some t =>
      if topByte q.va = 0 ∧ q.va.toNat % q.n = 0 ∧ (q.acc = .atomic ∨
          (l1Hit s (s.core c) (asidOf s t.vale) q.va q.rq (decide (q.acc = .write))) = none) then some t.vale
      else none

/-- The translation of a lead access waits for a DRAM bank that a copy channel holds (R224). -/
def leadHeld (s : State) (who : LeadId) (q : Req) : Bool :=
  !s.bulk.isEmpty && (walkedVale s who q).any fun v => walkHeld s v none q.va.toNat

/-- The translation of a lead access, if it makes one, reads its table entries, whether it finds a leaf or not (R269). -/
def walked (s : State) (who : LeadId) (q : Req) : State :=
  match walkedVale s who q with
  | some v => noteWalk s v q.va.toNat
  | none => s

/-- The lead slice's place is a domain access that this device itself serves (R320). -/
def selfServed (s : State) (p : Place) : Bool :=
  match p with
  | .peer d _ => decide (d = s.hub.index)
  | _ => false

/-! ## Bytes at a place -/

/-- Two places share a byte. -/
def placesMeet (p : Place) (n : Nat) (q : Place) (m : Nat) : Bool :=
  match p, q with
  | .dram a _, .dram b _ => rangesMeet a n b m
  | .scratch a, .scratch b => rangesMeet a n b m
  | .firmware a, .firmware b => rangesMeet a n b m
  | .valeWindow v a, .valeWindow w b => decide (v = w) && rangesMeet a n b m
  | .block a, .block b => rangesMeet a n b m
  | .peer d a, .peer e b => decide (d = e) && rangesMeet a.toNat n b.toNat m
  | _, _ => false

/-- The first poisoned word of a lead access, as an address relative to the access: 0 for its own word (R312). -/
def placePoisoned (s : State) (who : LeadId) (p : Place) (n : Nat) : Bool :=
  match p, who with
  | .dram a _, _ => poisonedAt s .dram a n
  | .valeWindow _ a, _ => poisonedAt s .dram a n
  | .scratch a, .core c => poisonedAt s (.scratch c) a n
  | .firmware a, _ => poisonedAt s .firmware a n
  | _, _ => false

/-- The vale of a core's task. -/
def taskVale (s : State) (c : Fin 256) : Option (Fin 16) := ((s.core c).task).map (·.vale)

/-! ## A core's own copies (R204, R223) -/

/-- The physical address that a global address of a vale has, whatever the access (R195). -/
def leafPa (s : State) (v : Fin 16) (va : Nat) : Option Nat :=
  match translate s v va .fetch with
  | .ok l => some l.pa
  | .error _ => none

/-- The physical address in this device of a place of core `c`, through the device's own index too (R320), or of one that is still
to be translated. -/
def placePa (s : State) (c : Fin 256) : Place → Option Nat
  | .dram a _ => some a
  | .peer d a =>
    if d = s.hub.index then
      match (taskVale s c).bind fun v => boundVale s d (BitVec.ofNat 4 v.val) with
      | some w => leafPa s w a.toNat
      | none => none
    else none
  | .walk va => (taskVale s c).bind fun v => leafPa s v va.toNat
  | _ => none

/-- The place is not named by its own bytes: it is served in this device under its index, or still to be translated. -/
def otherName (s : State) : Place → Bool
  | .peer d _ => decide (d = s.hub.index)
  | .walk _ => true
  | _ => false

/-- Two places of a lead slice share a byte, under whichever names (R207, R320). -/
def bytesMeet (s : State) (who : LeadId) (p : Place) (n : Nat) (q : Place) (m : Nat) : Bool :=
  placesMeet p n q m || (match who with
    | .mgmt => false
    | .core c => (otherName s p || otherName s q) && (match placePa s c p, placePa s c q with
      | some a, some b => rangesMeet a n b m
      | _, _ => false))

/-- The copy holds bytes of the `n` bytes at a place under another name of theirs (R320). -/
def aliasCopy (s : State) (c : Fin 256) (p : Place) (n : Nat) (x : L1Word) : Bool :=
  decide (x.rq ≠ 0) && !placesMeet p n x.place 8 && (match p, x.place with
    | .dram .., .peer .. | .peer .., .dram .. | .peer .., .peer .. => (match placePa s c p, placePa s c x.place with
      | some a, some b => rangesMeet a n b 8
      | _, _ => false)
    | _, _ => false)

/-- The core's own copies of bytes that it has stored at a place: they take them, or leave where they stand under another name
(R204). -/
def storeCopies (s : State) (c : Fin 256) (p : Place) (bs : List Byte) : State :=
  let k := s.core c
  s.setCore c (updateCopies { k with l1 := k.l1.filter fun x => !aliasCopy s c p bs.length x } p bs)

/-- Mark a core's own `.wt` and `.si` copies of the bytes that its copy channel `e` writes at a place: a WPTR of the channel drops
them (R223). A domain load that is out takes no copy. -/
def markLate (s : State) (c : Fin 256) (e : Fin 4) (p : Place) (n : Nat) : State :=
  let b : BitVec 2 := if e = 0 then 1 else 2
  let k := s.core c
  s.setCore c { k with
    l1Gen := k.l1Gen + 1
    l1 := k.l1.map fun x =>
      if decide (x.rq ≠ 0) && (placesMeet p n x.place 8 || aliasCopy s c p n x) then { x with late := x.late ||| b } else x }

/-! ## Poison (R312) -/

/-- A load would consume a poisoned word: of the copy that it hits in L1, or of its place (R312). -/
def loadPoisoned (s : State) (who : LeadId) (va : Word) (n : Nat) (rq : BitVec 2) (p : Place) : Bool :=
  let hit : Option L1Word := match who with
    | .mgmt => none
    | .core c => match taskVale s c with
      | some v => l1Hit s (s.core c) (asidOf s v) va rq false
      | none => none
  match hit with
  | some x => if x.rq = 0 then placePoisoned s who p n || x.bad else x.bad
  | none => placePoisoned s who p n

/-- A load or an atomic of a queue would consume a poisoned word. -/
def entryPoisoned (s : State) (who : LeadId) : EntryKind → Bool
  | .load va n _ rq _ p => loadPoisoned s who va n rq p
  | .amo _ n _ _ p => placePoisoned s who p n
  | .cas _ n _ _ p => placePoisoned s who p n
  | .store .. | .mark | .fence .. => false

/-- The key a task's own data is under: the vale's, or the line's own where an exclusive L1 copy still serves an access of a
vale that is not keyed (R342). -/
def dataKey (s : State) (v : Fin 16) (pa : Nat) : Nat := (valeKey s v).getD (lineKey s pa)

end Sys2Proof.Machine
end

