-- ==== Sys2Proof/Machine/Barriers.lean ====
section
/-! DEFINITION. Machine/Barriers.lean: barrier objects and the barrier instructions (R13, R226 to R230). -/
namespace Sys2Proof.Machine

/-! ## The sync table (R13) -/

/-- The image of a task. -/
def taskImage (s : State) (t : Task) : Option Image := (s.vale t.vale).images.find? fun i => decide (i.base = t.image)

/-- The entry of kind `kind` with ID `id` in an image's sync table. -/
def Image.sync (i : Image) (kind id : Nat) : Option SyncEntry :=
  i.syncs.find? fun e => decide (e.kind = kind) && decide (e.id = id)

/-- A sync entry of the task on a core; the management core has no sync table. -/
def leadSync (s : State) (who : LeadId) (kind id : Nat) : Option SyncEntry :=
  match who with
  | .mgmt => none
  | .core c => do let t ← (s.core c).task; let i ← taskImage s t; i.sync kind id

/-- Which IDs the task's image declares, for the decoder (R84). -/
def declaredIds (s : State) (who : LeadId) : SyncIds :=
  let mask (kind : Nat) : BitVec 64 :=
    match who with
    | .mgmt => 0
    | .core c =>
      match (do let t ← (s.core c).task; taskImage s t) with
      | some i => i.syncs.foldl (fun m e => if e.kind = kind then m ||| BitVec.ofNat 64 (2 ^ e.id) else m) 0
      | none => 0
  ⟨mask 1, mask 2, mask 3⟩

/-! ## Objects (R226, R227) -/

/-- A barrier object's fields. -/
structure Bar where
  expect  : Nat
  arrived : Nat
  phase   : Nat
  deriving DecidableEq, Repr

/-- The object at a scratchpad offset. -/
def readBar (m : Memory) (off : Nat) : Bar := ⟨memNum m off 4, memNum m (off + 4) 4, memNum m (off + 8) 4⟩

/-- Write the object: its three fields, and the reserved word as zero (R226). -/
def writeBar (m : Memory) (off : Nat) (b : Bar) : Memory :=
  memPut (memPut (memPut (memPut m off 4 b.expect) (off + 4) 4 b.arrived) (off + 8) 4 b.phase) (off + 12) 4 0

/-- An add of `c` bytes, and whether it overran (R227). -/
def Bar.add (b : Bar) (c : Nat) : Bar × Bool :=
  let a := b.arrived + c
  if b.expect = 0 then ({ b with arrived := min a (2 ^ 32 - 1) }, false)
  else if a < b.expect then ({ b with arrived := a }, false)
  else ({ b with arrived := 0, phase := b.phase ^^^ 1 }, decide (b.expect < a))

/-- Add bytes to the object at offset `off` of a core's scratchpad. -/
def barAdd (k : Core) (off c : Nat) : Core × Bool :=
  let r := (readBar k.scratch off).add c
  ({ k with scratch := writeBar k.scratch off r.1 }, r.2)

/-! ## Barrier instructions (R228) -/

/-- The object of a barrier instruction: the core, its task, the offset in scratchpad. -/
def barObject (s : State) (who : LeadId) (id : BitVec 6) : Option (Fin 256 × Nat) :=
  match who with
  | .mgmt => none
  | .core c => do
    let t ← (s.core c).task
    let e ← leadSync s who 3 id.toNat
    some (c, t.alloc + e.valA)

/-- A barrier instruction reads its source and acts on its object. -/
def barStep (i : Instr) (a : BitVec 5) (id : BitVec 6) (f : State → Fin 256 → Nat → Word → Issue) (s : State) : Out :=
  leadStep i (fun who s =>
    match barObject s who id with
    | none => .trap 0 (wordOf i)
    | some (c, off) =>
      match readSrc (s.ls who) a with
      | none => .wait
      | some v => f s c off v) s

/-- Put a changed object back and retire. -/
def barRetire (s : State) (c : Fin 256) (off : Nat) (b : Bar) : Issue :=
  retireNone (s.setCore c { s.core c with scratch := writeBar (s.core c).scratch off b }) (.core c)

/-- A record of the core, queued or active, names the object (R230). -/
def barNamed (k : Core) (off : Nat) : Bool :=
  let names (r : Record) : Bool :=
    r.f[2].getLsbD 31 && (match k.task with
      | some t => decide (t.alloc + (r.f[2].extractLsb' 0 21).toNat = off)
      | none => false)
  k.engines.toList.any fun e => e.queue.any names || e.active.any fun a => names a.r

/-- BARINIT (R228). -/
def execBarinit (a : BitVec 5) (id : BitVec 6) (s : State) : Out :=
  barStep (.barinit a id) a id (fun s c off v => barRetire s c off ⟨v.toNat % 2 ^ 32, 0, 0⟩) s

/-- BARARM: the settle step adds zero to the new EXPECT; 192 where that would overrun (R228). -/
def execBararm (a : BitVec 5) (id : BitVec 6) (s : State) : Out :=
  barStep (.bararm a id) a id (fun s c off v =>
    let r := ({ readBar (s.core c).scratch off with expect := v.toNat % 2 ^ 32 } : Bar).add 0
    if r.2 then .trap 192 (wordOf (.bararm a id)) else barRetire s c off r.1) s

/-- BARARRIVE: 192 where the add would overrun (R228). -/
def execBararrive (a : BitVec 5) (id : BitVec 6) (s : State) : Out :=
  barStep (.bararrive a id) a id (fun s c off v =>
    let r := (readBar (s.core c).scratch off).add (v.toNat % 2 ^ 32)
    if r.2 then .trap 192 (wordOf (.bararrive a id)) else barRetire s c off r.1) s

/-- The object that a BARWAIT waits on is named by no record and has not flipped: the wait will end in 195 (R230). Judged at each
instant at which a record leaves its engine. -/
def noteStarved (k : Core) : Core :=
  match k.waitsOn with
  | some (off, b) =>
    if !barNamed k off && decide ((readBar k.scratch off).phase % 2 = b.toNat) then { k with starved := true } else k
  | none => k

/-- BARWAIT: it returns and acquires once PHASE ≠ a[0]; 195 where at any instant of the wait no record could flip it (R228 to
R230). -/
def execBarwait (a : BitVec 5) (id : BitVec 6) (s : State) : Out :=
  barStep (.barwait a id) a id (fun s c off v =>
    let k := s.core c
    if k.starved then .trap 195 (wordOf (.barwait a id))
    else if (readBar k.scratch off).phase % 2 ≠ v.toNat % 2 then
      retireNone (acquireL1 (s.setCore c { k with waitsOn := none }) c) (.core c)
    else if barNamed k off then .hold (s.setCore c { k with waitsOn := some (off, v.getLsbD 0) })
    else .trap 195 (wordOf (.barwait a id))) s

/-- BARTEST: 1 with an acquire if PHASE ≠ a[0], else 0 (R228, R229). -/
def execBartest (d a : BitVec 5) (id : BitVec 6) (s : State) : Out :=
  barStep (.bartest d a id) a id (fun s c off v =>
    if (readBar (s.core c).scratch off).phase % 2 ≠ v.toNat % 2 then retire (acquireL1 s c) (.core c) d 1
    else retire s (.core c) d 0) s

end Sys2Proof.Machine
end

