-- ==== Sys2Proof/Machine/Formats.lean ====
section
/-! DEFINITION. Machine/Formats.lean: the number formats (R175 to R178), the one rounding function (R179), the generator of
stochastic rounding (R180), exact arithmetic on the values, the special functions (R152). Values are exact: a finite value
is a sign, a whole number and a power of two. -/
namespace Sys2Proof.Machine

/-! ## Formats -/

/-- A floating format (R175 to R177): width, exponent bits, fraction bits, bias, and which specials it has. -/
structure Fmt where
  width : Nat
  eb    : Nat
  fb    : Nat
  bias  : Nat
  /-- It has infinities, and NaN where the exponent is all ones (R175). -/
  ieee  : Bool
  /-- Its only NaN has all exponent and fraction bits set (e4m3, R176). -/
  topNan : Bool
  deriving DecidableEq, Repr

def fmtF64 : Fmt := ⟨64, 11, 52, 1023, true, false⟩
def fmtF32 : Fmt := ⟨32, 8, 23, 127, true, false⟩
def fmtF16 : Fmt := ⟨16, 5, 10, 15, true, false⟩
def fmtBf16 : Fmt := ⟨16, 8, 7, 127, true, false⟩
def fmtE4m3 : Fmt := ⟨8, 4, 3, 7, false, true⟩
def fmtE5m2 : Fmt := ⟨8, 5, 2, 15, true, false⟩
def fmtE2m1 : Fmt := ⟨4, 2, 1, 1, false, false⟩
/-- e3m5 has no sign (R177): bit 8 of a byte reads as 0. -/
def fmtE3m5 : Fmt := ⟨9, 3, 5, 3, false, false⟩

/-- The floating format of an element type code, the part's format for a complex type (R88). -/
def fmtOf (ty : Nat) : Fmt :=
  match ty with
  | 8 => fmtF16
  | 9 => fmtBf16
  | 10 | 12 => fmtF32
  | 11 | 13 => fmtF64
  | 14 => fmtE4m3
  | _ => fmtE5m2

/-- Precision p (R175). -/
def Fmt.p (F : Fmt) : Nat := F.fb + 1
/-- emin (R175). -/
def Fmt.emin (F : Fmt) : Int := 1 - F.bias
/-- The largest finite significand at the largest exponent, as a whole number of last places (R175 to R177). -/
def Fmt.maxSig (F : Fmt) : Nat := if F.topNan then 2 ^ F.p - 2 else 2 ^ F.p - 1
/-- emax (R175 to R177). -/
def Fmt.emax (F : Fmt) : Int := if F.ieee then 2 ^ F.eb - 2 - F.bias else 2 ^ F.eb - 1 - F.bias

/-- A value: (−1)^neg · m · 2^e, an infinity, or NaN. A zero keeps its sign. -/
inductive FVal where
  | nan
  | inf (neg : Bool)
  | fin (neg : Bool) (m : Nat) (e : Int)
  deriving DecidableEq, Repr

/-- The value that bits stand for (R175 to R177). -/
def Fmt.value (F : Fmt) (x : Nat) : FVal :=
  let neg := (x / 2 ^ (F.width - 1) % 2 == 1)
  let E := x / 2 ^ F.fb % 2 ^ F.eb
  let f := x % 2 ^ F.fb
  if F.ieee && E == 2 ^ F.eb - 1 then (if f = 0 then .inf neg else .nan)
  else if F.topNan && E == 2 ^ F.eb - 1 && f == 2 ^ F.fb - 1 then .nan
  else if E = 0 then .fin neg f (F.emin - F.fb)
  else .fin neg (2 ^ F.fb + f) ((E : Int) - F.bias - F.fb)

/-- The canonical quiet NaN (R144). -/
def Fmt.nan (F : Fmt) : Nat :=
  if F.topNan then 2 ^ (F.eb + F.fb) - 1 else (2 ^ F.eb - 1) * 2 ^ F.fb + 2 ^ (F.fb - 1)

/-- Put a sign on the bits of a magnitude. -/
def Fmt.signed (F : Fmt) (neg : Bool) (mag : Nat) : Nat := if neg then 2 ^ (F.width - 1) + mag else mag

/-- The largest finite magnitude. -/
def Fmt.maxBits (F : Fmt) : Nat :=
  let E := if F.ieee then 2 ^ F.eb - 2 else 2 ^ F.eb - 1
  E * 2 ^ F.fb + (F.maxSig - 2 ^ F.fb)

/-- The infinity of the format, or its largest finite value where it has none. -/
def Fmt.infBits (F : Fmt) : Nat := if F.ieee then (2 ^ F.eb - 1) * 2 ^ F.fb else F.maxBits

/-! ## Rounding (R179) -/

/-- The four modes (R87): 0 RNE, 1 RTZ, 2 RTO, 3 RST with its 16 bits. -/
inductive Rnd where
  | rne | rtz | rto
  | rst (r : Nat)
  deriving DecidableEq, Repr

/-- `m / 2^sh` rounded to a whole number (R179 with u = 2^sh). -/
def roundShift (mode : Rnd) (m sh : Nat) : Nat :=
  let lo := m / 2 ^ sh
  let rem := m % 2 ^ sh
  if rem = 0 then lo
  else
    match mode with
    | .rne =>
      if 2 * rem < 2 ^ sh then lo else if 2 ^ sh < 2 * rem then lo + 1 else if lo % 2 = 0 then lo else lo + 1
    | .rtz => lo
    | .rto => if lo % 2 = 1 then lo else lo + 1
    | .rst r => (m * 2 ^ 16 / 2 ^ sh + r) / 2 ^ 16

/-- The mode overflows to infinity: RNE alone (R144, R179). -/
def Rnd.toInf : Rnd → Bool
  | .rne => true
  | _ => false

/-- The magnitude bits of `m · 2^e` rounded once into the format (R179). -/
def Fmt.roundMag (F : Fmt) (mode : Rnd) (m : Nat) (e : Int) : Nat :=
  if m = 0 then 0
  else
    let ev := max ((Nat.log2 m : Int) + e) F.emin
    let u := ev - F.fb
    let k := if u ≤ e then m * 2 ^ (e - u).toNat else roundShift mode m (u - e).toNat
    let ev := if k = 2 ^ F.p then ev + 1 else ev
    let k := if k = 2 ^ F.p then 2 ^ F.fb else k
    if F.emax < ev ∨ (ev = F.emax ∧ F.maxSig < k) then
      if mode.toInf then F.infBits else F.maxBits
    else if k < 2 ^ F.fb then k
    else (ev + F.bias).toNat * 2 ^ F.fb + (k - 2 ^ F.fb)

/-- round(v, F, mode) with the specials of R144 and, for a format without infinity, the saturation of R150. -/
def Fmt.round (F : Fmt) (mode : Rnd) : FVal → Nat
  | .nan => F.nan
  | .inf neg => F.signed neg F.infBits
  | .fin neg m e => F.signed neg (F.roundMag mode m e)

/-- A finite value rounded to a whole number (R111, R150: u = 1). -/
def roundToInt (mode : Rnd) (neg : Bool) (m : Nat) (e : Int) : Int :=
  let k : Nat := if 0 ≤ e then m * 2 ^ e.toNat else roundShift mode m (-e).toNat
  if neg then -(k : Int) else k

/-! ## Exact arithmetic (R143, R144) -/

/-- The value of a whole number. -/
def FVal.ofInt (i : Int) : FVal := .fin (decide (i < 0)) i.natAbs 0

/-- The sign bit inverted, in the value. -/
def FVal.neg : FVal → FVal
  | .nan => .nan
  | .inf s => .inf (!s)
  | .fin s m e => .fin (!s) m e

/-- The value is zero. -/
def FVal.isZero : FVal → Bool
  | .fin _ 0 _ => true
  | _ => false

/-- The signed whole number `m` scaled to the power `lo`. -/
def scaled (s : Bool) (m : Nat) (e lo : Int) : Int :=
  let k : Int := (m * 2 ^ (e - lo).toNat : Nat)
  if s then -k else k

/-- The exact sum; an exact zero is +0 unless both addends are −0 (R144). -/
def FVal.add : FVal → FVal → FVal
  | .nan, _ => .nan
  | _, .nan => .nan
  | .inf a, .inf b => if a = b then .inf a else .nan
  | .inf a, .fin .. => .inf a
  | .fin .., .inf b => .inf b
  | .fin a m e, .fin b n f =>
    let lo := min e f
    let t := scaled a m e lo + scaled b n f lo
    if t = 0 then .fin (a && b && decide (m = 0) && decide (n = 0)) 0 lo
    else .fin (decide (t < 0)) t.natAbs lo

/-- The exact product; its sign is the XOR of the signs (R144). -/
def FVal.mul : FVal → FVal → FVal
  | .nan, _ => .nan
  | _, .nan => .nan
  | .inf a, .inf b => .inf (xor a b)
  | .inf a, .fin b n _ => if n = 0 then .nan else .inf (xor a b)
  | .fin a m _, .inf b => if m = 0 then .nan else .inf (xor a b)
  | .fin a m e, .fin b n f => .fin (xor a b) (m * n) (e + f)

/-- The value times 2^k. -/
def FVal.scale (x : FVal) (k : Int) : FVal :=
  match x with
  | .fin s m e => .fin s m (e + k)
  | y => y

/-- a < b for values that are not NaN; −0 equals +0. -/
def FVal.lt : FVal → FVal → Bool
  | .nan, _ => false
  | _, .nan => false
  | .inf a, .inf b => a && !b
  | .inf a, .fin .. => a
  | .fin .., .inf b => !b
  | .fin a m e, .fin b n f =>
    let lo := min e f
    decide (scaled a m e lo < scaled b n f lo)

/-- a = b for values that are not NaN; −0 equals +0. -/
def FVal.eq : FVal → FVal → Bool
  | .nan, _ => false
  | _, .nan => false
  | a, b => !FVal.lt a b && !FVal.lt b a

/-- The value is NaN. -/
def FVal.isNan : FVal → Bool
  | .nan => true
  | _ => false

/-- The sign bit of a value. -/
def FVal.signBit : FVal → Bool
  | .nan => false
  | .inf s => s
  | .fin s _ _ => s

/-- The lesser value, −0 below +0; the other operand where one is NaN (R147). -/
def FVal.min (a b : FVal) : FVal :=
  if a.isNan then b else if b.isNan then a
  else if FVal.lt a b then a else if FVal.lt b a then b
  else if a.signBit then a else b

/-- The greater value, +0 above −0; the other operand where one is NaN (R147). -/
def FVal.max (a b : FVal) : FVal :=
  if a.isNan then b else if b.isNan then a
  else if FVal.lt a b then b else if FVal.lt b a then a
  else if a.signBit then b else a

/-! ## The generator of stochastic rounding (R180) -/

/-- mix of R180. -/
def mix (x : BitVec 64) : BitVec 64 :=
  let x := (x ^^^ (x >>> 30)) * 0xBF58476D1CE4E5B9
  let x := (x ^^^ (x >>> 27)) * 0x94D049BB133111EB
  x ^^^ (x >>> 31)

/-- The 16 bits of a rounding, from the start value and the four words of its identity (R180). -/
def rstBits (start z0 z1 z2 z3 : BitVec 64) : Nat :=
  let h := mix (start ^^^ z0)
  let h := mix (h ^^^ z1)
  let h := mix (h ^^^ z2)
  let h := mix (h ^^^ z3)
  h.toNat / 2 ^ 48

/-- The lane generator G(s, j, A, P) (R145, R180). -/
def rstLane (s j : Nat) (addr : Word) (passes : List (BitVec 32)) : Nat :=
  let p (i : Nat) : Nat := (passes.getD i 0).toNat
  rstBits 0x9E3779B97F4A7C15 addr (BitVec.ofNat 64 (s + 2 ^ 8 * j)) (BitVec.ofNat 64 (p 0 + 2 ^ 32 * p 1))
    (BitVec.ofNat 64 (p 2 + 2 ^ 32 * p 3))

/-- The record generator (R180): record address, seed, element index, step code. -/
def rstRecord (addr : Word) (seed e step : Nat) : Nat :=
  rstBits 0x6A09E667F3BCC909 addr (BitVec.ofNat 64 seed) (BitVec.ofNat 64 e) (BitVec.ofNat 64 step)

/-! ## Functions that are not dyadic (R152)

A magnitude that lies strictly between `q` and `q+1` units is carried as `2q+1` half units: every rounding decision of R179
is the same for all of them, as long as the unit is at most 2^-17 of the last kept place. -/

/-- `q` units of 2^-k, and whether something is left over. -/
def sticky (q : Nat) (inexact : Bool) (k : Int) : Nat × Int := (2 * q + (if inexact then 1 else 0), -k - 1)

/-- 1 / (m · 2^e). -/
def recipMag (m : Nat) (e : Int) (prec : Nat) : Nat × Int :=
  let k := Nat.log2 m + prec
  sticky (2 ^ k / m) (decide (2 ^ k % m ≠ 0)) (k + e)

/-- The largest whole number whose square is at most `n`, from bit `b` down. -/
def isqrtFrom (n : Nat) : Nat → Nat → Nat
  | acc, 0 => acc
  | acc, b + 1 => if (acc + 2 ^ b) * (acc + 2 ^ b) ≤ n then isqrtFrom n (acc + 2 ^ b) b else isqrtFrom n acc b

/-- Whole square root. -/
def isqrt (n : Nat) : Nat := isqrtFrom n 0 (Nat.log2 n / 2 + 1)

/-- √(m · 2^e). -/
def sqrtMag (m : Nat) (e : Int) (prec : Nat) : Nat × Int :=
  let m := if e % 2 = 0 then m else 2 * m
  let e := if e % 2 = 0 then e else e - 1
  let n := m * 2 ^ (2 * prec)
  let q := isqrt n
  sticky q (decide (q * q ≠ n)) (prec - e / 2)

/-- 1 / √(m · 2^e). -/
def rsqrtMag (m : Nat) (e : Int) (prec : Nat) : Nat × Int :=
  let m := if e % 2 = 0 then m else 2 * m
  let e := if e % 2 = 0 then e else e - 1
  let k := Nat.log2 m + prec
  let q := isqrt (2 ^ (2 * k) / m)
  sticky q (decide (q * q * m ≠ 2 ^ (2 * k))) (k + e / 2)

/-- Lower bound of 1 + y + y²/2! + ..., y = `y` / 2^k below 1. -/
def expLow (k y : Nat) : Nat → Nat → Nat → Nat → Nat
  | 0, _, _, sum => sum
  | fuel + 1, i, term, sum =>
    let t := term * y / (2 ^ k * i)
    expLow k y fuel (i + 1) t (sum + t)

/-- Upper bound of the same sum. -/
def expHigh (k y : Nat) : Nat → Nat → Nat → Nat → Nat
  | 0, _, _, sum => sum + 2
  | fuel + 1, i, term, sum =>
    let t := term * y / (2 ^ k * i) + 1
    expHigh k y fuel (i + 1) t (sum + t)

/-- Bounds of exp(y), `lo` and `hi` bounds of y in units of 2^-k, y below 1. -/
def expBounds (k lo hi : Nat) : Nat × Nat :=
  (expLow k lo (k / 4 + 20) 1 (2 ^ k) (2 ^ k), expHigh k hi (k / 4 + 20) 1 (2 ^ k) (2 ^ k))

/-- Lower and upper bound of the sum of 2^k / (i · 2^i), which is ln 2. -/
def ln2Sum (k : Nat) : Nat → Nat → Nat × Nat → Nat × Nat
  | 0, _, acc => (acc.1, acc.2 + 2)
  | fuel + 1, i, acc =>
    ln2Sum k fuel (i + 1) (acc.1 + 2 ^ k / (i * 2 ^ i), acc.2 + 2 ^ k / (i * 2 ^ i) + 1)

/-- Bounds of ln 2 in units of 2^-k. -/
def ln2Bounds (k : Nat) : Nat × Nat := ln2Sum k (k + 1) 1 (0, 0)

/-- Bounds of atanh(a/b) = z + z³/3 + ..., z = a/b at most 1/3, in units of 2^-k; `tl` and `th` bound the power of z. -/
def atanhSum (k a b : Nat) : Nat → Nat → Nat → Nat → Nat × Nat → Nat × Nat
  | 0, _, _, _, acc => (acc.1, acc.2 + 2)
  | fuel + 1, i, tl, th, acc =>
    atanhSum k a b fuel (i + 2) (tl * a * a / (b * b)) (th * a * a / (b * b) + 1)
      (acc.1 + tl / i, acc.2 + th / i + 1)

/-- Bounds of ln(a/b)/2 for 1 ≤ a/b < 2. -/
def halfLnBounds (k a b : Nat) : Nat × Nat :=
  atanhSum k (a - b) (a + b) (k / 2 + 4) 1 (2 ^ k * (a - b) / (a + b)) (2 ^ k * (a - b) / (a + b) + 1) (0, 0)

/-- Take the bounds that `f` gives at precision `k`, `2k`, ... until both fall between the same two units of
2^-`k` bits, `drop` k at a time; a value that never lies on a unit always ends this (log 16). -/
def refine (f : Nat → Nat × Nat) (keep : Nat) : Nat → Nat → Nat × Nat
  | 0, k => ((f k).1, k)
  | fuel + 1, k =>
    let lo := (f k).1
    let hi := (f k).2
    let cut := Nat.log2 lo + 1 - keep
    if lo / 2 ^ cut = hi / 2 ^ cut then (lo / 2 ^ cut, k - cut) else refine f keep fuel (2 * k)

/-- Bounds of 2^(f / 2^t), f below 2^t, in units of 2^-k. -/
def exp2Bounds (f t k : Nat) : Nat × Nat :=
  let l := ln2Bounds k
  expBounds k (l.1 * f / 2 ^ t) (l.2 * f / 2 ^ t + 1)

/-- 2^x for x = ± m · 2^e: exact for a whole x, else irrational. Beyond ±2^15 the answer is beyond every format. -/
def exp2Mag (neg : Bool) (m : Nat) (e : Int) (prec : Nat) : Nat × Int :=
  if m = 0 then (1, 0)
  else if 15 < (Nat.log2 m : Int) + e then (1, if neg then -2 ^ 16 else 2 ^ 16)
  else if 0 ≤ e ∨ m % 2 ^ (-e).toNat = 0 then
    let i : Int := if 0 ≤ e then m * 2 ^ e.toNat else m / 2 ^ (-e).toNat
    (1, if neg then -i else i)
  else
    let t := (-e).toNat
    let i : Int := m / 2 ^ t
    let f := m % 2 ^ t
    let i := if neg then -i - 1 else i
    let f := if neg then 2 ^ t - f else f
    let q := refine (exp2Bounds f t) prec 6 (256 + prec)
    ((2 * q.1 + 1), i - q.2 - 1)

/-- Bounds of |n + log2(a/b)|, 1 < a/b < 2, in units of 2^-k. -/
def log2Bounds (n : Int) (a b k : Nat) : Nat × Nat :=
  let l := ln2Bounds k
  let h := halfLnBounds k a b
  let lo := 2 * h.1 * 2 ^ k / l.2
  let hi := 2 * h.2 * 2 ^ k / l.1 + 1
  if 0 ≤ n then (n.toNat * 2 ^ k + lo, n.toNat * 2 ^ k + hi)
  else ((-n).toNat * 2 ^ k - hi, (-n).toNat * 2 ^ k - lo)

/-- log2(m · 2^e) for m > 0: its sign and magnitude. -/
def log2Val (m : Nat) (e : Int) (prec : Nat) : FVal :=
  let n : Int := Nat.log2 m + e
  if m = 2 ^ Nat.log2 m then .fin (decide (n < 0)) n.natAbs 0
  else
    let q := refine (log2Bounds n m (2 ^ Nat.log2 m)) prec 6 (256 + prec)
    .fin (decide (n < 0)) (2 * q.1 + 1) (-(q.2 : Int) - 1)

/-- Square bounds `s` times: bounds of y^(2^s), in units of 2^-k. -/
def squareBounds (k : Nat) : Nat → Nat × Nat → Nat × Nat
  | 0, b => b
  | s + 1, b => squareBounds k s (b.1 * b.1 / 2 ^ k, b.2 * b.2 / 2 ^ k + 1)

/-- Bounds of tanh(m · 2^e) for a moderate argument, in units of 2^-k: (E − 1)/(E + 1) with E = exp(2x). -/
def tanhBounds (m : Nat) (e : Int) (k : Nat) : Nat × Nat :=
  let s := ((Nat.log2 m : Int) + e + 3).toNat
  let x : Nat := if 0 ≤ e + 1 - s + k then m * 2 ^ (e + 1 - s + k).toNat else m / 2 ^ (-(e + 1 - s + k)).toNat
  let b := squareBounds k s (expBounds k x (x + 1))
  ((b.1 - 2 ^ k) * 2 ^ k / (b.1 + 2 ^ k), (b.2 - 2 ^ k) * 2 ^ k / (b.2 + 2 ^ k) + 1)

/-- tanh(m · 2^e) for m > 0. Below 2^-60 it lies just below its argument, above 2^9 just below 1. -/
def tanhMag (m : Nat) (e : Int) (prec : Nat) : Nat × Int :=
  let top : Int := Nat.log2 m + e
  if top < -60 then (m * 2 ^ 200 - 1, e - 200)
  else if 9 < top then (2 ^ 400 - 1, -400)
  else
    let q := refine (tanhBounds m e) prec 6 (2048 + prec)
    (2 * q.1 + 1, -(q.2 : Int) - 1)

/-- Bits kept below the last place of any format by the functions above. -/
def specialPrec : Nat := 96

/-- VRCP (R152). -/
def FVal.rcp : FVal → FVal
  | .nan => .nan
  | .inf s => .fin s 0 0
  | .fin s m e => if m = 0 then .inf s else let q := recipMag m e specialPrec; .fin s q.1 q.2

/-- VRSQ (R152). -/
def FVal.rsq : FVal → FVal
  | .nan => .nan
  | .inf s => if s then .nan else .fin false 0 0
  | .fin s m e =>
    if m = 0 then .inf s else if s then .nan else let q := rsqrtMag m e specialPrec; .fin false q.1 q.2

/-- VSQRT (R152). -/
def FVal.sqrt : FVal → FVal
  | .nan => .nan
  | .inf s => if s then .nan else .inf false
  | .fin s m e => if m = 0 then .fin s 0 0 else if s then .nan else let q := sqrtMag m e specialPrec; .fin false q.1 q.2

/-- VEXP2 (R152). -/
def FVal.exp2 : FVal → FVal
  | .nan => .nan
  | .inf s => if s then .fin false 0 0 else .inf false
  | .fin s m e => let q := exp2Mag s m e specialPrec; .fin false q.1 q.2

/-- VLOG2 (R152). -/
def FVal.log2 : FVal → FVal
  | .nan => .nan
  | .inf s => if s then .nan else .inf false
  | .fin s m e => if m = 0 then .inf true else if s then .nan else log2Val m e specialPrec

/-- VTANH (R152). -/
def FVal.tanh : FVal → FVal
  | .nan => .nan
  | .inf s => .fin s 1 0
  | .fin s m e => if m = 0 then .fin s 0 0 else let q := tanhMag m e specialPrec; .fin s q.1 q.2

end Sys2Proof.Machine
end

