-- ==== Sys2Proof/Machine/Patterns.lean ====
section
/-! DEFINITION. Machine/Patterns.lean: the fields of engine records and their pattern blocks (R91 to R95), the scratchpad banks that a
pattern names (R214). -/
namespace Sys2Proof.Machine

/-! ## Fields (R91) -/

/-- OP. -/
def Record.op (r : Record) : Nat := r.f[0].toNat % 256
/-- ENGINE. -/
def Record.engine (r : Record) : Nat := r.f[0].toNat / 2 ^ 8 % 16
/-- TAG. -/
def Record.tag (r : Record) : Nat := r.f[0].toNat / 2 ^ 12 % 64
/-- FLAGS. -/
def Record.flags (r : Record) : Nat := r.f[1].toNat
/-- BEN. -/
def Record.ben (r : Record) : Bool := r.f[2].getLsbD 31
/-- BAR[20:0]. -/
def Record.bar (r : Record) : Nat := r.f[2].toNat % 2 ^ 21
/-- AUX. -/
def Record.aux (r : Record) : Nat := r.f[3].toNat
/-- OPF k. -/
def Record.opf (r : Record) (k : Fin 8) : Nat := (r.f[8 + k.val]'(by omega)).toNat
/-- Pattern k, if present. -/
def Record.pattern (r : Record) (k : Fin 4) : Option Pattern := r.pat[k]

/-- Bits [hi:lo] of a number. -/
def bits (n hi lo : Nat) : Nat := n / 2 ^ lo % 2 ^ (hi + 1 - lo)

/-- The engines of an OP (R92). -/
def opEngine (op engine : Nat) : Bool :=
  if 1 ≤ op ∧ op ≤ 6 then decide (engine ≤ 1)
  else if 0x10 ≤ op ∧ op ≤ 0x12 then decide (engine = 2)
  else decide (op = 0x20) && decide (engine = 3)

/-- CTRL and BAR break R91 or R92: cause 4 (R95), an unused OP as well, which R74 names of kind 0 (log 66). -/
def badCtrl (f : Vector (BitVec 32) 16) (scratch : Nat) : Bool :=
  let ctrl := f[0].toNat
  let bar : Nat := f[2].toNat
  let off : Nat := bar % 2 ^ 21
  decide (ctrl / 2 ^ 18 ≠ 0) || !opEngine (ctrl % 256) (bits ctrl 11 8) || decide (bits bar 30 21 ≠ 0) ||
  (if bar / 2 ^ 31 = 1 then decide (off % 16 ≠ 0) || decide (scratch < off + 16) else decide (off ≠ 0))

/-! ## Pattern blocks (R93, R94) -/

/-- The pattern that 64 bytes hold with the loop registers `lp`; none where they break R93 or name a register of 2^31 or
more (R95). `alloc` is the base of the task's allocation. -/
def parsePattern (bs : List Byte) (lp : Vector (BitVec 32) 16) (alloc : Nat) : Option Pattern :=
  let num (off n : Nat) : Nat := ofBytes ((bs.drop off).take n)
  let reg (x : Nat) : Nat := lp[(BitVec.ofNat 4 x).toFin].toNat
  let boff := num 8 4
  let bscale : BitVec 32 := BitVec.ofNat 32 (num 12 4)
  let ext : Vector (BitVec 32) 4 := Vector.ofFn fun i => BitVec.ofNat 32 (num (16 + 4 * i.val) 4)
  let named (x : Nat) : Bool := decide (2 ^ 31 ≤ x)
  let badReg (x : Nat) : Bool := decide (bits x 30 4 ≠ 0) || decide (2 ^ 31 ≤ reg x)
  let bad := (if named boff then badReg boff else decide (boff ≠ 0) || decide (bscale ≠ 0)) ||
    ext.toList.any fun x => named x.toNat && badReg x.toNat
  if bad then none
  else
    let base0 : Word := BitVec.ofNat 64 (num 0 8)
    let base1 := if named boff then base0 + BitVec.ofNat 64 (reg boff) * bscale.signExtend 64 else base0
    some
      { base := if topByte base0 = 2 then base1 + BitVec.ofNat 64 alloc else base1
        own := decide (topByte base0 = 2)
        ext := ext
        count := ext.map fun x => if named x.toNat then reg x.toNat else x.toNat
        stride := Vector.ofFn fun i => BitVec.ofNat 64 (num (32 + 8 * i.val) 8) }

/-- Elements of a pattern. -/
def Pattern.size (p : Pattern) : Nat := p.count[0] * p.count[1] * p.count[2] * p.count[3]

/-- The address of the k-th element in visit order, i0 innermost (R94). -/
def Pattern.elem (p : Pattern) (k : Nat) : Word :=
  let i0 := k % p.count[0]
  let i1 := k / p.count[0] % p.count[1]
  let i2 := k / (p.count[0] * p.count[1]) % p.count[2]
  let i3 := k / (p.count[0] * p.count[1] * p.count[2])
  p.base + BitVec.ofNat 64 i0 * p.stride[0] + BitVec.ofNat 64 i1 * p.stride[1] + BitVec.ofNat 64 i2 * p.stride[2] +
    BitVec.ofNat 64 i3 * p.stride[3]

/-! ## Banks of the scratchpad (R214) -/

/-- The banks of `n` bytes of scratchpad from core offset `off` on: 64 KiB each, the offsets with equal bits [20:16] (R214). -/
def bankBits (off n : Nat) : BitVec 32 :=
  (List.range ((off + n - 1) / 2 ^ 16 + 1 - off / 2 ^ 16)).foldl (fun m i =>
    m ||| BitVec.ofNat 32 (2 ^ ((off / 2 ^ 16 + i) % 32))) 0

/-- The banks in which elements of `n` bytes of a pattern of the own scratchpad lie. -/
def Pattern.banks (p : Pattern) (n : Nat) : BitVec 32 :=
  if p.own then
    (List.range p.size).foldl (fun m i => m ||| bankBits ((p.elem i).toNat % 2 ^ 56) n) 0
  else 0

end Sys2Proof.Machine
end

