-- ==== Sys2Proof/Machine/LaneOps.lean ====
section
/-! DEFINITION. Machine/LaneOps.lean: the lane slice (R130 to R143): landings, the steering queue from the lane end, stop
points, replay, the order of the checks, and what a lane word is given and may do. -/
namespace Sys2Proof.Machine

/-! ## Landings (R134, R135) -/

/-- A row with the enabled bits replaced. -/
def mergeRow (old bits en : Row) : Row := (old &&& ~~~ en) ||| (bits &&& en)

/-- A mask with the enabled bits replaced. -/
def mergeMask (old bits en : LaneMask) : LaneMask := (old &&& ~~~ en) ||| (bits &&& en)

/-- Stored cells clear the mark of every poisoned scratchpad word of which they write all 8 bytes (R312). -/
def clearPoisonCells (s : State) (c : Fin 256) (cells : List Host.Cell) : State :=
  { s with poison := s.poison.filter fun p =>
      match p with
      | .scratch c' w => !(decide (c' = c) && (List.range 8).all fun i => cells.any fun x => decide (x.1 = w * 8 + i))
      | _ => true }

/-- A lane write lands, all its bytes in one step (log 68). -/
def landWrite (s : State) (c : Fin 256) (d : LaneDest) : State :=
  let k := s.core c
  let l := k.lane
  match d with
  | .row r bits en => s.setCore c { k with lane := { l with rows := l.rows.set r (mergeRow l.rows[r] bits en) } }
  | .mask m bits en => s.setCore c { k with lane := { l with masks := l.masks.set m (mergeMask l.masks[m] bits en) } }
  | .store cells _ => clearPoisonCells (s.setCore c { k with scratch := memCells k.scratch 0 cells }) c cells

/-- Every write that lands by lane clk `clk` lands, in the order of landing and, within one clk, of issue (R135). -/
def landDue (s : State) (c : Fin 256) (clk : Nat) : State :=
  let l := (s.core c).lane
  let due := l.flight.filter fun x => decide (x.lands ≤ clk)
  let s := s.setCore c { s.core c with lane := { l with flight := l.flight.filter fun x => !decide (x.lands ≤ clk) } }
  due.foldl (fun s x => landWrite s c x.dest) s

/-- Put a write into the flight list, before the first that lands later. -/
def insertWrite (x : LaneWrite) : List LaneWrite → List LaneWrite
  | [] => [x]
  | y :: ys => if x.lands < y.lands then x :: y :: ys else y :: insertWrite x ys

/-- A copy channel uses banks of the scratchpad in the lane clk that is passing (R135, R214). -/
def useBanks (s : State) (c : Fin 256) (off n : Nat) : State :=
  let k := s.core c
  let clk := k.lane.clk + 1
  let before := if k.banksAt = clk then k.banks else 0
  s.setCore c { k with banks := before ||| bankBits off n, banksAt := clk }

/-- The banks that the copy channels have used in the clk that ends at `clk`. -/
def copyBanks (k : Core) (clk : Nat) : BitVec 32 := if k.banksAt = clk then k.banks else 0

/-- The banks that a gather in flight may use in any clk, and those of the A elements that the feeder reads for an MMA or an MTHR in
progress (R135, R245). -/
def readBanks (k : Core) : BitVec 32 :=
  let feeds (a : Active) : Bool := decide (a.r.op = 0x11) || decide (a.r.op = 0x12)
  let feeder := ((k.engines[2]).active.filter feeds).foldl (fun m a => m ||| match a.r.pattern 0 with
    | some p => p.banks 1
    | none => 0) 0
  k.lane.gathers.foldl (fun m g => m ||| g.banks) feeder

/-- The banks of stored cells. -/
def cellBanks (cells : List Host.Cell) : BitVec 32 := cells.foldl (fun m x => m ||| bankBits x.1 1) 0

/-- The clk to which a store that would land at `clk` is put off (R135): to a later one where a copy channel used one of its banks, to
the same or a later one where a gather or the feeder may use one, and never past its latest clk. -/
def putOff (s : State) (k : Core) (clk : Nat) (cells : List Host.Cell) (latest : Nat) : Nat :=
  let more := Config.choose s.ticks 0 % (latest - clk + 1)
  if latest ≤ clk then clk
  else if copyBanks k clk &&& cellBanks cells ≠ 0 then clk + max 1 more
  else if readBanks k &&& cellBanks cells ≠ 0 then clk + more
  else clk

/-- The writes in flight with the stores that are due put off, each no earlier than the stores before it (R135). -/
def delayStores (s : State) (k : Core) (clk : Nat) : List LaneWrite :=
  if k.lane.flight.all fun x => decide (clk < x.lands) then k.lane.flight
  else (k.lane.flight.foldl (fun (acc : Nat × List LaneWrite) x => match x.dest with
    | .store cells latest =>
      let at_ := max acc.1 (if x.lands ≤ clk then putOff s k clk cells latest else x.lands)
      (at_, insertWrite { x with lands := at_ } acc.2)
    | _ => (acc.1, insertWrite x acc.2)) (0, [])).2

/-- One lane clk passes (R135). -/
def tickLane (s : State) (c : Fin 256) : State :=
  let k := s.core c
  let clk := k.lane.clk + 1
  landDue (s.setCore c { k with lane := { k.lane with clk := clk, flight := delayStores s k clk } }) c clk

/-- No lane write is in flight (R135, R136). -/
def LaneSlice.quiet (l : LaneSlice) : Bool := l.flight.isEmpty && l.gathers.isEmpty

/-- The oldest gather of row `r` lands: the row is written whole and becomes full in the same clk (R134). -/
def landGather (s : State) (c : Fin 256) (r : Fin 256) : State :=
  let k := s.core c
  let l := k.lane
  match l.gathers.find? fun g => decide (g.row = r) with
  | none => s
  | some g =>
    s.setCore c { k with lane := { l with
      rows := l.rows.set r (mergeRow l.rows[r] g.bits g.en)
      full := l.full ||| BitVec.ofNat 256 (2 ^ r.val)
      gathers := l.gathers.erase g } }

/-! ## The queue from the lane end (R124, R130, R131, R137) -/

/-- A queue entry is a store or atomic to the own scratchpad. -/
def scratchStore (e : Entry) : Bool :=
  match e.kind with
  | .store _ _ _ _ _ p | .amo _ _ _ _ p | .cas _ _ _ _ p => match p with
    | .scratch _ => true
    | _ => false
  | _ => false

/-- Every lead scratchpad store among the entries numbered below `n` has been performed (R124). -/
def storesDone (k : Core) (n : Nat) : Bool := !(k.ls.sq.any fun e => decide (e.id < n) && scratchStore e)

/-- The head of the steering queue, if it is poppable. -/
def steerHead (k : Core) : Option SteerKind :=
  match k.steer with
  | e :: _ => if storesDone k e.after then some e.kind else none
  | [] => none

/-- Take markers at the head at a stop point, each recording the restart point (R137). -/
def takeMarkersFrom (k : Core) : List SteerEntry → Core
  | [] => { k with steer := [] }
  | e :: es =>
    if e.kind = .marker && storesDone k e.after then
      takeMarkersFrom { k with lane := { k.lane with
        restart := .point k.lane.pc k.lane.levels k.ls.forkId k.lane.popDue } } es
    else { k with steer := e :: es }

/-- Take the markers at the head (R137). -/
def takeMarkers (k : Core) : Core := takeMarkersFrom k k.steer

/-- A VEND takes every marker still queued; each records "stream ended" (R305). -/
def takeAllMarkers (k : Core) : Core :=
  if k.steer.any fun e => decide (e.kind = .marker) then
    { k with steer := k.steer.filter fun e => !decide (e.kind = .marker)
             lane := { k.lane with restart := .ended k.ls.forkId true true } }
  else k

/-- Which entry a word pops. -/
inductive Need where
  | mask | count | flag | value
  deriving DecidableEq, Repr

/-- The entry is of the kind needed. -/
def Need.fits : Need → SteerKind → Bool
  | .mask, .mask _ => true
  | .count, .count _ => true
  | .flag, .flag _ => true
  | .value, .value _ => true
  | _, _ => false

/-- What a pop or peek meets (R131). -/
inductive Met where
  | entry (x : SteerKind)
  | stall
  | fault (code : BitVec 12)
  deriving DecidableEq, Repr

/-- Pop or peek under R131, markers having been taken where the word is at a stop point. -/
def meet (k : Core) (n : Need) : Met :=
  match steerHead k with
  | none => .stall
  | some .marker => .fault 43
  | some x => if n.fits x then .entry x else .fault 42

/-! ## Replay (R138) -/

/-- The next word's address and the replays still active, after the word before `pc` (R138). -/
def cascade (pc : Word) : List Replay → Word × List Replay × Bool
  | [] => (pc, [], false)
  | lv :: rest =>
    if pc = lv.first + BitVec.ofNat 64 (8 * lv.len) then
      if lv.flagged then (lv.first, lv :: rest, true)
      else if lv.pass.toNat + 1 < lv.count.toNat then (lv.first, { lv with pass := lv.pass + 1 } :: rest, false)
      else cascade pc rest
    else (pc, lv :: rest, false)

/-- The lane slice moves on to address `pc`. -/
def goTo (l : LaneSlice) (pc : Word) (levels : List Replay) : LaneSlice :=
  let r := cascade pc levels
  { l with pc := r.1, levels := r.2.1, popDue := r.2.2, counted := false, starved := false }

/-- The pop of a FLAG before a further pass (R138): 1 runs it, 0 leaves the body. It is not a word, and the word that is reached next
is reached in the same clk (R131). -/
def flagPass (k : Core) (go : Bool) : Core :=
  let l := { k.lane with ticked := true }
  let k := { k with steer := k.steer.tail }
  match l.levels with
  | lv :: rest =>
    if go then
      { k with lane := { l with levels := { lv with pass := lv.pass + 1 } :: rest, popDue := false, counted := false,
                                starved := false } }
    else { k with lane := goTo l (lv.first + BitVec.ofNat 64 (8 * lv.len)) rest }
  | [] => { k with lane := { l with popDue := false } }

/-! ## What a word is given and may do (R143) -/

/-- What a lane word acts on at its issue. -/
structure LaneCtx where
  s : State
  c : Fin 256
  k : Core
  t : Task
  w : LaneWord
  steer : Option SteerKind

/-- Where the lane slice goes after a word. -/
inductive LaneFlow where
  | next
  | replay (flagged : Bool) (count : BitVec 32)
  | skip
  | vend
  deriving DecidableEq, Repr

/-- The effect of a word: destinations with their latencies, a gather, a pointer, where the stream goes. -/
structure LaneEff where
  writes : List (Nat × LaneDest)
  gather : Option Gather
  ptr    : Option (Fin 8 × BitVec 32)
  flow   : LaneFlow
  deriving DecidableEq, Repr

/-- A word that has one write. -/
def LaneEff.one (lat : Nat) (d : LaneDest) : LaneEff := ⟨[(lat, d)], none, none, .next⟩

/-- A word ends in its effect, in a cause, or in a poisoned scratchpad word (R312). -/
inductive LaneRes where
  | eff (e : LaneEff)
  | fault (code : BitVec 12)
  | poison (w : Nat)
  deriving DecidableEq, Repr

/-- The mask that governs a word's lanes (R87, R143). -/
def LaneCtx.maskBits (x : LaneCtx) : LaneMask :=
  if x.w.men then
    let m := x.k.lane.masks[x.w.mask.toFin]
    if x.w.minv then ~~~ m else m
  else BitVec.allOnes 256

/-- act(l) (R143). -/
def LaneCtx.act (x : LaneCtx) (l : Nat) : Bool := x.maskBits.getLsbD l

/-- The element type code. -/
def LaneCtx.ty (x : LaneCtx) : Nat := x.w.ty.toNat
/-- Bits of a lane. -/
def LaneCtx.width (x : LaneCtx) : Nat := typeWidth x.ty
/-- Lanes of a row. -/
def LaneCtx.lanes (x : LaneCtx) : Nat := laneCount x.ty

/-- A row of the slice. -/
def LaneCtx.row (x : LaneCtx) (r : BitVec 8) : Nat := (x.k.lane.rows[r.toFin]).toNat

/-- Lane `l` of width `w` of a row (R132). -/
def laneOfRow (r w l : Nat) : Nat := r >>> (w * l) % 2 ^ w

/-- Lanes packed into a row, lane 0 lowest (R132). -/
def packLanes (w : Nat) : List Nat → Nat
  | [] => 0
  | v :: vs => v % 2 ^ w + 2 ^ w * packLanes w vs

/-- Enabled bits: whole lanes of width `w` where `p` holds. -/
def laneEnable (w n : Nat) (p : Nat → Bool) : Row :=
  BitVec.ofNat 2048 (packLanes w ((List.range n).map fun l => if p l then 2 ^ w - 1 else 0))

/-- A write of lanes of width `w` to the destination row, lane `l` being written where `p l` (R143). -/
def LaneCtx.writeLanes (x : LaneCtx) (w n : Nat) (vals : List Nat) (p : Nat → Bool) : LaneDest :=
  .row x.w.dst.toFin (BitVec.ofNat 2048 (packLanes w vals)) (laneEnable w n p)

/-- A write of the word's own lanes under its mask, lane `l` taking `f l`. -/
def LaneCtx.lanewise (x : LaneCtx) (lat : Nat) (f : Nat → Nat) : LaneRes :=
  .eff (.one lat (x.writeLanes x.width x.lanes ((List.range x.lanes).map f) x.act))

/-- The pass indices of the active replays, innermost first (R145). -/
def LaneCtx.passes (x : LaneCtx) : List (BitVec 32) := x.k.lane.levels.map (·.pass)

/-- The rounding mode of lane input `j` (R87, R145). -/
def LaneCtx.rnd (x : LaneCtx) (j : Nat) : Rnd :=
  match x.w.rnd.toNat with
  | 0 => .rne
  | 1 => .rtz
  | 2 => .rto
  | _ => .rst (rstLane x.w.c.toNat j x.k.lane.pc x.passes)

/-! ## One word (R136, R139 to R141) -/

/-- The lane slice may move: a stream is active, has not ended, and is not stopped. -/
def laneActive (k : Core) : Bool :=
  k.ls.lane && !k.ls.vended && !k.lane.stopped &&
  (match k.run with
   | .running | .trapped | .stopping => true
   | _ => false)

/-- The slice has a word to issue and nothing holds it: it waits for no entry of its queue, for no store before one (R124, R131), and not
for its writes to land before it raises 44 (R136). Every clk that passes then passes with a word of its own: no other delay changes a
result. -/
def laneIssues (k : Core) : Bool :=
  laneActive k && !k.lane.counted && !k.lane.starved && !k.lane.overrun && storesDone k k.lane.after

/-- The slice stops at its next stop point: the lead slice has stopped (R297) or a capture is in progress (R310). -/
def laneHeld (k : Core) : Bool :=
  decide (k.run = .trapped) || (decide (k.run = .stopping) && decide (k.stop = some .capture))

/-- A fault of the lane slice, precise at its word (R140, R297). -/
def laneFault (s : State) (c : Fin 256) (code : BitVec 12) (tval : Word) : State :=
  let k := s.core c
  { s.setCore c { k with laneFault := some ⟨code, k.lane.pc, tval⟩
                         lane := { k.lane with stopped := true, starved := false, overrun := false } } with
    stalled := false }

/-- A poisoned scratchpad word is consumed at an active element (R312): LS_TVAL is its own-scratchpad address. -/
def lanePoison (s : State) (c : Fin 256) (w : Nat) : State :=
  let s := logError s c 361
  let k := s.core c
  { s.setCore c { k with poisoned := some ⟨361, k.lane.pc, 0x0200000000000000 + BitVec.ofNat 64 (w * 8)⟩
                         lane := { k.lane with stopped := true, starved := false } } with stalled := false }

/-- The slice stalls: nothing changes but the clk, and that it is known (log 1). -/
def laneStall (s : State) (c : Fin 256) : State :=
  let k := s.core c
  (s.setCore c { k with lane := { k.lane with starved := k.steer.isEmpty } }).waiting

/-- The word at the lane fetch address is a stop point at this instant (R136). -/
def stopPoint (l : LaneSlice) (w : LaneWord) : Bool :=
  if l.counted then decide (l.spacing = 0) else w.stop && l.quiet

/-- Cause 44: the slice issues nothing further until its writes have landed, clk after clk, and then raises it at the word that would
have been the 65th (R136). -/
def raiseSpacing (s : State) (c : Fin 256) (tval : Word) : State :=
  let k := s.core c
  let s := s.setCore c { k with lane := { k.lane with overrun := true } }
  if k.lane.gathers.isEmpty then
    laneFault (landDue s c (k.lane.clk + (k.lane.flight.map (·.lands)).foldl max 0)) c 44 tval
  else (tickLane s c).waiting

/-- The clk in which the next word is reached: the landings of it are made, unless the pop of a FLAG has begun it already (R131,
R135). -/
def reachClk (s : State) (c : Fin 256) : State :=
  let k := s.core c
  if k.lane.ticked then s.setCore c { k with lane := { k.lane with ticked := false } } else tickLane s c

/-- What happens before the word's own checks 3 to 7: landings, a stop, markers, the FLAG of a further pass, the spacing
counter. `go` continues with the state in which the word has been counted. -/
def laneReach (s : State) (c : Fin 256) (w : LaneWord) (tval : Word) (go : State → State) : State :=
  if !laneActive (s.core c) || !storesDone (s.core c) (s.core c).lane.after then s.waiting
  else if (s.core c).lane.overrun then raiseSpacing s c tval
  else
    let s := reachClk s c
    let k := s.core c
    let here := if k.lane.popDue then w.stop && k.lane.quiet else stopPoint k.lane w
    if here && laneHeld k then { s.setCore c { k with lane := { k.lane with stopped := true } } with stalled := false }
    else
      let s := if here then s.setCore c (takeMarkers k) else s
      let k := s.core c
      if k.lane.popDue then
        match meet k .flag with
        | .stall => laneStall s c
        | .fault code => laneFault s c code tval
        | .entry x => { s.setCore c (flagPass k (decide (x = .flag true))) with stalled := false }
      else if k.lane.counted then go s
      else if !here && decide (64 ≤ k.lane.spacing) then raiseSpacing s c tval
      else
        go (s.setCore c { k with lane := { k.lane with counted := true
                                                       spacing := if here then 0 else k.lane.spacing + 1 } })

/-- FIRST and LAST against the innermost active replay (R139): the word issues, is suppressed, or peeks. -/
def suppressed (k : Core) (w : LaneWord) : Met ⊕ Bool :=
  match k.lane.levels with
  | [] => .inr false
  | lv :: _ =>
    if w.first && decide (lv.pass ≠ 0) then .inr true
    else if !w.last then .inr false
    else if lv.flagged then .inl (meet k .flag)
    else .inr (decide (lv.pass.toNat + 1 ≠ lv.count.toNat))

/-- The entry that a word pops (R162, R163). -/
def laneNeed (op : Nat) (w : LaneWord) : Option Need :=
  match op with
  | 0x48 => if w.fn.getLsbD 0 then some .mask else some .value
  | 0x49 => some .count
  | 0x4A => some .flag
  | _ => none

/-- The source rows that carry a set demand bit, a before b before c (R86, R140, R168). -/
def demanded (op : Nat) (w : LaneWord) : List (BitVec 8) :=
  (if w.dem.getLsbD 2 then [w.a] else []) ++
  (if w.dem.getLsbD 1 then (if op = 0x53 ∧ laneCount w.ty.toNat = 256 then [w.b, w.b + 1] else [w.b]) else []) ++
  (if w.dem.getLsbD 0 then [w.c] else [])

/-- The word writes a row, whose emptiness is checked (R134, R143). -/
def writesRow (op : Nat) (w : LaneWord) : Bool :=
  match laneShape op w with
  | some sh => decide (sh.dst = .row)
  | none => false

/-- The body of a replay of `len` words after `pc` breaks R138: a fifth level, the end of an outer body, a VEND inside. -/
def nestBad (levels : List Replay) (pc : Word) (len : Nat) (ends : Nat → Bool) : Bool :=
  decide (4 ≤ levels.length) ||
  (levels.any fun lv => decide (lv.first.toNat + 8 * lv.len < pc.toNat + 8 + 8 * len)) ||
  (List.range len).any fun i => ends (pc.toNat + 8 + 8 * i)

/-- A word of the replay buffer (R70, R138). -/
def LaneSlice.held (l : LaneSlice) (pc : Word) : Option Word := (l.body.find? fun x => decide (x.1 = pc)).map Prod.snd

/-- `n` bytes of a word at an address that a fetch buffer holds (R69, R70). -/
def buffered (buf : List FetchLine) (va n : Nat) : Option Nat :=
  (buf.find? fun x => decide (x.line = va / 128) && x.words.getLsbD (va % 128 / 8)).map fun x =>
    x.data.toNat / 2 ^ (8 * (va % 128)) % 2 ^ (8 * n)

/-- The word at a lane address is a VEND (R138); what cannot be fetched is not (reading ahead never faults, R69). -/
def vendAt (s : State) (l : LaneSlice) (v : Fin 16) (va : Nat) : Bool :=
  match l.held (BitVec.ofNat 64 va) with
  | some w => decide (w.toNat / 2 ^ 56 % 128 = 0x5A)
  | none =>
    match buffered l.buf va 8 with
    | some w => decide (w / 2 ^ 56 % 128 = 0x5A)
    | none => match translate s v va .fetch with
      | .ok q => decide ((ofBytes (valeRead s v q.pa 8)) / 2 ^ 56 % 128 = 0x5A)
      | .error _ => false

/-- Apply the effect of an issued word. -/
def laneApply (s : State) (c : Fin 256) (w : LaneWord) (pops : Bool) (e : LaneEff) : State :=
  let k := s.core c
  let l := k.lane
  let steer := if pops then k.steer.tail else k.steer
  let flight := e.writes.foldl (fun fs x => insertWrite ⟨l.clk + x.1, x.2⟩ fs) l.flight
  let ptrs := match e.ptr with
    | some (p, v) => l.ptrs.set p v
    | none => l.ptrs
  let full := match e.gather with
    | some g => l.full &&& ~~~ BitVec.ofNat 256 (2 ^ g.row.val)
    | none => l.full
  let l := { l with flight := flight, ptrs := ptrs, full := full, gathers := l.gathers ++ e.gather.toList }
  let len := w.c.toNat
  let k := { k with steer := steer }
  match e.flow with
  | .next => { s.setCore c { k with lane := goTo l (l.pc + 8) l.levels } with stalled := false }
  | .replay fl n =>
    { s.setCore c { k with lane := { l with
        levels := ⟨l.pc + 8, len, fl, 0, n⟩ :: l.levels, pc := l.pc + 8, counted := false, starved := false
        body := if l.levels.isEmpty then [] else l.body } } with
      stalled := false }
  | .skip => { s.setCore c { k with lane := goTo l (l.pc + 8 + BitVec.ofNat 64 (8 * len)) l.levels } with stalled := false }
  | .vend =>
    let k := takeAllMarkers { k with lane := { l with counted := false, starved := false }
                                     ls := { k.ls with vended := true } }
    { s.setCore c k with stalled := false }

/-- The words of the body of a replay that have to be fetched before it can be judged: neither the replay buffer nor a fetch buffer
holds them (R70, R138). -/
def bodyWords (l : LaneSlice) (op : Nat) (w : LaneWord) : List Nat :=
  if op = 0x49 ∨ op = 0x4A then
    ((List.range w.c.toNat).map fun i => l.pc.toNat + 8 + 8 * i).filter fun va =>
      (l.held (BitVec.ofNat 64 va)).isNone && (buffered l.buf va 8).isNone
  else []

/-- One of them waits for a DRAM bank that a copy channel holds (R224). -/
def bodyHeld (s : State) (c : Fin 256) (v : Fin 16) (op : Nat) (w : LaneWord) : Bool :=
  (bodyWords (s.core c).lane op w).any fun va => vaHeld s v none va .fetch

/-- The walks of their fetches (R206, R269). -/
def bodyWalked (s : State) (c : Fin 256) (v : Fin 16) (op : Nat) (w : LaneWord) : State :=
  (bodyWords (s.core c).lane op w).foldl (fun s va => noteWalk s v va) s

/-- Check 3 of R140: cause 45. -/
def nestFault (s : State) (c : Fin 256) (t : Task) (op : Nat) (w : LaneWord) : Bool :=
  let l := (s.core c).lane
  (decide (op = 0x49) || decide (op = 0x4A)) && nestBad l.levels l.pc w.c.toNat (vendAt s l t.vale)

/-- Checks 3 to 7 of R140 and the issue of a word that has been reached, encoding and all; `peek` is the cause that the word's peek
raises. -/
def laneRun (s : State) (c : Fin 256) (t : Task) (op : Nat) (w : LaneWord) (tval : Word) (peek : Option (BitVec 12))
    (f : LaneCtx → LaneRes) : State :=
  let k := s.core c
  if nestFault s c t op w then laneFault s c 45 tval
  else
    match (match laneNeed op w with
      | some n => some (meet k n)
      | none => none) with
    | some .stall => laneStall s c
    | met =>
      if (demanded op w).any fun r => !k.lane.full.getLsbD r.toNat then laneFault s c 40 tval
      else if writesRow op w && !k.lane.full.getLsbD w.dst.toNat then laneFault s c 41 tval
      else
        match peek, met with
        | some code, _ => laneFault s c code tval
        | none, some (.fault code) => laneFault s c code tval
        | none, _ =>
          let steer := match met with
            | some (.entry x) => some x
            | _ => none
          match f { s := s, c := c, k := k, t := t, w := w, steer := steer } with
          | .fault code => laneFault s c code tval
          | .poison p => lanePoison s c p
          | .eff e => laneApply s c w steer.isSome e

/-- A word that has been reached issues, is suppressed, or stalls (R139, R140); the words of a body are fetched first. A peek that stalls
or faults leaves the word's other checks in their places. -/
def laneIssue (s : State) (c : Fin 256) (t : Task) (op : Nat) (w : LaneWord) (tval : Word) (f : LaneCtx → LaneRes) :
    State :=
  let k := s.core c
  let skipWord := { s.setCore c { k with lane := goTo k.lane (k.lane.pc + 8) k.lane.levels } with stalled := false }
  let look (go : State → State) : State :=
    if bodyHeld s c t.vale op w then s.waiting else go (bodyWalked s c t.vale op w)
  let run := look fun s => laneRun s c t op w tval none f
  if op = 0x5A then run
  else
    match suppressed k w with
    | .inr true => skipWord
    | .inr false => run
    | .inl .stall => look fun s => if nestFault s c t op w then laneFault s c 45 tval else laneStall s c
    | .inl (.fault code) => look fun s => laneRun s c t op w tval (some code) f
    | .inl (.entry x) => if x = .flag false then run else skipWord

/-- The lane word of an instruction as LS_TVAL holds it (R75). -/
def laneTval (i : Instr) : Word :=
  match laneOf i with
  | some (op, w) => laneWordBits op w
  | none => 0

/-- A lane word acts on the lane slice in turn. -/
def laneStep (i : Instr) (f : LaneCtx → LaneRes) (s : State) : Out :=
  match s.turn, laneOf i with
  | .lane c, some (op, w) =>
    match (s.core c).task with
    | some t => .next (laneReach s c w (laneTval i) fun s => laneIssue s c t op w (laneTval i) f)
    | none => .next s.waiting
  | _, _ => .next s

end Sys2Proof.Machine
end

