-- ==== Sys2Proof/Machine/ScalarFloat.lean ====
section
/-! DEFINITION. Machine/ScalarFloat.lean: the scalar float instructions of the lead slice (R109 to R111). -/
namespace Sys2Proof.Machine

/-- The format that P names (R109). -/
def scalarFmt (p : Bool) : Fmt := if p then fmtF32 else fmtF64

/-- The mode that RND names (R87, R109); 3 is refused where it is decoded. -/
def scalarRnd (rnd : BitVec 2) : Rnd :=
  match rnd.toNat with
  | 0 => .rne
  | 1 => .rtz
  | _ => .rto

/-- The value of a scalar source: an f32 lies in bits [31:0] (R109). -/
def scalarVal (F : Fmt) (x : Word) : FVal := F.value (x.toNat % 2 ^ F.width)

/-- A result with every higher bit zero (R109, R111). -/
def scalarRes (F : Fmt) (mode : Rnd) (v : FVal) : Word := BitVec.ofNat 64 (F.round mode v)

/-- FCMP's condition (R110). -/
def fcmpVal (cond : BitVec 5) (a b : FVal) : Bool :=
  match cond.toNat with
  | 0 => FVal.eq a b
  | 1 => FVal.lt a b
  | 2 => FVal.lt a b || FVal.eq a b
  | _ => a.isNan || b.isNan

/-- A value as a whole number under a mode, saturated to [lo, hi]; NaN gives 0 (R111, R150). -/
def toIntSat (mode : Rnd) (lo hi : Int) : FVal → Int
  | .nan => 0
  | .inf neg => if neg then lo else hi
  | .fin neg m e =>
    let i := roundToInt mode neg m e
    if i < lo then lo else if hi < i then hi else i

/-- FCVT (R111). -/
def fcvtVal (conv : BitVec 3) (mode : Rnd) (a : Word) : Word :=
  match conv.toNat with
  | 0 => scalarRes fmtF32 mode (scalarVal fmtF64 a)
  | 1 => scalarRes fmtF64 mode (scalarVal fmtF32 a)
  | 2 => BitVec.ofInt 64 (toIntSat mode (-2 ^ 63) (2 ^ 63 - 1) (scalarVal fmtF64 a))
  | 3 => BitVec.ofInt 64 (toIntSat mode 0 (2 ^ 64 - 1) (scalarVal fmtF64 a))
  | 4 => scalarRes fmtF64 mode (FVal.ofInt a.toInt)
  | 5 => scalarRes fmtF64 mode (FVal.ofInt a.toNat)
  | 6 => scalarRes fmtF16 mode (scalarVal fmtF64 a)
  | _ => scalarRes fmtF64 mode (scalarVal fmtF16 a)

/-- FADD (R109). -/
def execFadd (d a b : BitVec 5) (rnd : BitVec 2) (p : Bool) (s : State) : Out :=
  valueStep (.fadd d a b rnd p) d [a, b] (fun v =>
    let F := scalarFmt p
    scalarRes F (scalarRnd rnd) (FVal.add (scalarVal F (src0 v)) (scalarVal F (src1 v)))) s

/-- FMUL (R109). -/
def execFmul (d a b : BitVec 5) (rnd : BitVec 2) (p : Bool) (s : State) : Out :=
  valueStep (.fmul d a b rnd p) d [a, b] (fun v =>
    let F := scalarFmt p
    scalarRes F (scalarRnd rnd) (FVal.mul (scalarVal F (src0 v)) (scalarVal F (src1 v)))) s

/-- FFMA: one rounding of the exact value (R109). -/
def execFfma (d a b c : BitVec 5) (rnd : BitVec 2) (p : Bool) (s : State) : Out :=
  valueStep (.ffma d a b c rnd p) d [a, b, c] (fun v =>
    let F := scalarFmt p
    scalarRes F (scalarRnd rnd)
      (FVal.add (FVal.mul (scalarVal F (src0 v)) (scalarVal F (src1 v))) (scalarVal F (src2 v)))) s

/-- FCMP (R110). -/
def execFcmp (d a b : BitVec 5) (cond : BitVec 5) (p : Bool) (s : State) : Out :=
  valueStep (.fcmp d a b cond p) d [a, b] (fun v =>
    let F := scalarFmt p
    boolWord (fcmpVal cond (scalarVal F (src0 v)) (scalarVal F (src1 v)))) s

/-- FCVT (R111). -/
def execFcvt (d a : BitVec 5) (conv : BitVec 3) (rnd : BitVec 2) (s : State) : Out :=
  valueStep (.fcvt d a conv rnd) d [a] (fun v => fcvtVal conv (scalarRnd rnd) (src0 v)) s

end Sys2Proof.Machine
end

