-- ==== Sys2Proof/Machine/LaneFloat.lean ====
section
/-! DEFINITION. Machine/LaneFloat.lean: the float, complex, conversion and special-function words (R144 to R152, R172). -/
namespace Sys2Proof.Machine

/-! ## Parts -/

/-- The format of a lane or of a part of a complex lane. -/
def LaneCtx.fmt (x : LaneCtx) : Fmt := fmtOf x.ty

/-- The type is complex (R88). -/
def isComplex (ty : Nat) : Bool := ty == 12 || ty == 13

/-- Parts of a lane: two for a complex type. -/
def partsOf (ty : Nat) : Nat := if isComplex ty then 2 else 1

/-- A part of a row as a value: part `j` of lane `l` is part `2l + j` (R132). -/
def LaneCtx.part (x : LaneCtx) (r : BitVec 8) (j : Nat) : FVal := x.fmt.value (laneOfRow (x.row r) x.fmt.width j)

/-- The bits of a part. -/
def LaneCtx.partBits (x : LaneCtx) (r : BitVec 8) (j : Nat) : Nat := laneOfRow (x.row r) x.fmt.width j

/-- A write of every part under the lane's mask, part `j` taking `f j`. -/
def LaneCtx.partwise (x : LaneCtx) (lat : Nat) (f : Nat → Nat) : LaneRes :=
  let n := x.lanes * partsOf x.ty
  .eff (.one lat (x.writeLanes x.fmt.width n ((List.range n).map f) fun j => x.act (j / partsOf x.ty)))

/-- Round a part's exact value (R143, R145). -/
def LaneCtx.round (x : LaneCtx) (j : Nat) (v : FVal) : Nat := x.fmt.round (x.rnd j) v

/-- The value a − b of parts. -/
def FVal.sub (a b : FVal) : FVal := FVal.add a b.neg

/-! ## Arithmetic (R146, R147) -/

/-- VADD (R146). -/
def execVadd (w : LaneWord) (s : State) : Out :=
  laneStep (.vadd w) (fun x => x.partwise 3 fun j => x.round j (FVal.add (x.part w.a j) (x.part w.b j))) s

/-- VSUB (R146). -/
def execVsub (w : LaneWord) (s : State) : Out :=
  laneStep (.vsub w) (fun x => x.partwise 3 fun j => x.round j (FVal.sub (x.part w.a j) (x.part w.b j))) s

/-- VMUL (R146). -/
def execVmul (w : LaneWord) (s : State) : Out :=
  laneStep (.vmul w) (fun x => x.partwise 4 fun j => x.round j (FVal.mul (x.part w.a j) (x.part w.b j))) s

/-- VFMA: one rounding of the exact value (R146). -/
def execVfma (w : LaneWord) (s : State) : Out :=
  laneStep (.vfma w) (fun x => x.partwise 4 fun j =>
    x.round j (FVal.add (FVal.mul (x.part w.a j) (x.part w.b j)) (x.part w.c j))) s

/-- VFMS: one rounding of the exact value (R146). -/
def execVfms (w : LaneWord) (s : State) : Out :=
  laneStep (.vfms w) (fun x => x.partwise 4 fun j =>
    x.round j (FVal.sub (FVal.mul (x.part w.a j) (x.part w.b j)) (x.part w.c j))) s

/-- VNEG: sign bits inverted (R146). -/
def execVneg (w : LaneWord) (s : State) : Out :=
  laneStep (.vneg w) (fun x => x.partwise 1 fun j => x.partBits w.a j ^^^ 2 ^ (x.fmt.width - 1)) s

/-- VABS: sign bits cleared (R146). -/
def execVabs (w : LaneWord) (s : State) : Out :=
  laneStep (.vabs w) (fun x => x.partwise 1 fun j => x.partBits w.a j % 2 ^ (x.fmt.width - 1)) s

/-- The result of a minimum or maximum, which is one of its operands (R147). -/
def LaneCtx.exact (x : LaneCtx) (v : FVal) : Nat := x.fmt.round .rne v

/-- VMIN (R147). -/
def execVmin (w : LaneWord) (s : State) : Out :=
  laneStep (.vmin w) (fun x => x.partwise 3 fun j => x.exact (FVal.min (x.part w.a j) (x.part w.b j))) s

/-- VMAX (R147). -/
def execVmax (w : LaneWord) (s : State) : Out :=
  laneStep (.vmax w) (fun x => x.partwise 3 fun j => x.exact (FVal.max (x.part w.a j) (x.part w.b j))) s

/-- VCMP's condition (R148). -/
def vcmpVal (cond : Nat) (a b : FVal) : Bool :=
  match cond with
  | 0 => FVal.eq a b
  | 1 => !FVal.eq a b
  | 2 => FVal.lt a b
  | 3 => FVal.lt a b || FVal.eq a b
  | _ => a.isNan || b.isNan

/-- A write of mask `w.dst`: bit `l` takes `f l` where the lane is active, bits from `n` on become zero (R133, R143). -/
def LaneCtx.writeMask (x : LaneCtx) (lat n : Nat) (f : Nat → Bool) : LaneRes :=
  let bits := BitVec.ofNat 256 (packLanes 1 ((List.range n).map fun l => (f l).toNat))
  let en := BitVec.ofNat 256 (packLanes 1 ((List.range 256).map fun l => (decide (n ≤ l) || x.act l).toNat))
  .eff (.one lat (.mask (x.w.dst.extractLsb' 0 3).toFin bits en))

/-- VCMP (R148). -/
def execVcmp (w : LaneWord) (s : State) : Out :=
  laneStep (.vcmp w) (fun x => x.writeMask 3 x.lanes fun l =>
    vcmpVal (w.fn.extractLsb' 0 3).toNat (x.part w.a l) (x.part w.b l)) s

/-! ## Conversion (R149, R150) -/

/-- An integer type is signed (R88). -/
def intSigned (ty : Nat) : Bool := decide (ty < 4)

/-- Lane bits read as a number of integer type `ty`. -/
def intVal (ty n : Nat) : Int := if intSigned ty then signedOf (typeWidth ty / 8) n else n

/-- The range of an integer type. -/
def intMin (ty : Nat) : Int := if intSigned ty then -2 ^ (typeWidth ty - 1) else 0
def intMax (ty : Nat) : Int := if intSigned ty then 2 ^ (typeWidth ty - 1) - 1 else 2 ^ typeWidth ty - 1

/-- A whole number as lane bits of an integer type: the nearest bound with SAT, else modulo 2^w (R150, R153). -/
def intBits (ty : Nat) (sat : Bool) (i : Int) : Nat :=
  let i := if sat then (if i < intMin ty then intMin ty else if intMax ty < i then intMax ty else i) else i
  (i % 2 ^ typeWidth ty).toNat

/-- A value converted to an integer type (R150). -/
def toIntBits (ty : Nat) (sat : Bool) (mode : Rnd) : FVal → Nat
  | .nan => 0
  | .inf neg => if sat then intBits ty false (if neg then intMin ty else intMax ty) else 0
  | .fin neg m e => intBits ty sat (roundToInt mode neg m e)

/-- One element converted from type `st` to type `dt` (R150), for a copy (R218) as for VCVT. -/
def convert (dt st : Nat) (sat : Bool) (mode : Rnd) (n : Nat) : Nat :=
  if dt < 8 then
    if st < 8 then intBits dt sat (intVal st n) else toIntBits dt sat mode ((fmtOf st).value n)
  else if st < 8 then (fmtOf dt).round mode (FVal.ofInt (intVal st n))
  else (fmtOf dt).round mode ((fmtOf st).value n)

/-- VCVT (R149): L is the lane count of the wider type; a narrower destination's upper lanes become zero, whatever the
mask. A complex pair converts part by part. -/
def execVcvt (w : LaneWord) (s : State) : Out :=
  laneStep (.vcvt w) (fun x =>
    let dt := x.ty
    let st := (w.fn.extractLsb' 3 4).toNat
    let n := min (laneCount dt) (laneCount st)
    let q := partsOf dt
    let dw := typeWidth dt / q
    let sw := typeWidth st / q
    let vals := (List.range (n * q)).map fun j => convert dt st w.sat (x.rnd j) (laneOfRow (x.row w.a) sw j)
    .eff (.one 3 (x.writeLanes dw (2048 / dw) vals fun j => decide (n * q ≤ j) || x.act (j / q)))) s

/-! ## Complex words (R151) -/

/-- The parts of lane `l` of a row, the imaginary part negated where `cj` holds. -/
def LaneCtx.complex (x : LaneCtx) (r : BitVec 8) (l : Nat) (cj : Bool) : FVal × FVal :=
  (x.part r (2 * l), if cj then (x.part r (2 * l + 1)).neg else x.part r (2 * l + 1))

/-- Part `j` of the exact product of two complex numbers (R151). -/
def complexMul (a b : FVal × FVal) (imag : Bool) : FVal :=
  if imag then FVal.add (FVal.mul a.1 b.2) (FVal.mul a.2 b.1) else FVal.sub (FVal.mul a.1 b.1) (FVal.mul a.2 b.2)

/-- CA is FN[1], CB is FN[0]. -/
def LaneCtx.product (x : LaneCtx) (j : Nat) : FVal :=
  complexMul (x.complex x.w.a (j / 2) (x.w.fn.getLsbD 1)) (x.complex x.w.b (j / 2) (x.w.fn.getLsbD 0))
    (decide (j % 2 = 1))

/-- VCMUL (R151). -/
def execVcmul (w : LaneWord) (s : State) : Out :=
  laneStep (.vcmul w) (fun x => x.partwise 6 fun j => x.round j (x.product j)) s

/-- VCFMA (R151). -/
def execVcfma (w : LaneWord) (s : State) : Out :=
  laneStep (.vcfma w) (fun x => x.partwise 6 fun j => x.round j (FVal.add (x.product j) (x.part w.c j))) s

/-- VCONJ (R151). -/
def execVconj (w : LaneWord) (s : State) : Out :=
  laneStep (.vconj w) (fun x => x.partwise 1 fun j =>
    if j % 2 = 1 then x.partBits w.a j ^^^ 2 ^ (x.fmt.width - 1) else x.partBits w.a j) s

/-! ## Special functions (R152) and scaling (R172) -/

/-- VRCP (R152). -/
def execVrcp (w : LaneWord) (s : State) : Out :=
  laneStep (.vrcp w) (fun x => x.partwise 8 fun j => x.round j (x.part w.a j).rcp) s

/-- VRSQ (R152). -/
def execVrsq (w : LaneWord) (s : State) : Out :=
  laneStep (.vrsq w) (fun x => x.partwise 8 fun j => x.round j (x.part w.a j).rsq) s

/-- VSQRT (R152). -/
def execVsqrt (w : LaneWord) (s : State) : Out :=
  laneStep (.vsqrt w) (fun x => x.partwise 12 fun j => x.round j (x.part w.a j).sqrt) s

/-- VEXP2 (R152). -/
def execVexp2 (w : LaneWord) (s : State) : Out :=
  laneStep (.vexp2 w) (fun x => x.partwise 10 fun j => x.round j (x.part w.a j).exp2) s

/-- VLOG2 (R152). -/
def execVlog2 (w : LaneWord) (s : State) : Out :=
  laneStep (.vlog2 w) (fun x => x.partwise 10 fun j => x.round j (x.part w.a j).log2) s

/-- VTANH (R152). -/
def execVtanh (w : LaneWord) (s : State) : Out :=
  laneStep (.vtanh w) (fun x => x.partwise 14 fun j => x.round j (x.part w.a j).tanh) s

/-- VSCA (R172). -/
def execVsca (w : LaneWord) (s : State) : Out :=
  laneStep (.vsca w) (fun x => x.partwise 3 fun j => x.round j ((x.part w.a j).scale w.c.toInt)) s

end Sys2Proof.Machine
end

