-- ==== Sys2Proof/Machine/Crypto.lean ====
section
/-! DEFINITION. Machine/Crypto.lean: SHA-384, ECDSA P-384 signatures and their verification, which R14, R38 and R42 name: the
functions themselves are those of the published standards (log 19). -/
namespace Sys2Proof.Machine

/-! ## SHA-384 -/

/-- The root `r` of degree `e` of `x`, rounded down, if it lies below `low + 2 ^ bits` and not below `low`. -/
def rootFrom (e x : Nat) : Nat → Nat → Nat
  | 0, low => low
  | bits + 1, low => rootFrom e x bits (if (low + 2 ^ bits) ^ e ≤ x then low + 2 ^ bits else low)

/-- A prime number. -/
def isPrime (n : Nat) : Bool := decide (2 ≤ n) && (List.range n).all fun d => decide (d < 2) || decide (n % d ≠ 0)

/-- The first 80 prime numbers. -/
def shaPrimes : List Nat := (List.range 410).filter isPrime

/-- The first 64 bits of the fractional part of the root of degree `e` of a prime. -/
def rootFraction (e p : Nat) : BitVec 64 := BitVec.ofNat 64 (rootFrom e (p * 2 ^ (64 * e)) 70 0)

/-- The 80 round constants: cube roots of the first 80 primes. -/
def sha384K : List (BitVec 64) := shaPrimes.map (rootFraction 3)

/-- The initial hash value: square roots of the ninth to the sixteenth prime. -/
def sha384Init : List (BitVec 64) := ((shaPrimes.drop 8).take 8).map (rootFraction 2)

/-- The number in bytes, most significant first. -/
def bigEndian (bs : List Byte) : Nat := bs.foldl (fun n b => n * 256 + b.toNat) 0

/-- The low `n` bytes of a number, most significant first. -/
def toBigEndian (n v : Nat) : List Byte := (toBytes n v).reverse

/-- The next word of the message schedule, from the last sixteen, latest first. -/
def shaSchedule (w : List (BitVec 64)) : BitVec 64 :=
  let x := w.getD 14 0
  let y := w.getD 1 0
  let s0 := x.rotateRight 1 ^^^ x.rotateRight 8 ^^^ (x >>> 7)
  let s1 := y.rotateRight 19 ^^^ y.rotateRight 61 ^^^ (y >>> 6)
  w.getD 15 0 + s0 + w.getD 6 0 + s1

/-- Extend the schedule, latest first, by `n` words. -/
def shaExtend : Nat → List (BitVec 64) → List (BitVec 64)
  | 0, w => w
  | n + 1, w => shaExtend n (shaSchedule w :: w)

/-- One round on the working variables a to h. -/
def shaRound (v : List (BitVec 64)) (kw : BitVec 64 × BitVec 64) : List (BitVec 64) :=
  let a := v.getD 0 0
  let b := v.getD 1 0
  let c := v.getD 2 0
  let e := v.getD 4 0
  let f := v.getD 5 0
  let g := v.getD 6 0
  let s1 := e.rotateRight 14 ^^^ e.rotateRight 18 ^^^ e.rotateRight 41
  let ch := (e &&& f) ^^^ (~~~ e &&& g)
  let t1 := v.getD 7 0 + s1 + ch + kw.1 + kw.2
  let s0 := a.rotateRight 28 ^^^ a.rotateRight 34 ^^^ a.rotateRight 39
  let maj := (a &&& b) ^^^ (a &&& c) ^^^ (b &&& c)
  [t1 + (s0 + maj), a, b, c, v.getD 3 0 + t1, e, f, g]

/-- One block of sixteen words. -/
def shaBlock (h w : List (BitVec 64)) : List (BitVec 64) :=
  let sched := (shaExtend 64 w.reverse).reverse
  let v := (sha384K.zip sched).foldl shaRound h
  h.zipWith (· + ·) v

/-- Split bytes into words. -/
def shaWords : Nat → List Byte → List (BitVec 64)
  | 0, _ => []
  | n + 1, bs => BitVec.ofNat 64 (bigEndian (bs.take 8)) :: shaWords n (bs.drop 8)

/-- Hash the blocks. -/
def shaBlocks : Nat → List (BitVec 64) → List (BitVec 64) → List (BitVec 64)
  | 0, h, _ => h
  | n + 1, h, w => shaBlocks n (shaBlock h (w.take 16)) (w.drop 16)

/-- SHA-384 of a byte string, its 48 bytes in order. -/
def sha384 (m : List Byte) : List Byte :=
  let n := m.length
  let zeros := (239 - n % 128) % 128
  let padded := m ++ [0x80] ++ List.replicate zeros 0 ++ toBigEndian 16 (8 * n)
  let blocks := (n + 17 + zeros) / 128
  let h := shaBlocks blocks sha384Init (shaWords (16 * blocks) padded)
  (h.take 6).flatMap fun x => toBigEndian 8 x.toNat

/-! ## The curve P-384 -/

/-- The prime of the field. -/
def p384 : Nat := 2 ^ 384 - 2 ^ 128 - 2 ^ 96 + 2 ^ 32 - 1
/-- The order of the base point. -/
def n384 : Nat := 0xffffffffffffffffffffffffffffffffffffffffffffffffc7634d81f4372ddf581a0db248b0a77aecec196accc52973
/-- The coefficient b of the curve; a is −3. -/
def b384 : Nat := 0xb3312fa7e23ee7e4988e056be3f82d19181d9c6efe8141120314088f5013875ac656398d8a2ed19d2a85c8edd3ec2aef
/-- The base point. -/
def g384 : Nat × Nat :=
  (0xaa87ca22be8b05378eb1c71ef320ad746e1d3b628ba79b9859f741e082542a385502f25dbf55296c3a545e3872760ab7,
   0x3617de4a96262c6f5d9e98bf9292dc29f8f41dbd289a147ce9da3113b5f0b8c00a60b1ce1d7e819d7a431d7c90ea0e5f)

/-- `x ^ e mod m` over the low `k` bits of `e`. -/
def powMod (m x e : Nat) : Nat → Nat
  | 0 => 1 % m
  | k + 1 =>
    let h := powMod m x (e / 2) k
    let q := h * h % m
    if e % 2 = 1 then q * x % m else q

/-- The inverse modulo a prime `m` below 2^384. -/
def invMod (m x : Nat) : Nat := powMod m x (m - 2) 384

/-- `x - y` modulo the field prime. -/
def subP (x y : Nat) : Nat := (x + p384 - y % p384) % p384

/-- A point is on the curve (R42). -/
def onCurve (q : Nat × Nat) : Bool :=
  decide (q.1 < p384) && decide (q.2 < p384) &&
  decide (q.2 * q.2 % p384 = subP (q.1 * q.1 * q.1 + b384) (3 * q.1))

/-- The sum of two points; nothing is the point at infinity. -/
def addPoint : Option (Nat × Nat) → Option (Nat × Nat) → Option (Nat × Nat)
  | none, q => q
  | p, none => p
  | some p, some q =>
    if p.1 = q.1 ∧ (p.2 + q.2) % p384 = 0 then none
    else
      let l := if p.1 = q.1 then subP (3 * p.1 * p.1) 3 * invMod p384 (2 * p.2 % p384) % p384
        else subP q.2 p.2 * invMod p384 (subP q.1 p.1) % p384
      let x := subP (l * l) (p.1 + q.1)
      some (x, subP (l * subP p.1 x) p.2)

/-- `e` times a point, over the low `k` bits of `e`. -/
def mulPoint (p : Option (Nat × Nat)) (e : Nat) : Nat → Option (Nat × Nat)
  | 0 => none
  | k + 1 =>
    let h := mulPoint p (e / 2) k
    let q := addPoint h h
    if e % 2 = 1 then addPoint q p else q

/-- An ECDSA P-384 signature, r then s, verifies over a digest of 48 bytes against a public key. -/
def ecdsaVerify (key : Nat × Nat) (digest sig : List Byte) : Bool :=
  let r := bigEndian (sig.take 48)
  let s := bigEndian ((sig.drop 48).take 48)
  if r = 0 ∨ n384 ≤ r ∨ s = 0 ∨ n384 ≤ s then false
  else
    let w := invMod n384 s
    let u := bigEndian digest * w % n384
    let v := r * w % n384
    match addPoint (mulPoint (some g384) u 384) (mulPoint (some key) v 384) with
    | some q => decide (q.1 % n384 = r)
    | none => false

/-! ## The device attestation key (R38, R42) -/

/-- The private half, which no agent can read. -/
def attSecret : Nat := Config.attKey % (n384 - 1) + 1

/-- Byte `i` of ATT_PUB: x then y of the public half (R42). -/
def attPub (i : Nat) : Byte :=
  let q := (mulPoint (some g384) attSecret 384).getD (0, 0)
  (toBigEndian 48 q.1 ++ toBigEndian 48 q.2).getD i 0

/-- An ECDSA P-384 signature of a digest, r then s in 96 bytes, under the private key `d`: the first of the nonces that gives one
(log 3). -/
def ecdsaSign (d : Nat) (digest : List Byte) (nonce : Nat → Nat) : Nat → List Byte
  | 0 => List.replicate 96 0
  | tries + 1 =>
    let k := nonce tries % (n384 - 1) + 1
    let r := ((mulPoint (some g384) k 384).getD (0, 0)).1 % n384
    let s := invMod n384 k * (bigEndian digest + r * d) % n384
    if r = 0 ∨ s = 0 then ecdsaSign d digest nonce tries else toBigEndian 48 r ++ toBigEndian 48 s

/-- The attestation key's signature of a digest, the n-th drawn (R38). -/
def reportSignature (digest : List Byte) (n : Nat) : List Byte :=
  ecdsaSign attSecret digest (Config.attNonce (BitVec.ofNat 384 (bigEndian digest)) n) 256

end Sys2Proof.Machine
end

