-- ==== Sys2Proof/Machine/Flags.lean ====
section
/-! DEFINITION. Machine/Flags.lean: the status words that instructions read (R100, R101, R121, R300). -/
namespace Sys2Proof.Machine

/-- LS_STATUS (R101). -/
def lsStatus (l : LeadSlice) : Word :=
  ((0#48 ++ l.forkId ++ 0#5 ++ BitVec.ofBool l.vended ++ BitVec.ofBool l.lane ++ BitVec.ofBool l.machine :
    BitVec 64))

/-- CORE_ID (R101): die = core ÷ 64. -/
def coreId : LeadId → Word
  | .mgmt => Config.mgmtCoreId.setWidth 64
  | .core c => BitVec.ofNat 64 (c.val / 64 * 256 + c.val)

/-- VALE_ID (R101). -/
def valeId (s : State) : LeadId → Word
  | .mgmt => Config.mgmtValeId.setWidth 64
  | .core c => match (s.core c).task with
    | some t => BitVec.ofNat 64 t.vale.val
    | none => 0

/-- The CSR numbered `n` (R100); none if there is no such CSR. -/
def csrRead (s : State) (who : LeadId) (n : BitVec 12) : Option Word :=
  let l := s.ls who
  match n.toNat with
  | 0 => some (lsStatus l)
  | 1 => some (l.cause.setWidth 64)
  | 2 => some l.epc
  | 3 => some l.tval
  | 4 => some l.region
  | 16 => some (coreId who)
  | 17 => some (valeId s who)
  | 18 => some s.now
  | k => if 64 ≤ k ∧ k < 80 then some ((l.lp[(BitVec.ofNat 4 k).toFin]).setWidth 64) else none

/-- Write CSR `n` in machine mode (R100, R300, R303); none where it is read-only. LS_STATUS takes no field. -/
def csrWrite (l : LeadSlice) (n : BitVec 12) (v : Word) : Option LeadSlice :=
  if !l.machine then none
  else
    match n.toNat with
    | 0 => some l
    | 1 => some { l with cause := v.setWidth 12 }
    | 2 => some { l with epc := v }
    | 3 => some { l with tval := v }
    | _ => none

/-- The status word of an engine queue (R121). -/
def estatWord (e : Engine) : Word :=
  ((e.cancelled ++ e.completed ++ 0#8 ++ e.latch.getD 0 ++ BitVec.ofBool e.latch.isSome ++ 0#6 ++
    BitVec.ofBool (!e.active.isEmpty) ++ 0#2 ++ BitVec.ofNat 5 e.queue.length : BitVec 64))

end Sys2Proof.Machine
end

