-- ==== Sys2Proof/Machine/Records.lean ====
section
/-! DEFINITION. Machine/Records.lean: the accumulator rows that engine records mark empty (R134, R251, R252), how an engine takes a record
and latches a fault (R121, R221, R255, R297). -/
namespace Sys2Proof.Machine

/-! ## Accumulator rows (R134, R251, R252) -/

/-- ρ of an OTYPE (R248). -/
def rho (otype : Nat) : Nat := if otype = 3 ∨ otype = 11 ∨ otype = 13 then 2 else 1

/-- Input rows M of an MMA: EXT1·EXT2·EXT3 of A (R248). -/
def mmaRows (p : Pattern) : Nat := p.count[1] * p.count[2] * p.count[3]

/-- Output rows of an MMA (R250). -/
def mmaOuts (r : Record) : Nat :=
  match r.pattern 0 with
  | some p => if bit r.flags 18 then mmaRows p / 2 else mmaRows p
  | none => 0

/-- The first accumulator row of output row `p` (R251). -/
def outRow (r : Record) (p : Nat) : Nat := bits r.aux 11 4 + p * bits r.aux 19 12

/-- The rows of output row `p` of a record, as numbers. -/
def rowsOf (r : Record) (p : Nat) : List Nat :=
  if r.op = 0x11 then (List.range (rho (bits r.flags 8 5))).map fun i => outRow r p + i
  else [bits r.aux 11 4 + p]

/-- How many output rows a record lands (R251, R252). -/
def outCount (r : Record) : Nat :=
  match r.op, r.pattern 0 with
  | 0x11, _ => mmaOuts r
  | 0x12, some p => (p.size + 3) / 4
  | _, _ => 0

/-- The accumulator rows a record still has to write, after `landed` output rows; rows beyond 255 are none, and its check refuses
them (R249). Output rows beyond 256 more name no further row. -/
def pendingRows (r : Record) (landed : Nat) : List Nat :=
  (List.range (min (outCount r - landed) 256)).flatMap fun p => (rowsOf r (landed + p)).filter fun x => decide (x < 256)

/-- A set of rows as bits. -/
def rowBits (rows : List Nat) : BitVec 256 := rows.foldl (fun m r => m ||| BitVec.ofNat 256 (2 ^ r)) 0

/-- Rows that some record or gather of the core still holds empty. -/
def heldRows (k : Core) : BitVec 256 :=
  let e := k.engines[2]
  rowBits (e.queue.flatMap fun r => pendingRows r 0) |||
  rowBits (e.active.flatMap fun a => pendingRows a.r a.landed) |||
  rowBits (k.lane.gathers.map fun g => g.row.val)

/-- Rows become full again unless another record or gather holds them empty (R134). -/
def refill (k : Core) (rows : List Nat) : Core :=
  { k with lane := { k.lane with full := k.lane.full ||| (rowBits rows &&& ~~~ heldRows k) } }

/-! ## Engines -/

/-- The agent number of an engine's causes (R73, R95): copy 2, matrix 3. -/
def engAgent (e : Fin 4) : Nat := if e = 2 then 3 else 2

/-- The oldest record that has begun. -/
def Engine.head (e : Engine) : Option Active := e.active.head?

/-- Change the active record numbered `num`. -/
def Engine.update (e : Engine) (num : Nat) (f : Active → Active) : Engine :=
  { e with active := e.active.map fun a => if a.num = num then f a else a }

/-- A record that has just begun. -/
def Active.start (num : Nat) (r : Record) : Active :=
  { num := num, r := r, done := 0, ready := false, inbox := [], acks := [], asked := 0, reads := [], words := none, writes := [], header := none,
    basins := [], outs := [], bias := [], landed := 0, retried := false, tile := none, fills := [] }

/-- A record has faulted (R221, R255): the cause is latched, and is to be delivered once (R297); the record leaves the
engine, its unlanded rows become full, its basins are released. A copy channel's write pointer stops (R223). -/
def latchFault (s : State) (c : Fin 256) (e : Fin 4) (num : Nat) (code : BitVec 9) (tval : Word) : State :=
  let k := s.core c
  let x := k.eng e
  match x.active.find? fun a => decide (a.num = num) with
  | none => s
  | some a =>
    let x := { x with active := x.active.filter fun b => !decide (b.num = num)
                      ptrStopped := x.ptrStopped || decide (e.val < 2)
                      lastBulk := if a.r.op = 3 then s.now.toNat else x.lastBulk }
    let x := if x.latch.isSome then x else { x with latch := some code, undelivered := some tval }
    let k := k.setEng e x
    let k := if e = 2 then refill k (pendingRows a.r a.landed) else k
    let k := { k with basins := k.basins.map fun b => { b with holder := b.holder.filter fun h => !decide (h = num) } }
    let s := { s.setCore c (noteStarved k) with stalled := false }
    let s := dropRequests (askNoMore s c (.engine e)) fun q =>
      decide (q.core = c) && decide (q.who = .engine e) && decide (q.num = num)
    -- a basin that was being filled becomes invalid (R242), a stale one that nobody holds as well (R241)
    (List.finRange 32).foldl (fun s b =>
      let y : Basin := (s.core c).basins[b]
      if y.holder.isEmpty && (decide (y.st = .stale) || y.unfilled) then invalidate s c b else s) s

/-- The engine of a core in turn. -/
def engineInTurn (s : State) : Option (Fin 256 × Fin 4) :=
  match s.turn with
  | .engine c e => some (c, e)
  | _ => none

/-- The bytes of an address of the own scratchpad or of the vale's pages as the lead slice's ENQ or an engine reads them. -/
def localBytes (s : State) (c : Fin 256) (v : Fin 16) (p : Place) (n : Nat) : List Byte :=
  match p with
  | .scratch off => memRead (s.core c).scratch off n
  | .dram pa _ => valeRead s v pa n
  | _ => []

end Sys2Proof.Machine
end

