-- ==== Sys2Proof/Machine/EngineControl.lean ====
section
/-! DEFINITION. Machine/EngineControl.lean: FORK, JOIN, ENQ, ECANCEL, WPTR, ESTAT and the steering pushes (R71, R95, R114 to
R124, R134). The management core has no lane slice, engine or steering queue: there these raise cause 0 (log 7). -/
namespace Sys2Proof.Machine

/-- An instruction that needs a core with its task. -/
def coreStep (i : Instr) (f : State → Fin 256 → Task → Issue) (s : State) : Out :=
  leadStep i (fun who s =>
    match who with
    | .mgmt => .trap 0 (wordOf i)
    | .core c => match (s.core c).task with
      | some t => f s c t
      | none => .wait) s

/-- The section of a kind in an image (R11). -/
def Image.section (i : Image) (kind : Nat) : Option Section := i.sections.find? fun x => decide (x.kind = kind)

/-! ## Streams (R114, R115) -/

/-- A lane slice with a stream to run from `pc`: rows, masks, pointers and full bits are kept (R114). -/
def LaneSlice.begin (l : LaneSlice) (pc : Word) (after : Nat) : LaneSlice :=
  { l with pc := pc, levels := [], spacing := 0, restart := .idle, counted := false, popDue := false, ticked := false,
           overrun := false, stopped := false, starved := false, after := after, body := [] }

/-- FORK (R114). -/
def execFork (id : BitVec 6) (s : State) : Out :=
  coreStep (.fork id) (fun s c t =>
    let k := s.core c
    match taskImage s t, leadSync s (.core c) 1 id.toNat with
    | some img, some e =>
      if k.ls.lane then .trap 224 (wordOf (.fork id))
      else
        let off := match img.section 2 with
          | some x => x.off
          | none => 0
        .done (s.setCore c { k with
          lane := k.lane.begin (t.image + BitVec.ofNat 64 (off + e.valA)) k.ls.seq
          ls := nextPc { k.ls with lane := true, vended := false, forkId := id.setWidth 8 } })
    | _, _ => .trap 0 (wordOf (.fork id))) s

/-- What the wait of JOIN and of HALT comes to (R115): it goes on, ends in a cause, or the stream is joined. -/
def joinStream (k : Core) : Except (Option (BitVec 12)) Core :=
  if k.ls.vended && k.lane.quiet then
    if k.steer.any fun e => !decide (e.kind = .marker) then .error (some 228)
    else .ok { k with steer := [], ls := { k.ls with lane := false, vended := false, forkId := 0 } }
  else if !k.ls.vended && k.lane.starved && k.steer.isEmpty then .error (some 227)
  else .error none

/-- JOIN (R115). -/
def execJoin (id : BitVec 6) (s : State) : Out :=
  coreStep (.join id) (fun s c _ =>
    let k := s.core c
    match leadSync s (.core c) 2 id.toNat with
    | none => .trap 0 (wordOf (.join id))
    | some e =>
      if !k.ls.lane || decide (k.ls.forkId.toNat ≠ e.valA) then .trap 225 (wordOf (.join id))
      else
        match joinStream k with
        | .error none => .wait
        | .error (some code) => .trap code (wordOf (.join id))
        | .ok k => .done (s.setCore c { k with ls := nextPc k.ls })) s

/-! ## ENQ (R71, R95, R117, R118) -/

/-- What a read of ENQ ends in when it does not give its bytes. -/
structure ReadFault where
  code : BitVec 12
  tval : Word
  deriving DecidableEq, Repr

/-- What a read of ENQ comes to: its bytes, a cause, or a wait for a DRAM bank that a copy channel holds (R224). -/
inductive EnqRead where
  | got (s : State) (bs : List Byte)
  | fault (s : State) (e : ReadFault)
  | wait

/-- The 8 bytes at `va` as a read of ENQ gets them (R71): the global window or the own scratchpad, at the home, from which it recalls
the `.own` copies of other cores (R269). -/
def enqWord (s : State) (c : Fin 256) (t : Task) (va : Word) : EnqRead :=
  let q : Req := { acc := .read, va := va, n := 8, rq := 3 }
  if leadHeld s (.core c) q then .wait
  else
    let u := walked s (.core c) q
    match taskPlace s c t q with
    | .error code => .fault u ⟨code, va⟩
    | .ok (.peer _ _, _) => .fault u ⟨65, va⟩
    | .ok (p, _) =>
      match p with
      | .dram pa _ =>
        if bankBlocks u t.vale none pa then .wait
        else if placePoisoned u (.core c) p 8 then .fault u ⟨353, va⟩
        else .got (touchLines (recallRange u (some c) pa 8) t.vale pa 8 false) (localBytes u c t.vale p 8)
      | _ => if placePoisoned u (.core c) p 8 then .fault u ⟨353, va⟩ else .got u (localBytes u c t.vale p 8)

/-- What an ENQ does next, by the bytes that it has read: another read, a cause, or the record is there. -/
inductive EnqTurn where
  | read (va : Word)
  | fault (e : ReadFault)
  | done (r : Record)

/-- Numbers of the fields of a record in 64 bytes (R91). -/
def recordFields (bs : List Byte) : Vector (BitVec 32) 16 :=
  Vector.ofFn fun i => BitVec.ofNat 32 (ofBytes ((bs.drop (4 * i.val)).take 4))

/-- The patterns that record fields refer to, by signed byte offsets from the record (R91), out of the bytes that have been read of
them; what to read next, or cause 4, where they are not all there. -/
def enqPatterns (lp : Vector (BitVec 32) 16) (alloc : Nat) (addr word : Word) :
    List (BitVec 32) → List Byte → Except EnqTurn (List (Option Pattern))
  | [], _ => .ok []
  | ref :: refs, got =>
    if ref = 0 then (enqPatterns lp alloc addr word refs got).map fun l => none :: l
    else if got.length < 64 then .error (.read (addr + ref.signExtend 64 + BitVec.ofNat 64 got.length))
    else match parsePattern (got.take 64) lp alloc with
      | none => .error (.fault ⟨4, word⟩)
      | some p => (enqPatterns lp alloc addr word refs (got.drop 64)).map fun l => some p :: l

/-- What the ENQ of the record at `addr` does next (R71, R95): it reads the record; CTRL and BAR are judged, then the alignment of all
four references; then it reads the patterns, each judged before the next is read (log 64). -/
def enqTurn (k : Core) (t : Task) (addr word : Word) (got : List Byte) : EnqTurn :=
  if addr.extractLsb' 0 6 ≠ 0 then .fault ⟨3, word⟩
  else if got.length < 64 then .read (addr + BitVec.ofNat 64 got.length)
  else
    let f := recordFields got
    let refs := [f[4], f[5], f[6], f[7]]
    if badCtrl f t.size then .fault ⟨4, word⟩
    else if refs.any fun r => decide (r.extractLsb' 0 6 ≠ 0) then .fault ⟨3, word⟩
    else match enqPatterns k.ls.lp t.alloc addr word refs (got.drop 64) with
      | .error x => x
      | .ok ps => .done { addr := addr, tval := addr, f := f, pat := Vector.ofFn fun i => ps.getD i.val none, after := k.ls.seq }

/-- What the reads of an ENQ have come to: a cause, the record, or so many bytes so far. -/
inductive EnqRes where
  | fault (s : State) (e : ReadFault)
  | done (s : State) (r : Record) (got : List Byte)
  | on (s : State) (got : List Byte)

/-- At most `fuel` reads of an ENQ, after those that gave `got`. -/
def enqRun (c : Fin 256) (t : Task) (addr word : Word) : Nat → List Byte → State → EnqRes
  | 0, got, s => match enqTurn (s.core c) t addr word got with
    | .read _ => .on s got
    | .fault e => .fault s e
    | .done r => .done s r got
  | fuel + 1, got, s => match enqTurn (s.core c) t addr word got with
    | .fault e => .fault s e
    | .done r => .done s r got
    | .read va => match enqWord s c t va with
      | .got s bs => enqRun c t addr word fuel (got ++ bs) s
      | .fault s e => .fault s e
      | .wait => .on s got

/-- Place a record at the tail of its engine's queue; a matrix record marks its rows empty (R117, R134). -/
def placeRecord (k : Core) (e : Fin 4) (r : Record) : Core :=
  let x := k.eng e
  let k := k.setEng e { x with queue := x.queue ++ [r] }
  if e = 2 then { k with lane := { k.lane with full := k.lane.full &&& ~~~ rowBits (pendingRows r 0) } } else k

/-- ENQ: its reads, as many in one step as the machine makes (log 52), come after the loads before it (R71); a full queue waits
(R118). -/
def execEnq (a : BitVec 5) (s : State) : Out :=
  coreStep (.enq a) (fun s c t =>
    let k := s.core c
    match readSrc k.ls a with
    | none => .wait
    | some addr =>
      if !k.ls.lq.isEmpty then .wait
      else
        match enqRun c t addr (wordOf (.enq a)) (if s.chunk = 0 then 40 else s.chunk) k.enqGot s with
        | .fault s e => .denied (if e.code = 353 then logLead s (.core c) else s) e.code e.tval
        | .on s got => .hold (s.setCore c { s.core c with enqGot := got })
        | .done s r got =>
          let e : Fin 4 := (BitVec.ofNat 2 r.engine).toFin
          if 16 ≤ ((s.core c).eng e).queue.length then .hold (s.setCore c { s.core c with enqGot := got })
          else
            let k := placeRecord (s.core c) e r
            .done (s.setCore c { k with enqGot := [], ls := nextPc k.ls })) s

/-! ## ECANCEL (R119, R134) -/

/-- Remove the records of a tag that have not begun from one engine; a CPYBULK that waits for its bank has not (R118). -/
def cancelIn (k : Core) (tag : Nat) (e : Fin 4) : Core :=
  let x := k.eng e
  let gone := x.queue.filter fun r => decide (r.tag = tag)
  let headGone : Bool := match x.queue.head? with
    | some r => decide (r.tag = tag)
    | none => false
  let k := k.setEng e { x with queue := x.queue.filter fun r => !decide (r.tag = tag)
                               waiting := if headGone then none else x.waiting
                               cancelled := x.cancelled + BitVec.ofNat 16 gone.length }
  if e = 2 then refill k (gone.flatMap fun r => pendingRows r 0) else k

/-- Remove them from every engine. -/
def cancelTag (k : Core) (tag : Nat) : Core := (List.finRange 4).foldl (fun k e => cancelIn k tag e) k

/-- A begun record of the tag has not completed. -/
def tagActive (k : Core) (tag : Nat) : Bool := k.engines.toList.any fun e => e.active.any fun a => decide (a.r.tag = tag)

/-- ECANCEL (R119). -/
def execEcancel (tag : BitVec 6) (s : State) : Out :=
  coreStep (.ecancel tag) (fun s c _ =>
    let k := cancelTag (s.core c) tag.toNat
    if tagActive k tag.toNat then .hold (s.setCore c k)
    else .done (s.setCore c { k with ls := nextPc k.ls })) s

/-! ## Status (R120, R121) -/

/-- WPTR (R120): the prefix of the channel's writes that it counts has been performed, and no copy that the core took of those bytes
before stays (R223). -/
def execWptr (d : BitVec 5) (ch : Bool) (s : State) : Out :=
  coreStep (.wptr d ch) (fun s c _ =>
    let k := s.core c
    let fresh (x : L1Word) : Bool := !x.late.getLsbD (if ch then 1 else 0)
    retire (s.setCore c { k with l1 := k.l1.filter fresh }) (.core c) d (k.eng (if ch then 1 else 0)).ptr) s

/-- ESTAT (R121). -/
def execEstat (d : BitVec 5) (e : BitVec 2) (s : State) : Out :=
  coreStep (.estat d e) (fun s c _ => retire s (.core c) d (estatWord ((s.core c).eng e.toFin))) s

/-! ## Steering pushes (R122, R123) -/

/-- What a push meets when the queue is full: nothing will pop it, or it waits (R123). -/
def steerRoom (k : Core) : Except (Option (BitVec 12)) Unit :=
  if k.steer.length < 64 then .ok ()
  else if !k.ls.lane || k.ls.vended then .error (some 226)
  else .error none

/-- Append an entry. -/
def pushSteer (k : Core) (x : SteerKind) : Core := { k with steer := k.steer ++ [{ kind := x, after := k.ls.seq }] }

/-- A push of what `f` makes of its sources. -/
def pushStep (i : Instr) (srcs : List (BitVec 5)) (f : List Word → SteerKind) (s : State) : Out :=
  coreStep i (fun s c _ =>
    let k := s.core c
    match srcs.mapM (readSrc k.ls) with
    | none => .wait
    | some vs =>
      match steerRoom k with
      | .error none => .wait
      | .error (some code) => .trap code (wordOf i)
      | .ok () =>
        let k := pushSteer k (f vs)
        .done (s.setCore c { k with ls := nextPc k.ls })) s

/-- The register specifier of n(k) (R77). -/
def namedSpec (k : Nat) : BitVec 5 := BitVec.ofNat 5 (16 + k)

/-- SPMASK: lane 64·j + i is bit i of n(k + j) (R122). -/
def execSpmask (k : BitVec 4) (s : State) : Out :=
  pushStep (.spmask k) ((List.range 4).map fun j => namedSpec (k.toNat + j))
    (fun v => .mask (BitVec.ofNat 256 (packLanes 64 (v.map BitVec.toNat)))) s

/-- SPMASKN: the lowest a lanes (R122). -/
def execSpmaskn (a : BitVec 5) (s : State) : Out :=
  pushStep (.spmaskn a) [a] (fun v => .mask (BitVec.ofNat 256 (2 ^ min (v.headD 0).toNat 256 - 1))) s

/-- SPCOUNT (R122). -/
def execSpcount (a : BitVec 5) (s : State) : Out :=
  pushStep (.spcount a) [a] (fun v => .count ((v.headD 0).setWidth 32)) s

/-- SPFLAG (R122). -/
def execSpflag (a : BitVec 5) (s : State) : Out :=
  pushStep (.spflag a) [a] (fun v => .flag (decide (v.headD 0 ≠ 0))) s

/-- SPVAL (R122). -/
def execSpval (a : BitVec 5) (s : State) : Out := pushStep (.spval a) [a] (fun v => .value (v.headD 0)) s

end Sys2Proof.Machine
end

