-- ==== Sys2Proof/Machine/Graphs.lean ====
section
/-! DEFINITION. Machine/Graphs.lean: the ready pool and the retirement of nodes and graphs (R51 to R56, R328 to R330), the graph
engine's stores (R345), the start, the end and the discard of a task (R23, R304, R307). -/
namespace Sys2Proof.Machine

/-! ## Stores of the graph engine (R345) -/

/-- A `.wt` store of the vale by its graph engine, made now: one that cannot be made sets WR_ERR (R345); nothing while it waits, for a
DRAM bank (R224), for its path (R318) or for its turn at the port (R47). -/
def makeStore (s : State) (v : Fin 16) (addr : Word) (bs : List Byte) : Option State :=
  let fail := s.setVale v { s.vale v with wrErr := true }
  if !keyed s v || !windowOk addr then some fail
  else
    match topByte addr with
    | 0 =>
      if vaHeld s v none addr.toNat .write then none
      else match translate s v addr.toNat .write with
        | .ok l => some (valeWrite (noteWalk s v addr.toNat) v none l.pa bs)
        | .error _ => some (noteWalk fail v addr.toNat)
    | 1 =>
      let d := domainDev addr
      if !inDomain s d then some fail
      else if d = s.hub.index then
        let q : PeerRequest :=
          { dev := d, vale := BitVec.ofNat 4 v.val, addr := domainAddr addr, len := bs.length, op := .write bs, order := none }
        if peerHeld s q then none
        else match servePeer s q with
          | (s', .data _) => some s'
          | _ => some fail
      else
        let q : Ask :=
          { core := 0, who := .graph v, num := 0, part := 0, dev := d, addr := domainAddr addr, len := bs.length, op := .write bs }
        match routeTo s d with
        | .up x => if portServes s x.port v then some (sendRequest (noteServed s x.port v 0 (.graph v)) x q none none) else none
        | .later _ => none
        | .none => some fail
    | _ => some fail

/-- The oldest store of a vale's graph engine that waits is made, if nothing holds it any more. -/
def sendStore (s : State) (v : Fin 16) : State :=
  match (s.vale v).outgoing with
  | [] => s
  | x :: rest => match makeStore s v x.1 x.2 with
    | some s => s.setVale v { s.vale v with outgoing := rest }
    | none => s

/-- A store of the graph engine: it is made at once, after those that wait, or waits with them (R47, R345; log 60). -/
def graphStore (s : State) (v : Fin 16) (addr : Word) (bs : List Byte) : State :=
  let x := s.vale v
  let t := s.setVale v { x with outgoing := x.outgoing ++ [(addr, bs)] }
  if x.outgoing.isEmpty then sendStore t v else t

/-! ## Nodes (R51, R52, R328) -/

/-- The graph numbered `g` of a vale. -/
def Vale.graph (x : Vale) (g : Nat) : Option Graph := x.graphs.find? fun y => decide (y.num = g)

/-- Change one graph. -/
def Vale.setGraph (x : Vale) (y : Graph) : Vale :=
  { x with graphs := x.graphs.map fun z => if z.num = y.num then y else z }

/-- A node of a graph. -/
def Vale.node (x : Vale) (g n : Nat) : Option Node := (x.graph g).bind fun y => y.nodes[n]?

/-- Change one node. -/
def Vale.setNode (x : Vale) (g n : Nat) (f : Node → Node) : Vale :=
  match x.graph g with
  | some y => x.setGraph { y with nodes := y.nodes.modify n f }
  | none => x

/-- Put an entry at the tail of a FIFO with age zero (R52, R53). -/
def Vale.push (x : Vale) (f : Fin 4) (e : Ready) : Vale := { x with fifos := x.fifos.set f (x.fifos[f] ++ [e]) }

/-- Queue a node's instances (R52). -/
def Vale.queueNode (x : Vale) (now g n : Nat) : Vale :=
  match x.node g n with
  | some nd => x.push nd.prio { graph := g, node := n, next := 0, since := now, again := none }
  | none => x

/-- A node becomes ready: its predicate is to be read, or its instances are queued (R51). -/
def Vale.readyNode (x : Vale) (now g n : Nat) : Vale :=
  match x.node g n with
  | some nd => if nd.predAt ≠ 0 then { x with preds := x.preds ++ [(g, n)] } else x.queueNode now g n
  | none => x

/-- A node retires: its successors' counts go down in list order (R328). -/
def Vale.retireNode (x : Vale) (now g n : Nat) : Vale :=
  match x.node g n with
  | none => x
  | some nd =>
    nd.succs.foldl (fun x m =>
      let x := x.setNode g m fun y => { y with preds := y.preds - 1 }
      match x.node g m with
      | some y => if y.preds = 0 then x.readyNode now g m else x
      | none => x) (x.setNode g n fun y => { y with retired := true })

/-- A graph with no node left completes: it leaves, and its completion word is written (R328, R329). -/
def finishGraph (s : State) (v : Fin 16) (g : Nat) : State :=
  match (s.vale v).graph g with
  | some y =>
    if y.nodes.all (·.retired) then
      let x := s.vale v
      graphStore (s.setVale v { x with graphs := x.graphs.filter fun z => !decide (z.num = g) }) v y.doneAt
        (toBytes 8 y.doneVal.toNat)
    else s
  | none => s

/-- Retire a node and, with its last, the graph. -/
def retireAndFinish (s : State) (v : Fin 16) (g n : Nat) : State :=
  finishGraph (s.setVale v ((s.vale v).retireNode s.now.toNat g n)) v g

/-- An instance has halted; the node retires with its last (R328). -/
def instanceHalted (s : State) (t : Task) : State :=
  let x := (s.vale t.vale).setNode t.graph t.node fun y => { y with halted := y.halted + 1 }
  let s := s.setVale t.vale x
  match x.graph t.graph, x.node t.graph t.node with
  | some y, some nd =>
    if nd.halted = nd.count && !nd.retired && !y.aborted then retireAndFinish s t.vale t.graph t.node else s
  | _, _ => s

/-- Where a task that is to run again enters FIFO 3: at its head, behind those discarded before it (R56). -/
def insertAgain (e : Ready) : List Ready → List Ready
  | [] => [e]
  | x :: xs => if x.again.isSome then x :: insertAgain e xs else e :: x :: xs

/-- A discarded task re-enters the pool, if its graph still runs (R56). -/
def requeueTask (s : State) (t : Task) (snap : Option Snapshot) : State :=
  let x := s.vale t.vale
  match x.graph t.graph with
  | some y =>
    if y.aborted then s
    else
      let e : Ready := { graph := t.graph, node := t.node, next := t.inst, since := s.now.toNat,
                         again := some { inst := t.inst, snap := snap } }
      s.setVale t.vale { x with fifos := x.fifos.set 3 (insertAgain e x.fifos[3]) }
  | none => s

/-- Some core runs a task of the graph. -/
def graphRuns (s : State) (v : Fin 16) (g : Nat) : Bool :=
  s.cores.toList.any fun k => match k.task with
    | some t => decide (t.vale = v) && decide (t.graph = g)
    | none => false

/-! ## The end of a task on its core -/

/-- Scratchpad banks a write to GATE_BANKS asked for are gated once no allocation holds them; a gated bank keeps no byte
(R214, R323). -/
def settleGates (s : State) (c : Fin 256) : State :=
  let want := s.hub.gateBanks[c]
  let new := want &&& ~~~ s.hub.offBanks[c]
  let held : BitVec 32 := match (s.core c).task with
    | some t => (List.range 32).foldl (fun m b =>
        if rangesMeet t.alloc t.size (b * 2 ^ 16) (2 ^ 16) then m ||| BitVec.ofNat 32 (2 ^ b) else m) 0
    | none => 0
  let take := new &&& ~~~ held
  let k := s.core c
  let scratch := (List.range 32).foldl (fun m b => if take.getLsbD b then memClear m (b * 2 ^ 16) (2 ^ 16) else m) k.scratch
  let s := s.setCore c { k with scratch := scratch }
  let s := { s with poison := s.poison.filter fun p => match p with
      | .scratch c' w => !(decide (c' = c) && take.getLsbD (w / 2 ^ 13))
      | _ => true }
  let h := s.hub
  { s with hub := { h with offBanks := h.offBanks.set c (h.offBanks[c] ||| take)
                           wakingBanks := h.wakingBanks.set c (h.wakingBanks[c] &&& ~~~ take) } }

/-- The reservations of a core end (R225, R307). -/
def endBulk (s : State) (c : Fin 256) : State := { s with bulk := s.bulk.filter fun b => !decide (b.core = c) }

/-- Every engine queue is empty and no record is active; basins that were being filled are invalid and none is held; reservations
end, and answers to the core's requests that are still out will reach nothing (R307). -/
def stopEngines (s : State) (c : Fin 256) : State :=
  let s := dropRequests (endBulk s c) fun r => decide (r.core = c) && (match r.who with
    | .graph _ => false
    | _ => true)
  let s := (List.finRange 4).foldl (fun s e => askNoMore s c (.engine e)) s
  let k := s.core c
  let s := s.setCore c { k with engines := Vector.replicate 4 Engine.zero, pinFill := none
                                basins := k.basins.map fun b => { b with holder := [] } }
  (List.finRange 32).foldl (fun s b =>
    let x : Basin := (s.core c).basins[b]
    if x.unfilled || decide (x.st = .stale) then invalidate s c b else s) s

/-- Discard the packets that a core has open (R25, R307). -/
def dropPackets (s : State) (c : Fin 256) : State :=
  { s with hub := { s.hub with opens := s.hub.opens.filter fun p => !decide (p.src = .core c) } }

/-- The core gives up its task: its queues, its stream, its pins and its allocation (R127, R307). -/
def vacate (s : State) (c : Fin 256) (run : RunState) : State :=
  let s := stopEngines s c
  let k := releasePins (s.core c)
  settleGates (s.setCore c { k with
    task := none, run := run, stop := none, commit := false, isSealed := false, snap := none, opening := none,
    bankOut := 0, bankStats := [], enqGot := [], laneFault := none, poisoned := none, due := false, opens := false,
    waitsOn := none, starved := false, steer := [],
    scales := [], lane := LaneSlice.zero,
    ls := { k.ls with lq := [], sq := [], held := [], buf := [], lane := false, vended := false, forkId := 0 } }) c

/-! ## Discard (R307) -/

/-- The task neither issues nor will: it is trapped or captured (R299, R310). -/
def Core.atRest (k : Core) : Bool := decide (k.run = .trapped) || decide (k.run = .captured)

/-- Ask a core to capture or discard its task; a trapped or captured task stays where it is, others issue on until the command
proceeds (R307, R310). -/
def requestDiscard (k : Core) (why : StopWhy) : Core :=
  { k with run := if k.atRest then k.run else .stopping, stop := some why }

/-- An atomic of the core has issued and is neither performed nor refused (R275). -/
def atomicInFlight (k : Core) : Bool := k.ls.sq.any fun e => (heldFault k.ls e).isNone && (match e.kind with
  | .amo .. | .cas .. => true
  | _ => false)

/-- A store has left the store queue and is neither performed nor refused (R307). -/
def storeSent (k : Core) : Bool := k.ls.sq.any fun e => e.sent.isSome && (heldFault k.ls e).isNone

/-- The discard may proceed: no atomic in flight, the task not sealed unless it can no longer end the seal (it is trapped, R310, or
captured, log 40), every store that was sent performed (R307). -/
def discardReady (k : Core) : Bool := !atomicInFlight k && (!k.isSealed || k.atRest) && !storeSent k

/-- Fail a graph: none of its instances is dispatched, every other task of it is aborted. -/
def abortGraph (s : State) (v : Fin 16) (g : Nat) : State :=
  let x := s.vale v
  match x.graph g with
  | none => s
  | some y =>
    let x := x.setGraph { y with aborted := true }
    let x := { x with fifos := x.fifos.map fun q => q.filter fun e => !decide (e.graph = g)
                      preds := x.preds.filter fun p => !decide (p.1 = g) }
    let s := s.setVale v x
    { s with cores := s.cores.map fun k =>
        match k.task with
        | some t => if t.vale = v ∧ t.graph = g ∧ (k.stop = none ∨ k.stop = some .capture) then
            requestDiscard k .abort else k
        | none => k }

/-- The discard itself; a task trapped while sealed is aborted instead (R310). -/
def discardTask (s : State) (c : Fin 256) (why : StopWhy) (next : RunState) : State :=
  let k := s.core c
  match k.task with
  | none => s.setCore c { k with run := next, stop := none }
  | some t =>
    let snap := k.snap
    let lost := k.isSealed
    let s := dropPackets (vacate s c next) c
    match why with
    | .discard | .leave =>
      if lost then abortGraph s t.vale t.graph else requeueTask s t snap
    | _ => s

/-! ## The start of a task (R23, R304) -/

/-- Banks of a core that are awake (R214). -/
def awakeBanks (s : State) (c : Fin 256) : BitVec 32 :=
  ~~~ (s.hub.gateBanks[c] ||| s.hub.offBanks[c] ||| s.hub.wakingBanks[c])

/-- The places of an allocation of `size` bytes in an idle core: multiples of 4,096 in a run of awake banks (R23, R54). -/
def allocPlaces (s : State) (c : Fin 256) (size : Nat) : List Nat :=
  ((List.range 512).map (· * 4096)).filter fun a =>
    decide (a + size ≤ 2 ^ 21) &&
    (List.range 32).all fun b => !rangesMeet a size (b * 2 ^ 16) (2 ^ 16) || (awakeBanks s c).getLsbD b

/-- Place the declared barrier objects with their initial counts, then those of a snapshot (R23, R231). -/
def placeBars (m : Memory) (img : Image) (alloc : Nat) (snap : Option Snapshot) : Memory :=
  let m := img.syncs.foldl (fun m e => if e.kind = 3 then writeBar m (alloc + e.valA) ⟨e.valB, 0, 0⟩ else m) m
  match snap with
  | none => m
  | some p =>
    let m := p.bars.foldl (fun m (b : BitVec 6 × BitVec 128) =>
      match img.sync 3 b.1.toNat with
      | some e => memPut m (alloc + e.valA) 16 b.2.toNat
      | none => m) m
    p.stats.foldl (fun m (x : Nat × BitVec 128) => memPut m (alloc + x.1) 16 x.2.toNat) m

/-- The named registers at a start or restart (R23, R304). -/
def startRegs (t : Task) (c : Fin 256) (snap : Option Snapshot) : Vector Slot 16 :=
  let base : Word := 0x0200000000000000 + BitVec.ofNat 64 t.alloc
  Vector.ofFn fun k : Fin 16 =>
    .val (match k.val with
      | 3 => base
      | 4 => BitVec.ofNat 64 c.val
      | j => match snap with
        | some p => if p.live.getLsbD j then p.n[k] else 0
        | none => match j with
          | 0 => t.args
          | 1 => BitVec.ofNat 64 t.inst
          | 2 => BitVec.ofNat 64 t.count
          | 5 => t.image
          | _ => 0)

/-- The lane slice at a start, or at the restart point of a snapshot (R137, R304). -/
def startLane (snap : Option Snapshot) : LaneSlice :=
  match snap with
  | some { lane := .point pc levels _ popDue, .. } => { LaneSlice.zero with pc := pc, levels := levels, popDue := popDue }
  | _ => LaneSlice.zero

/-- LS_STATUS.LANE, VENDED and FORK_ID at a start or restart. -/
def startStream (snap : Option Snapshot) : Bool × Bool × BitVec 8 :=
  match snap with
  | some { lane := .point _ _ f _, .. } => (true, false, f)
  | some { lane := .ended f lane vended, .. } => (lane, vended, f)
  | _ => (false, false, 0)

/-- The first lead address of a fresh task (R23). -/
def entryAddress (img : Image) : Word :=
  let off := match img.section 1 with
    | some x => x.off
    | none => 0
  img.base + BitVec.ofNat 64 (off + img.entry)

/-- The core begins a task, an acquire (R22, R23, R304). At a restart LS_REGION holds the REGION word's address, as R304 gives, where
R101 calls it 0 (log 70). The status records that the snapshot restores are taken again by the REGION that issues again (log 77). -/
def startTask (s : State) (c : Fin 256) (t : Task) (img : Image) (snap : Option Snapshot) : State :=
  let k := (acquireL1 s c).core c
  let st := startStream snap
  let ls : LeadSlice :=
    { LeadSlice.zero with
      pc := match snap with
        | some p => p.pc
        | none => entryAddress img
      n := startRegs t c snap, lane := st.1, vended := st.2.1, forkId := st.2.2,
      region := match snap with
        | some p => p.pc
        | none => 0
      cause := k.ls.cause, epc := k.ls.epc, tval := k.ls.tval }
  let s := clearPoisonStart s c t img snap
  let k := { (s.core c) with l1 := k.l1 }
  s.setCore c { k with
    ls := ls, steer := [], lane := startLane snap, engines := Vector.replicate 4 Engine.zero, pinFill := none,
    scratch := placeBars k.scratch img t.alloc snap, task := some t, run := .running, stop := none, commit := false,
    isSealed := false, snap := snap, opening := none, bankOut := 0,
    bankStats := match snap with
      | some p => p.stats
      | none => []
    enqGot := [], laneFault := none, poisoned := none, due := false, opens := false, waitsOn := none, starved := false,
    resumePast := false, ctxValid := false, scales := [],
    pins := match snap with
      | some p => p.pins
      | none => [] }
where
  /-- The placed objects and the status records of the snapshot are written whole (R312). -/
  clearPoisonStart (s : State) (c : Fin 256) (t : Task) (img : Image) (snap : Option Snapshot) : State :=
    let s := img.syncs.foldl (fun s e => if e.kind = 3 then clearPoison s (.scratch c) (t.alloc + e.valA) 16 else s) s
    match snap with
    | some p => p.stats.foldl (fun s x => clearPoison s (.scratch c) (t.alloc + x.1) 16) s
    | none => s

end Sys2Proof.Machine
end

