-- ==== Sys2Proof/Machine/Loader.lean ====
section
/-! DEFINITION. Machine/Loader.lean: the loader engine (R10 to R18): reading an image, the checks of R16 in their order, loading,
measuring, unloading. -/
namespace Sys2Proof.Machine

/-! ## Reads by the hub engines -/

/-- Read `n` bytes from a global address of a vale, page by page; nothing where a page cannot be read. -/
def vaRead (s : State) (v : Fin 16) (va n : Nat) : Option (List Byte) :=
  if n = 0 then some []
  else if 2 ^ 56 < va + n then none
  else
    ((List.range ((va + n - 1) / 4096 + 1 - va / 4096)).mapM fun i =>
      let lo := max va ((va / 4096 + i) * 4096)
      let hi := min (va + n) ((va / 4096 + i + 1) * 4096)
      match translate s v lo .read with
      | .ok l => some (valeRead s v l.pa (hi - lo))
      | .error _ => none).map List.flatten

/-- The walks of a read of `n` bytes, page by page, read their table entries (R269). -/
def noteRange (s : State) (v : Fin 16) (va n : Nat) : State :=
  if n = 0 then s
  else (List.range ((va + n - 1) / 4096 + 1 - va / 4096)).foldl (fun s i => noteWalk s v ((va / 4096 + i) * 4096)) s

/-- The number in `n` bytes from offset `off` of a byte string. -/
def numAt (bs : List Byte) (off n : Nat) : Nat := ofBytes ((bs.drop off).take n)

/-! ## Conditions (R16, R27, R37, R331) -/

/-- A scrub or teardown of the vale is in progress. -/
def scrubbing (s : State) (v : Fin 16) : Bool := (s.vale v).iface.scrubBusy || decide (s.hub.teardown = some v)

/-- LOAD and UNLOAD answer NOT_RUNNING (R16, R27). -/
def loadRefused (s : State) (v : Fin 16) : Bool :=
  decide ((s.vale v).iface.phase = .error) || scrubbing s v || !keyed s v

/-- LAUNCH answers NOT_RUNNING (R27). -/
def launchRefused (s : State) (v : Fin 16) : Bool :=
  decide ((s.vale v).iface.phase = .locked) || loadRefused s v || decide ((s.vale v).cores = 0)

/-- Every page from `va` on for `n` bytes is mapped readable (R16 NOT_MAPPED). -/
def pagesReadable (s : State) (v : Fin 16) (va n : Nat) : Bool := (vaRead s v va n).isSome

/-! ## Parsing (R10 to R13) -/

/-- The section table entry in 32 bytes. -/
def parseSection (bs : List Byte) : Section := { kind := numAt bs 0 1, len := numAt bs 4 4, off := numAt bs 8 8, sig := numAt bs 16 8 }

/-- The entry's reserved bytes are zero (R11). -/
def sectionReserved (bs : List Byte) : Bool := decide (numAt bs 1 3 = 0) && decide (numAt bs 24 8 = 0)

/-- The image that a header page describes, without its sync table. -/
def parseImage (base : Word) (page : List Byte) : Image :=
  { base := base, len := numAt page 8 8, signer := numAt page 17 1, entry := numAt page 20 4, scratch := numAt page 24 4,
    sections := (List.range (min (numAt page 16 1) 16)).map fun i => parseSection ((page.drop (128 + 32 * i)).take 32),
    syncs := [], leaving := false }

/-- The sync entries of a section's bytes (R13). -/
def parseSyncs (n : Nat) (bs : List Byte) : List SyncEntry :=
  (List.range n).map fun i =>
    let e := (bs.drop (16 * i)).take 16
    { kind := numAt e 0 1, id := numAt e 1 1, valA := numAt e 4 4, valB := numAt e 8 4 }

/-! ## Checks (R16) -/

/-- Check 3: MAGIC, VER_MAJOR, HDR_SIZE. -/
def magicOk (page : List Byte) : Bool :=
  decide (numAt page 0 4 = 0x4D524E42) && decide (numAt page 4 1 = 1) && decide (numAt page 6 2 = 128)

/-- Check 4: IMG_LEN. -/
def lengthOk (n : Nat) : Bool := decide (4096 ≤ n) && decide (n % 4096 = 0) && decide (n ≤ 2 ^ 26)

/-- Unit, greatest count and greatest LEN of a section kind (R12). -/
def kindLimits (kind : Nat) : Option (Nat × Nat × Nat) :=
  match kind with
  | 1 => some (4, 1, 2 ^ 22)
  | 2 => some (8, 1, 2 ^ 32)
  | 3 => some (64, 1, 2 ^ 32)
  | 4 => some (1, 13, 2 ^ 32)
  | 5 => some (256, 1, 4096)
  | 6 => some (16, 1, 4096)
  | _ => none

/-- One section keeps R11 and R12 within its image. -/
def sectionOk (img : Image) (x : Section) : Bool :=
  match kindLimits x.kind with
  | none => false
  | some (unit, count, most) =>
    decide (0 < x.len) && decide (x.len % unit = 0) && decide (x.len ≤ most) && decide (x.off % 4096 = 0) &&
    decide (4096 ≤ x.off) && decide (x.off + x.len ≤ img.len) && decide (x.sig % 8 = 0) &&
    decide (x.sig + 96 ≤ img.len) && (img.sections.all fun y => decide (y.off + y.len ≤ x.sig)) &&
    decide ((img.sections.filter fun y => decide (y.kind = x.kind)).length ≤ count)

/-- No two of a list of ranges meet. -/
def disjoint (rs : List (Nat × Nat)) : Bool :=
  match rs with
  | [] => true
  | r :: rest => (rest.all fun q => !rangesMeet r.1 r.2 q.1 q.2) && disjoint rest

/-- Check 7 apart from fork tokens: every breach of R10, R11 and R12. -/
def layoutOk (img : Image) (page : List Byte) : Bool :=
  let n := numAt page 16 1
  decide (img.base.toNat % 4096 = 0) && decide (1 ≤ n) && decide (n ≤ 16) && decide (img.signer ≤ 7) &&
  decide (numAt page 18 2 = 0) && decide (img.entry % 4 = 0) && decide (img.scratch % 4096 = 0) &&
  decide (4096 ≤ img.scratch) && decide (img.scratch ≤ 2 ^ 21) && decide (numAt page 28 4 = 0) &&
  decide (numAt page 48 80 = 0) &&
  ((List.range n).all fun i => sectionReserved ((page.drop (128 + 32 * i)).take 32)) &&
  img.sections.all (sectionOk img) && disjoint (img.sections.map fun x => (x.off, x.len)) &&
  disjoint (img.sections.map fun x => (x.sig, 96)) &&
  (match img.section 1 with
   | some x => decide (img.entry < x.len)
   | none => false)

/-- The sync entry `e` keeps R13; `bs` are its 16 bytes. -/
def syncOk (img : Image) (laneLen : Nat) (bs : List Byte) (e : SyncEntry) : Bool :=
  decide (e.id ≤ 63) && decide (numAt bs 2 2 = 0) && decide (numAt bs 12 4 = 0) &&
  decide ((img.syncs.filter fun x => decide (x.kind = e.kind) && decide (x.id = e.id)).length = 1) &&
  match e.kind with
  | 1 => decide (e.valA % 8 = 0) && decide (e.valA < laneLen) && decide (e.valB = 0)
  | 2 => (img.sync 1 e.valA).isSome && decide (e.valB = 0)
  | 3 => decide (e.valA % 16 = 0) && decide (e.valA + 16 ≤ img.scratch)
  | _ => false

/-- Check 8. -/
def syncsOk (img : Image) (bs : List Byte) : Bool :=
  let laneLen := match img.section 2 with
    | some x => x.len
    | none => 0
  ((List.range img.syncs.length).all fun i =>
    match img.syncs[i]? with
    | some e => syncOk img laneLen ((bs.drop (16 * i)).take 16) e
    | none => true) &&
  disjoint ((img.syncs.filter fun e => decide (e.kind = 3)).map fun e => (e.valA, 16))

/-- The image's range meets that of an image that is loaded (R16 BUSY). -/
def imageBusy (x : Vale) (img : Image) : Bool :=
  x.images.any fun i => rangesMeet img.base.toNat img.len i.base.toNat i.len

/-- Checks 2 to 9 of R16: the image, or the status of the first that fails. -/
def checkImage (s : State) (v : Fin 16) (base : Word) : Except Nat Image :=
  let b := base.toNat
  match (if topByte base = 0 then vaRead s v b 4096 else none) with
  | none => .error 2
  | some page =>
    if !magicOk page then .error 1
    else
      let img := parseImage base page
      if !lengthOk img.len then .error 4
      else if !pagesReadable s v b img.len then .error 2
      else if imageBusy (s.vale v) img then .error 3
      else if !layoutOk img page then .error 4
      else
        let sync := match img.section 6 with
          | some x => (vaRead s v (b + x.off) x.len).getD []
          | none => []
        let img := { img with syncs := parseSyncs (sync.length / 16) sync }
        if (img.syncs.any fun e => decide (e.kind = 1)) && (img.section 2).isNone then .error 4
        else if !syncsOk img sync then .error 5
        else if (s.sec.signers[(BitVec.ofNat 3 img.signer).toFin]).isNone then .error 6
        else .ok img

/-- The segment digest D of section `i` (R14). -/
def segmentDigest (s : State) (v : Fin 16) (img : Image) (i : Nat) (x : Section) : Option (List Byte) := do
  let hdr ← vaRead s v img.base.toNat 128
  let entry ← vaRead s v (img.base.toNat + 128 + 32 * i) 32
  let body ← vaRead s v (img.base.toNat + x.off) x.len
  return sha384 (hdr ++ entry ++ body)

/-- Every segment digest, in section-table order. -/
def imageDigests (s : State) (v : Fin 16) (img : Image) : Option (List (List Byte)) :=
  (List.range img.sections.length).mapM fun i => do
    let x ← img.sections[i]?
    segmentDigest s v img i x

/-- Check 10: every signature verifies against signer slot SIGNER (R14). -/
def signaturesOk (s : State) (v : Fin 16) (img : Image) (ds : List (List Byte)) : Bool :=
  match s.sec.signers[(BitVec.ofNat 3 img.signer).toFin] with
  | none => false
  | some key =>
    (img.sections.zip ds).all fun p =>
      match vaRead s v (img.base.toNat + p.1.sig) 96 with
      | some sig => ecdsaVerify (key.1.toNat, key.2.toNat) p.2 sig
      | none => false

/-- The 64 words of a handler slot. -/
def slotWords (bs : List Byte) : List (BitVec 32) := (List.range 64).map fun i => BitVec.ofNat 32 (numAt bs (4 * i) 4)

/-- Check 11: every slot of the bank section may be installed, or is all zero and installs nothing (R97). -/
def handlersOk (s : State) (v : Fin 16) (img : Image) : Bool :=
  match img.section 5 with
  | none => true
  | some x =>
    match vaRead s v (img.base.toNat + x.off) x.len with
    | some bs => (List.range (x.len / 256)).all fun h =>
      let ws := slotWords (bs.drop (256 * h))
      ws.all (fun w => decide (w = 0)) || handlerSlotOk ws
    | none => false

/-! ## Commands (R15, R18, R27) -/

/-- Drop the translations and the L1 words of the vale's ASID within a range, and the lines of it that its cores' fetch buffers read
ahead from an image that stood there before: the shootdown of a write-deny (R15, R69, R198). -/
def shootRange (s : State) (v : Fin 16) (va n : Nat) : State :=
  let asid := asidOf s v
  let s := shootPages s asid fun e => rangesMeet (e.page * 2 ^ 12) (2 ^ 12) va n
  let keep (buf : List FetchLine) : List FetchLine := buf.filter fun x => !rangesMeet (x.line * 128) 128 va n
  { s with cores := s.cores.map fun k =>
      let mine : Bool := match k.task with
        | some t => decide (t.vale = v)
        | none => false
      { k with
        l1 := k.l1.filter fun x => !(decide (x.asid = asid) && rangesMeet (x.va8 * 8) 8 va n)
        ls := if mine then { k.ls with buf := keep k.ls.buf } else k.ls
        lane := if mine then { k.lane with buf := keep k.lane.buf } else k.lane } }

/-- The vale whose graph engine is in turn. -/
def graphInTurn (s : State) : Option (Fin 16) :=
  match s.turn with
  | .graph v => some v
  | _ => none

/-- Write the response record of a command (R27). -/
def respond (s : State) (v : Fin 16) (addr : Word) (tag : BitVec 32) (cmd status reason node : Nat) : State :=
  graphStore s v addr (toBytes 4 tag.toNat ++ [BitVec.ofNat 8 cmd, BitVec.ofNat 8 status] ++ toBytes 2 reason ++
    toBytes 4 node ++ toBytes 4 0)

/-- A command at the head of a vale's launch queue (R26). -/
structure Command where
  cmd  : Nat
  w    : List Word
  tag  : BitVec 32
  deriving DecidableEq, Repr

/-- The command that the graph engine in turn takes next, unless it still loads an image (R27). -/
def nextCommand (s : State) : Option (Fin 16 × Command) := do
  let v ← graphInTurn s
  let x := s.vale v
  if x.load.isSome then none
  let p ← x.commands.head?
  let w0 ← p.words[0]?
  return (v, { cmd := w0.toNat % 256, w := p.words, tag := w0.extractLsb' 32 32 })

/-- Word `i` of a command. -/
def Command.word (c : Command) (i : Nat) : Word := c.w.getD i 0

/-- The head command leaves the queue. -/
def popCommand (s : State) (v : Fin 16) : State :=
  s.setVale v { s.vale v with commands := (s.vale v).commands.tail }

/-- A store or atomic of the vale's tasks that was issued before can still write `n` bytes from `va` on (log 31). -/
def writesInFlight (s : State) (v : Fin 16) (va n : Nat) : Bool :=
  s.cores.toList.any fun k => (match k.task with
      | some t => decide (t.vale = v)
      | none => false) &&
    k.ls.sq.any fun e => match e.kind with
      | .store a m _ _ _ (.dram _ _) => rangesMeet a.toNat m va n
      | .amo a m _ _ (.dram _ _) => rangesMeet a.toNat m va n
      | .cas a m _ _ (.dram _ _) => rangesMeet a.toNat m va n
      | _ => false

/-- A load command of the vale waits for the loader engine (R15, R47 CLASS). -/
def asksLoader (s : State) (v : Fin 16) : Bool :=
  let x := s.vale v
  x.load.isNone && (match x.commands.head? with
    | some p => (match p.words[0]? with
      | some w => decide (w.toNat % 256 = 2)
      | none => false)
    | none => false)

/-- IMG_LEN as the header page at `base` gives it, where R16 allows it; 0 else. -/
def headerLength (s : State) (v : Fin 16) (base : Word) : Nat :=
  match (if topByte base = 0 then vaRead s v base.toNat 4096 else none) with
  | some page => let n := numAt page 8 8; if lengthOk n then n else 0
  | none => 0

/-- LOAD: checks 1 to 9 when the loader engine serves the vale (R47; log 60); the pages are write-denied from here to the end of the
command (R15), once no store in flight can write them (log 31), and are shot down before they are read. It waits for DRAM banks that
copy channels hold (R224). -/
def execLoad (s : State) : Out :=
  match nextCommand s with
  | some (v, c) =>
    if c.cmd ≠ 2 ∨ arbitrates s (asksLoader s) s.hub.lastLoad v = false then .next s
    else
      let t := s
      let s := popCommand { s with hub := { s.hub with lastLoad := v } } v
      let answer (s : State) (status : Nat) : Out := .next (respond s v (c.word 2) c.tag 2 status 0 0)
      if loadRefused s v then answer s 10
      else
        let base := (c.word 1).toNat
        let s := shootRange s v base 4096
        let len := headerLength s v (c.word 1)
        let s := shootRange s v base len
        if rangeHeld s v base (max len 4096) .read then .next t
        else
          match checkImage s v (c.word 1) with
          | .error status => answer (noteRange s v base (max len 4096)) status
          | .ok img =>
            if writesInFlight s v img.base.toNat img.len then .next t
            else
              let s := noteRange s v base len
              .next (s.setVale v { s.vale v with load := some { resp := c.word 2, tag := c.tag, image := img } })
  | none => .next s

/-- Extend the attestation record with digests in order (R15, R38). -/
def extendRecord (x : Vale) (ds : List (List Byte)) : Vale :=
  ds.foldl (fun x d =>
    { x with meas := BitVec.ofNat 384 (ofBytes (sha384 (toBytes 48 x.meas.toNat ++ d))), exts := x.exts + 1 }) x

/-- LOAD_COMPLETE: checks 10 and 11, the measurement, LOADED (R15, R16); a section that can no longer be read gives NOT_MAPPED
(log 31). -/
def execLoadComplete (s : State) : Out :=
  match graphInTurn s with
  | none => .next s
  | some v =>
    match (s.vale v).load with
    | none => .next s
    | some j =>
      let img := j.image
      if rangeHeld s v img.base.toNat img.len .read then .next s
      else
      let s := noteRange (s.setVale v { s.vale v with load := none }) v img.base.toNat img.len
      let answer (s : State) (status : Nat) : Out := .next (respond s v j.resp j.tag 2 status 0 0)
      match imageDigests s v img with
      | none => answer s 2
      | some ds =>
        if !signaturesOk s v img ds then answer s 7
        else if !handlersOk s v img then answer s 8
        else
          let x := extendRecord (s.vale v) ds
          answer (s.setVale v { x with images := x.images ++ [img] }) 0

/-- The unload of the image at `base` has been requested. -/
def Vale.leaveImage (x : Vale) (base : Word) : Vale :=
  { x with images := x.images.map fun i => if decide (i.base = base) then { i with leaving := true } else i }

/-- UNLOAD (R18). -/
def execUnload (s : State) : Out :=
  match nextCommand s with
  | some (v, c) =>
    if c.cmd ≠ 3 then .next s
    else
      let s := popCommand s v
      let answer (s : State) (status : Nat) : Out := .next (respond s v (c.word 2) c.tag 3 status 0 0)
      let x := s.vale v
      if loadRefused s v then answer s 10
      else if (x.images.any fun i => decide (i.base = c.word 1)) then
        answer (s.setVale v (x.leaveImage (c.word 1))) 0
      else answer s 9
  | none => .next s

/-- A task runs the image, or a graph in flight names it (R18). -/
def imageUsed (s : State) (v : Fin 16) (base : Word) : Bool :=
  (s.cores.toList.any fun k => match k.task with
    | some t => decide (t.vale = v) && decide (t.image = base)
    | none => false) ||
  (s.vale v).graphs.any fun g => g.nodes.any fun n => decide (n.image = base)

/-- IMAGE_UNLOAD_COMPLETE (R18). -/
def execImageUnloadComplete (v : Fin 16) (base : Word) (s : State) : Out :=
  let x := s.vale v
  let there : Bool := x.images.any fun i => decide (i.base = base) && i.leaving
  if there && !imageUsed s v base then
    .next (s.setVale v { x with images := x.images.filter fun i => !decide (i.base = base) })
  else .next s

end Sys2Proof.Machine
end

