-- ==== Sys2Proof/Machine/GraphEngine.lean ====
section
/-! DEFINITION. Machine/GraphEngine.lean: launches (R19, R20, R26, R27), predicates (R51), dispatch, ages and the shadow (R52 to
R54), the end of an aborted graph (R330). -/
namespace Sys2Proof.Machine

/-! ## Launch packets (R26) -/

/-- The packet is one the launch window delivers: a defined CMD, its word count, no nonzero reserved bit, no misaligned
address, a node count (R26). -/
def launchPacketOk (ws : List Word) : Bool :=
  let w (i : Nat) : Nat := (ws.getD i 0).toNat
  decide (bits (w 0) 15 8 = 0) &&
  match w 0 % 256 with
  | 1 => decide (ws.length = 8) && decide (bits (w 0) 31 16 ≠ 0) && decide (w 1 % 64 = 0) && decide (w 2 % 4 = 0) &&
    decide (w 3 / 2 ^ 32 = 0) && decide (w 4 % 8 = 0) && decide (w 6 % 16 = 0) && decide (w 7 = 0)
  | 2 | 3 => decide (ws.length = 3) && decide (bits (w 0) 31 16 = 0) && decide (w 2 % 16 = 0)
  | _ => false

/-! ## Node checks (R19, R20) -/

/-- A node that has been read, with the place of its successors. -/
structure RawNode where
  node  : Node
  first : Nat
  count : Nat
  preds : Nat
  deriving DecidableEq, Repr

/-- The descriptor in 128 bytes; nothing where a field breaks R19. -/
def parseNode (bs : List Byte) : Option RawNode :=
  let w (off : Nat) : Word := BitVec.ofNat 64 (numAt bs off 8)
  let prio := numAt bs 22 1
  let tiles := numAt bs 23 1
  let tileWords := (List.range 8).map fun k => w (48 + 8 * k)
  let ok := (decide (topByte (w 8) = 0) || decide (topByte (w 8) = 1)) && decide ((w 8).toNat % 8 = 0) &&
    decide (1 ≤ numAt bs 16 4) && decide (numAt bs 16 4 ≤ 16777216) && decide (prio < 4) && decide (tiles ≤ 8) &&
    decide (topByte (w 24) = 0) && decide ((w 24).toNat % 4 = 0) && decide (numAt bs 38 10 = 0) &&
    decide (numAt bs 112 16 = 0) &&
    ((List.range 8).all fun k =>
      let x := tileWords.getD k 0
      if k < tiles then decide (topByte x = 0) && decide (x.toNat % 64 = 0) else decide (x = 0))
  if ok then
    some
      { node := { image := w 0, args := w 8, count := numAt bs 16 4, preds := numAt bs 20 2, prio := (BitVec.ofNat 2 prio).toFin,
                  tiles := tileWords.take tiles, predAt := w 24, succs := [], halted := 0, retired := false }
        first := numAt bs 32 4, count := numAt bs 36 2, preds := numAt bs 20 2 }
  else none

/-- A read of the graph engine from the global window; an empty range is not read (R20). -/
def graphRead (s : State) (v : Fin 16) (va : Word) (n : Nat) : Option (List Byte) :=
  if n = 0 then some [] else if topByte va = 0 then vaRead s v va.toNat n else none

/-- Checks 1 to 3 of R20 for node `i`: the node with its successors, or the reason. -/
def checkNode (s : State) (v : Fin 16) (table succ : Word) (total len i : Nat) : Except Nat Node :=
  match (graphRead s v (table + BitVec.ofNat 64 (128 * i)) 128).bind parseNode with
  | none => .error 1
  | some r =>
    if !((s.vale v).images.any fun x => decide (x.base = r.node.image) && !x.leaving) then .error 2
    else if len < r.first + r.count then .error 3
    else
      match graphRead s v (succ + BitVec.ofNat 64 (4 * r.first)) (4 * r.count) with
      | none => .error 3
      | some bs =>
        let succs := (List.range r.count).map fun j => numAt bs (4 * j) 4
        if succs.all fun m => decide (m < total) then .ok { r.node with succs := succs } else .error 3

/-- Checks 1 to 3 over nodes `i`, `i + 1`, …: the nodes, or the failing node and the reason. -/
def checkNodes (s : State) (v : Fin 16) (table succ : Word) (total len : Nat) : Nat → Nat → Except (Nat × Nat) (List Node)
  | _, 0 => .ok []
  | i, k + 1 =>
    match checkNode s v table succ total len i with
    | .error e => .error (i, e)
    | .ok n => (checkNodes s v table succ total len (i + 1) k).map fun ns => n :: ns

/-- How often node `i` stands in the successor lists (R20 check 4). -/
def predsOf (ns : List Node) (i : Nat) : Nat := (ns.map fun n => n.succs.count i).sum

/-- The successors of a node as a set of bits. -/
def succMask (n : Node) : Nat := n.succs.foldl (fun m i => m ||| 2 ^ i) 0

/-- Add to a set the successors of its members, `k` times. -/
def closure (masks : List Nat) : Nat → Nat → Nat
  | set, 0 => set
  | set, k + 1 =>
    closure masks ((List.range masks.length).foldl (fun m i => if set.testBit i then m ||| masks.getD i 0 else m) set) k

/-- The lowest node on a cycle (R20 check 5). -/
def cycleNode (ns : List Node) : Option Nat :=
  let masks := ns.map succMask
  (List.range ns.length).find? fun i => (closure masks (masks.getD i 0) ns.length).testBit i

/-- The checks of R20: the nodes, or NODE and the reason. -/
def checkGraph (s : State) (v : Fin 16) (table succ : Word) (total len : Nat) : Except (Nat × Nat) (List Node) :=
  if 16384 < total then .error (16384, 1)
  else
    match checkNodes s v table succ total len 0 total with
    | .error e => .error e
    | .ok ns =>
      match (List.range total).find? fun i => decide ((ns.map (·.preds)).getD i 0 ≠ predsOf ns i) with
      | some i => .error (i, 4)
      | none => match cycleNode ns with
        | some i => .error (i, 5)
        | none => .ok ns

/-- The vale holds too many graphs or nodes for `total` more (R27 ENGINE_FULL); every node of a graph in flight
counts, a retired one too (log 65). -/
def engineFull (x : Vale) (total : Nat) : Bool :=
  decide (64 ≤ x.graphs.length) || decide (65536 < (x.graphs.map fun g => g.nodes.length).sum + total)

/-- Take a graph into flight; its nodes without predecessors are ready (R27, R51). -/
def acceptGraph (s : State) (v : Fin 16) (ns : List Node) (doneAt doneVal : Word) : State :=
  let num := s.hub.graphSeq + 1
  let x := s.vale v
  let x := { x with graphs := x.graphs ++ [{ num := num, nodes := ns, doneAt := doneAt, doneVal := doneVal, aborted := false }] }
  let x := (List.range ns.length).foldl (fun x i =>
    match x.node num i with
    | some n => if n.preds = 0 then x.readyNode s.now.toNat num i else x
    | none => x) x
  { s.setVale v x with hub := { s.hub with graphSeq := num } }

/-- The graph engine's read waits for a DRAM bank that a copy channel holds (R224). -/
def graphHeld (s : State) (v : Fin 16) (va : Word) (n : Nat) : Bool :=
  decide (n ≠ 0) && decide (topByte va = 0) && rangeHeld s v va.toNat n .read

/-- What a launch reads: the node table, and the successor ranges of the nodes that it gives (R20). -/
def launchReads (s : State) (v : Fin 16) (table succ : Word) (total len : Nat) : List (Word × Nat) :=
  (table, 128 * total) :: (List.range total).filterMap fun i =>
    match (graphRead s v (table + BitVec.ofNat 64 (128 * i)) 128).bind parseNode with
    | some r => if r.first + r.count ≤ len then some (succ + BitVec.ofNat 64 (4 * r.first), 4 * r.count) else none
    | none => none

/-- LAUNCH (R20, R27). It waits for DRAM banks that copy channels hold (R224). -/
def execLaunch (s : State) : Out :=
  match nextCommand s with
  | some (v, c) =>
    if c.cmd ≠ 1 then .next s
    else
      let t := s
      let s := popCommand s v
      let total := bits (c.word 0).toNat 31 16
      let len := (c.word 3).toNat % 2 ^ 32
      let answer (s : State) (status reason node : Nat) : Out := .next (respond s v (c.word 6) c.tag 1 status reason node)
      if launchRefused s v then answer s 3 0 0
      else if engineFull (s.vale v) total then answer s 2 0 0
      else
        let reads := if total ≤ 16384 then launchReads s v (c.word 1) (c.word 2) total len else []
        if reads.any fun r => graphHeld s v r.1 r.2 then .next t
        else
        let s := reads.foldl (fun s r => if topByte r.1 = 0 then noteRange s v r.1.toNat r.2 else s) s
        match checkGraph s v (c.word 1) (c.word 2) total len with
        | .error (n, reason) => answer s 1 reason n
        | .ok ns => answer (acceptGraph s v ns (c.word 4) (c.word 5)) 0 0 0
  | none => .next s

/-! ## Predicates (R51) -/

/-- PREDICATE_READ_COMPLETE: which of the reads in progress completes is the device's choice (log 15). -/
def execPredicateReadComplete (s : State) : Out :=
  match graphInTurn s with
  | none => .next s
  | some v =>
    let x := s.vale v
    match x.preds[Config.pick s.ticks % x.preds.length]? with
    | none => .next s
    | some p =>
      let x := { x with preds := x.preds.erase p }
      match x.node p.1 p.2 with
      | none => .next (s.setVale v x)
      | some n =>
        if graphHeld s v n.predAt 4 then .next s
        else
        let s := noteRange s v n.predAt.toNat 4
        match graphRead s v n.predAt 4 with
        | some bs =>
          if ofBytes bs ≠ 0 then .next (s.setVale v (x.queueNode s.now.toNat p.1 p.2))
          else .next (retireAndFinish (s.setVale v x) v p.1 p.2)
        | none =>
          let x := { x with predErr := true, predNode := if x.predErr then x.predNode else BitVec.ofNat 16 p.2 }
          .next (retireAndFinish (s.setVale v x) v p.1 p.2)

/-! ## Dispatch (R52, R54) -/

/-- A core of the vale that is idle, and that no resize is taking away (R52, R61). -/
def idleCore (s : State) (v : Fin 16) (c : Fin 256) : Bool :=
  let x := s.vale v
  x.cores.getLsbD c && decide ((s.core c).run = .idle) && (s.core c).task.isNone &&
  (match x.resize with
   | some r => !r.leaveC.getLsbD c
   | none => true)

/-- The affinity score of a core for a node (R54). -/
def affinity (x : Vale) (c : Fin 256) (tiles : List Word) : Nat :=
  (tiles.filter fun t => x.shadow[c].any fun g => decide (g.asid = x.asid) && decide (g.hdr = t)).length

/-- The eligible core with the highest score, the first from P on among equals (R54). -/
def chooseCore (s : State) (v : Fin 16) (tiles : List Word) (size : Nat) : Option (Fin 256) :=
  let x := s.vale v
  (List.range 256).foldl (fun best i =>
    let c : Fin 256 := ⟨(x.rot.toNat + i) % 256, Nat.mod_lt _ (by decide)⟩
    if idleCore s v c && !(allocPlaces s c size).isEmpty then
      match best with
      | none => some c
      | some b => if affinity x b tiles < affinity x c tiles then some c else some b
    else best) none

/-- The head entry of the highest nonempty FIFO (R52). -/
def headEntry (x : Vale) : Option (Fin 4 × Ready) :=
  ([3, 2, 1, 0] : List (Fin 4)).findSome? fun f => (x.fifos[f].head?).map fun e => (f, e)

/-- The FIFO entry after one instance of it has been dispatched. -/
def nextEntry (e : Ready) (count : Nat) : Option Ready :=
  if e.again.isSome ∨ count ≤ e.next + 1 then none else some { e with next := e.next + 1 }

/-- DISPATCH (R52, R54): the place of the allocation among those that fit is the device's choice (log 15). -/
def execDispatch (s : State) : Out :=
  match graphInTurn s with
  | none => .next s
  | some v =>
    let x := s.vale v
    if !keyed s v || scrubbing s v then .next s
    else
      match headEntry x with
      | none => .next s
      | some (f, e) =>
        match x.node e.graph e.node with
        | none => .next s
        | some n =>
          match x.images.find? fun i => decide (i.base = n.image) with
          | none => .next s
          | some img =>
            match chooseCore s v n.tiles img.scratch with
            | none => .next s
            | some c =>
              let places := allocPlaces s c img.scratch
              let t : Task :=
                { vale := v, graph := e.graph, node := e.node, inst := e.next, image := n.image, args := n.args,
                  count := n.count, alloc := places.getD (Config.pick s.ticks % places.length) 0, size := img.scratch,
                  epoch := s.hub.epochs + 1 }
              let x := { x with
                fifos := x.fifos.set f ((nextEntry e n.count).toList ++ x.fifos[f].tail)
                rot := BitVec.ofNat 8 (c.val + 1) }
              let s := { s.setVale v x with hub := { s.hub with epochs := s.hub.epochs + 1 } }
              .next (startTask s c t img (e.again.bind (·.snap)))

/-! ## Ages and the shadow (R53, R54) -/

/-- FIFO_AGE_PROMOTION (R53). -/
def execFifoAgePromotion (v : Fin 16) (f : Fin 3) (s : State) : Out :=
  let x := s.vale v
  let lo : Fin 4 := f.castSucc
  let up : Fin 4 := f.succ
  match x.fifos[lo].find? fun e => decide (100000 < s.now.toNat - e.since) with
  | none => .next s
  | some e =>
    let x := { x with fifos := x.fifos.set lo (x.fifos[lo].erase e) }
    .next (s.setVale v (x.push up { e with since := s.now.toNat }))

/-- SHADOW_UPDATE: the oldest change of the core's basins reaches the shadow (R54). -/
def execShadowUpdate (v : Fin 16) (c : Fin 256) (s : State) : Out :=
  let x := s.vale v
  match x.lag.find? fun g => decide (g.core = c) with
  | none => .next s
  | some g =>
    let kept := x.shadow[c].filter fun t => !decide (t.basin = g.basin)
    .next (s.setVale v { x with lag := x.lag.erase g, shadow := x.shadow.set c (kept ++ g.tag.toList) })

/-! ## The end of an aborted graph (R330) -/

/-- GRAPH_ABORT_COMPLETE (R330). -/
def execGraphAbortComplete (v : Fin 16) (g : Nat) (s : State) : Out :=
  match (s.vale v).graph g with
  | some y =>
    if y.aborted && !graphRuns s v g then
      let x := s.vale v
      .next (graphStore (s.setVale v { x with graphs := x.graphs.filter fun z => !decide (z.num = g) }) v y.doneAt
        (toBytes 8 (y.doneVal ^^^ 0x8000000000000000).toNat))
    else .next s
  | none => .next s

end Sys2Proof.Machine
end

