-- ==== Sys2Proof/Machine/Iface.lean ====
section
/-! DEFINITION. Machine/Iface.lean: the interface block of a vale (R30 to R38): its registers, the state machine, the scrub, the
report; the scrub of a core (R61, R213). -/
namespace Sys2Proof.Machine

/-- Change a vale's interface. -/
def setIface (s : State) (v : Fin 16) (f : Iface) : State := s.setVale v { s.vale v with iface := f }

/-- CONFIG_LOCKED or RUN: the frozen registers are frozen (R35). -/
def Iface.frozen (f : Iface) : Bool := decide (f.phase = .locked) || decide (f.phase = .run)

/-! ## Scrubs (R37, R61, R213) -/

/-- Every basin of a core becomes invalid; the shadow learns of it (R54). -/
def scrubBasins (s : State) (c : Fin 256) : State :=
  (List.finRange 32).foldl (fun s b =>
    if ((s.core c).basins[b]).tagged then invalidate s c b else setBasin s c b Basin.zero) s

/-- A core is scrubbed (R61 step 4, R213): scratchpad, L1, rows, lane registers, belt, named and loop registers, queues,
basins, the packets that it has open (R25, R68); the task CSRs as well where `csrs` says so. -/
def scrubCore (s : State) (c : Fin 256) (csrs : Bool) : State :=
  let s := scrubBasins (dropPackets s c) c
  let k := s.core c
  let ls := if csrs then LeadSlice.zero
    else { LeadSlice.zero with cause := k.ls.cause, epc := k.ls.epc, tval := k.ls.tval }
  let s := s.setCore c { k with
    ls := ls, steer := [], lane := LaneSlice.zero, engines := Vector.replicate 4 Engine.zero, scratch := [], l1 := [],
    pins := [], scales := [] }
  { s with poison := s.poison.filter fun p => match p with
      | .scratch c' _ => !decide (c' = c)
      | _ => true }

/-- The cores of a mask. -/
def coresOf (m : BitVec 256) : List (Fin 256) := (List.finRange 256).filter fun c => m.getLsbD c

/-- The channels of a mask. -/
def channelsOf (m : BitVec 512) : List (Fin 512) := (List.finRange 512).filter fun c => m.getLsbD c

/-- Some core still holds a task of the vale. -/
def valeBusy (s : State) (v : Fin 16) : Bool := s.cores.toList.any fun k => match k.task with
  | some t => decide (t.vale = v)
  | none => false

/-- Step 2 of R37: graphs, a load in progress and every store of the graph engine that still waits go (R27, R345), every task is to be
discarded. -/
def dropWork (s : State) (v : Fin 16) : State :=
  let x := s.vale v
  let s := s.setVale v { x with
    load := none, graphs := [], fifos := Vector.replicate 4 [], preds := [], outgoing := [] }
  { s with cores := s.cores.map fun k => match k.task with
      | some t => if t.vale = v then requestDiscard k .scrub else k
      | none => k }

/-- The vale that owns any resource and names slot `k` (R39). -/
def namedBy (s : State) (k : BitVec 6) : Option (Fin 16) :=
  (List.finRange 16).find? fun v => (s.vale v).ownsAny && decide ((s.vale v).key = k)

/-- A key slot is zeroised: the vale that names it is not keyed until firmware writes VALE_KEY again (R39). -/
def zeroSlot (s : State) (k : Fin 64) : State :=
  let t := { s with sec := { s.sec with slots := s.sec.slots.set k none } }
  match namedBy s (BitVec.ofNat 6 k.val) with
  | some v => t.setVale v { t.vale v with keyLost := true }
  | none => t

/-- Steps 3 to 5 of R37: the key, the on-chip state, the images and the attestation record. -/
def scrubVale (s : State) (v : Fin 16) : State :=
  let x := s.vale v
  let s := if x.ownsAny then zeroSlot s x.key.toFin else s
  let s := (coresOf x.cores).foldl (fun s c => scrubCore s c false) s
  let s := (channelsOf x.channels).foldl (fun s ch =>
    s.setChan ch { s.chan ch with handlers := Vector.replicate 16 none }) s
  let s := shootPages s x.asid fun _ => true
  let s := dropLines s fun i _ => x.slices.getLsbD i.val
  s.setVale v { s.vale v with images := [], load := none, meas := 0, exts := 0 }

/-- A report in progress is abandoned, and IF_REPORT reads zero (R36). -/
def Iface.abandon (f : Iface) : Iface := { f with reportBusy := false, job := none, report := 0 }

/-- A scrub begins; the mailboxes are emptied (R34, R37), MBX_OUT as well, so that what firmware stores there during the scrub stays
(log 69). -/
def beginScrub (s : State) (v : Fin 16) (stopping : Bool) : State :=
  let s := dropWork s v
  setIface s v { (s.vale v).iface with
    scrubBusy := true, stopping := stopping, out := Vector.replicate 256 0, mbx := [], ifc := [] }

/-- The interface goes to ERROR in the step that takes the event: a report in progress is abandoned (R36); a frozen-register
write makes IF_REPORT read zero whether or not a report had completed (R315). -/
def errorIface (s : State) (v : Fin 16) (cause : BitVec 9) : State :=
  let f := (s.vale v).iface
  let f := if cause = 320 ∨ f.reportBusy then f.abandon else f
  beginScrub (setIface s v { f with phase := .error, cause := cause }) v false

/-- The event, if the interface is CONFIG_LOCKED or RUN (R36). -/
def errorIfFrozen (s : State) (cause : BitVec 9) (v : Fin 16) : State :=
  if (s.vale v).iface.frozen then errorIface s v cause else s

/-- A firmware or signer change, or a write to a register that any locked interface freezes: every such interface goes to
ERROR (R35, R323). -/
def errorEvery (s : State) (cause : BitVec 9) : State := (List.finRange 16).foldl (fun s v => errorIfFrozen s cause v) s

/-- Some interface of the device is CONFIG_LOCKED or RUN (R323). -/
def anyFrozen (s : State) : Bool := s.vales.any fun x => x.iface.frozen

/-- SCRUB_COMPLETE: step 5 has finished, once every task has been discarded (R37). -/
def execScrubComplete (v : Fin 16) (s : State) : Out :=
  let f := (s.vale v).iface
  if !f.scrubBusy || valeBusy s v then .next s
  else
    let s := scrubVale s v
    let f := (s.vale v).iface
    .next (setIface s v { f with scrubBusy := false, stopping := false,
                                 phase := if f.stopping then .unlocked else f.phase })

/-! ## Commands (R32, R36) -/

/-- The result of a refused command (R36). -/
def ifResult (s : State) (v : Fin 16) (r : BitVec 4) : State := setIface s v { (s.vale v).iface with result := r }

/-- A command: busy refusals first, then the condition of the table, then its action. -/
def ifCommand (s : State) (v : Fin 16) (throughReport : Bool) (ok : Bool) (f : State → State) : State :=
  let i := (s.vale v).iface
  if i.scrubBusy || (i.reportBusy && !throughReport) then ifResult s v 2
  else if ok then ifResult (f s) v 0
  else ifResult s v 1

/-- A slot is armed with fresh keys (R36, R42). -/
def armSlot (s : State) (k : Fin 64) : State :=
  { s with sec := { s.sec with slots := s.sec.slots.set k (some (s.sec.keys + 1)), keys := s.sec.keys + 1 } }

/-- The condition of LOCK (R36). -/
def lockOk (x : Vale) : Bool :=
  decide (x.iface.phase = .unlocked) && x.ownsAny && decide (x.rstate = .stable) && x.graphs.isEmpty && x.images.isEmpty &&
  decide (x.iface.host ≠ 0) && x.iface.wins.any fun w => w.attr.getLsbD 63

/-- LOCK (R36, R314): the vale is keyed with the fresh key (log 57). -/
def execLock (v : Fin 16) (s : State) : Out :=
  .next (ifCommand s v false (lockOk (s.vale v)) fun s =>
    let s := armSlot s (s.vale v).key.toFin
    let x := s.vale v
    s.setVale v { x with meas := 0, exts := 0, keyLost := false, iface := { x.iface with phase := .locked } })

/-- START (R36). -/
def execStart (v : Fin 16) (s : State) : Out :=
  .next (ifCommand s v false (decide ((s.vale v).iface.phase = .locked)) fun s =>
    setIface s v { (s.vale v).iface with phase := .run })

/-- STOP (R36). -/
def execStop (v : Fin 16) (s : State) : Out :=
  .next (ifCommand s v true (s.vale v).iface.frozen fun s =>
    let f := (s.vale v).iface
    beginScrub (setIface s v (if f.reportBusy then f.abandon else f)) v true)

/-- RESET (R34, R36). -/
def execReset (v : Fin 16) (s : State) : Out :=
  .next (ifCommand s v false (decide ((s.vale v).iface.phase = .error)) fun s =>
    let f := (s.vale v).iface
    setIface s v { f with phase := .unlocked, gen := f.gen + 1, out := Vector.replicate 256 0 })

/-! ## The report (R38) -/

/-- IF_STATE.STATE and other codes. -/
def IfPhase.code : IfPhase → Nat
  | .unlocked => 0
  | .locked => 1
  | .run => 2
  | .error => 3

/-- IF_ID (R32). -/
def ifId (s : State) (v : Fin 16) : Word :=
  (Config.serial.setWidth 32 ++ (s.vale v).iface.gen ++ 0#12 ++ BitVec.ofNat 4 v.val : BitVec 64)

/-- The bytes that CONFIG_DIGEST covers (R38). -/
def configBytes (x : Vale) : List Byte :=
  toBytes 32 x.cores.toNat ++ toBytes 16 x.slices.toNat ++ toBytes 64 x.channels.toNat ++ toBytes 8 x.key.toNat ++
    toBytes 8 x.asid.toNat ++ toBytes 8 x.prio.toNat

/-- Bytes 0x000 to 0x19F of a report (R38). -/
def reportBody (s : State) (v : Fin 16) : List Byte :=
  let x := s.vale v
  let f := x.iface
  toBytes 4 0x50524649 ++ toBytes 2 1 ++
  [BitVec.ofNat 8 f.phase.code, BitVec.ofNat 8 (f.wins.toList.filter fun w => w.attr.getLsbD 63).length] ++
  toBytes 8 (ifId s v).toNat ++ toBytes 1 v.val ++ toBytes 7 0 ++ toBytes 8 f.host.toNat ++
  f.nonce.toList.flatMap (fun n => toBytes 8 n.toNat) ++ toBytes 48 s.sec.fwDigest.toNat ++ toBytes 48 x.meas.toNat ++
  sha384 (configBytes x) ++ toBytes 4 x.exts.toNat ++ toBytes 12 0 ++
  f.wins.toList.flatMap (fun w => toBytes 8 w.base.toNat ++ toBytes 8 w.size.toNat ++ toBytes 8 w.attr.toNat)

/-- REPORT: every field is sampled here (R38). -/
def execReport (v : Fin 16) (s : State) : Out :=
  .next (ifCommand s v false (s.vale v).iface.frozen fun s =>
    setIface s v { (s.vale v).iface with reportBusy := true, job := some (BitVec.ofNat 3328 (ofBytes (reportBody s v))) })

/-- REPORT_COMPLETE: IF_REPORT takes the report and its signature (R38; the nonce is a free value, log 3). -/
def execReportComplete (v : Fin 16) (s : State) : Out :=
  let f := (s.vale v).iface
  match f.job with
  | none => .next s
  | some body =>
    let bs := toBytes 416 body.toNat
    let all := bs ++ reportSignature (sha384 bs) s.draws
    .next { setIface s v { f with reportBusy := false, job := none, report := BitVec.ofNat 4096 (ofBytes all) } with
      draws := s.draws + 1 }

/-! ## Events (R35, R36) -/

/-- INTEGRITY_FAILURE (R36). -/
def execIntegrityFailure (v : Fin 16) (s : State) : Out := .next (errorIfFrozen s 321 v)

/-- A link reset of port `p` (R36): the interfaces in RUN whose IF_HOST is reached through it. -/
def linkResetIfaces (s : State) (p : Fin 18) : State :=
  match s.ports[p].partner with
  | none => s
  | some q =>
    (List.finRange 16).foldl (fun s v =>
      let f := (s.vale v).iface
      if f.phase = .run ∧ q.hosts.any (fun id => decide (f.host = id.setWidth 64)) then errorIface s v 322 else s) s

/-! ## Mailboxes (R34) -/

/-- The source identifier of a packet. -/
def sourceId : StoreSource → BitVec 32
  | .host id => id
  | .core c => BitVec.ofNat 32 c.val

/-- MBX_HEAD of a popped packet. -/
def mailHead (src : BitVec 32) (words : Nat) (fifo valid : Bool) : Word :=
  (src ++ 0#20 ++ BitVec.ofNat 4 words ++ 0#3 ++ BitVec.ofBool fifo ++ 0#3 ++ BitVec.ofBool valid : BitVec 64)

/-- MBX_POP (R34); a pop of an empty FIFO leaves SRC and WORDS zero and FIFO as named (log 58). -/
def execMbxPop (v : Fin 16) (data : Word) (s : State) : Out :=
  let f := (s.vale v).iface
  let which := data.getLsbD 0
  if data.extractLsb' 1 63 ≠ 0 then .next s
  else
    match (if which then f.ifc else f.mbx) with
    | p :: rest =>
      let f := if which then { f with ifc := rest } else { f with mbx := rest }
      .next (setIface s v { f with head := mailHead (sourceId p.src) p.words.length which true
                                   words := Vector.ofFn fun i => p.words.getD i.val 0 })
    | [] => .next (setIface s v { f with head := mailHead 0 0 which false, words := Vector.replicate 8 0 })

/-! ## Register reads and writes (R30 to R34) -/

/-- IF_STATE (R31). -/
def ifState (f : Iface) : Word :=
  (0#32 ++ f.gen ++ 0#8 ++ f.result ++ BitVec.ofBool f.reportBusy ++ BitVec.ofBool f.scrubBusy ++
    BitVec.ofNat 2 f.phase.code : BitVec 64)

/-- Which register of a window an offset from 0x100 to 0x1BF names. -/
def winReg (off : Nat) : Fin 8 × Nat := (⟨(off - 0x100) / 24 % 8, Nat.mod_lt _ (by decide)⟩, (off - 0x100) % 24 / 8)

/-- Read an interface register (R30). -/
def ifRead (s : State) (v : Fin 16) (off : Nat) : Word :=
  let f := (s.vale v).iface
  if off = 0 then ifState f
  else if off = 0x10 then ifId s v
  else if off = 0x18 then f.cause.setWidth 64
  else if 0x20 ≤ off ∧ off < 0x40 then f.nonce[(BitVec.ofNat 2 ((off - 0x20) / 8)).toFin]
  else if off = 0x40 then f.drop
  else if off = 0x48 then f.host
  else if off = 0x50 then BitVec.ofNat 64 (f.ifc.length * 256 + f.mbx.length)
  else if off = 0x60 then f.head
  else if 0x80 ≤ off ∧ off < 0xC0 then f.words[(BitVec.ofNat 3 ((off - 0x80) / 8)).toFin]
  else if 0x100 ≤ off ∧ off < 0x1C0 then
    let w := f.wins[(winReg off).1]
    match (winReg off).2 with
    | 0 => w.base
    | 1 => w.size
    | _ => w.attr
  else if 0x400 ≤ off ∧ off < 0x600 then f.report.extractLsb' (8 * (off - 0x400)) 64
  else if 0x800 ≤ off ∧ off < 0x1000 then f.out[(BitVec.ofNat 8 ((off - 0x800) / 8)).toFin]
  else 0

/-- The offset names IF_HOST or a window register: frozen in CONFIG_LOCKED and RUN (R30, R35). -/
def ifFrozenReg (off : Nat) : Bool := decide (off = 0x48) || (decide (0x100 ≤ off) && decide (off < 0x1C0))

/-- Write an interface register that is no command and no pop; a write to a frozen one sends the interface to ERROR
(R35). -/
def ifWrite (s : State) (v : Fin 16) (off : Nat) (data : Word) : State :=
  let f := (s.vale v).iface
  if ifFrozenReg off then
    if f.frozen then errorIface s v 320
    else if off = 0x48 then setIface s v { f with host := (data.setWidth 32).setWidth 64 }
    else
      let w := f.wins[(winReg off).1]
      let w := match (winReg off).2 with
        | 0 => { w with base := data }
        | 1 => { w with size := data }
        | _ => { w with attr := data }
      setIface s v { f with wins := f.wins.set (winReg off).1 w }
  else if 0x20 ≤ off ∧ off < 0x40 then
    setIface s v { f with nonce := f.nonce.set (BitVec.ofNat 2 ((off - 0x20) / 8)).toFin data }
  else if 0x800 ≤ off ∧ off < 0x1000 then
    setIface s v { f with out := f.out.set (BitVec.ofNat 8 ((off - 0x800) / 8)).toFin data }
  else s

end Sys2Proof.Machine
end

