-- ==== Sys2Proof/Machine/SecEngine.lean ====
section
/-! DEFINITION. Machine/SecEngine.lean: the security engine block (R42), machine-mode reads (R343), management and device reset. -/
namespace Sys2Proof.Machine

/-! ## Machine-mode bytes (R343) -/

/-- Read `n` bytes that lie in firmware memory or in a vale window. -/
def machRead (s : State) (addr : Word) (n : Nat) : Option (List Byte) :=
  let a := addr.toNat
  if 0x00FF000000000000 ≤ a ∧ a + n ≤ 0x00FF000004000000 then some (memRead s.mgmt.fw (a - 0x00FF000000000000) n)
  else if 0x00F0000000000000 ≤ a ∧ a + n ≤ 0x00F0080000000000 then
    let v : Fin 16 := (addr.extractLsb' 39 4).toFin
    let pa := a % 2 ^ 39
    if pa + n ≤ 2 ^ 39 ∧ keyed s v ∧ ((List.range n).all fun i => ownsPa s v (pa + i)) then some (valeRead s v pa n) else none
  else none

/-- Bytes of a vale window that an access reaches wait for a DRAM bank that a copy channel holds (R224). -/
def machHeld (s : State) (addr : Word) (n : Nat) : Bool :=
  let a := addr.toNat
  decide (0x00F0000000000000 ≤ a) && decide (a + n ≤ 0x00F0080000000000) &&
  (let v : Fin 16 := (addr.extractLsb' 39 4).toFin
   keyed s v && linesHeld s v (a % 2 ^ 39) n)

/-- Write bytes to firmware memory or through a vale window. -/
def machWrite (s : State) (addr : Word) (bs : List Byte) : State :=
  let a := addr.toNat
  if 0x00FF000000000000 ≤ a ∧ a + bs.length ≤ 0x00FF000004000000 then
    let off := a - 0x00FF000000000000
    clearPoison { s with mgmt := { s.mgmt with fw := memWrite s.mgmt.fw off bs } } .firmware off bs.length
  else if 0x00F0000000000000 ≤ a ∧ a + bs.length ≤ 0x00F0080000000000 then
    let v : Fin 16 := (addr.extractLsb' 39 4).toFin
    let pa := a % 2 ^ 39
    if pa + bs.length ≤ 2 ^ 39 ∧ keyed s v ∧ ((List.range bs.length).all fun i => ownsPa s v (pa + i)) then
      valeWrite s v none pa bs
    else s
  else s

/-! ## Commands (R42) -/

/-- RESULT of a command that is refused at once. -/
def secResult (s : State) (r : BitVec 8) : State := { s with sec := { s.sec with result := r } }

/-- A command: BUSY while another is in progress; a refusal; or its effect, RESULT following with SEC_COMMAND_COMPLETE. -/
def secCommand (s : State) (refuse : Option (BitVec 8)) (f : State → State) : State :=
  if s.sec.busy then secResult s 2
  else
    match refuse with
    | some r => secResult s r
    | none =>
      let s := f s
      { s with sec := { s.sec with busy := true, outcome := 0 } }

/-- ARM (R42): CONFLICT where the slot is ARMED. -/
def execArm (k : Fin 64) (s : State) : Out :=
  .next (secCommand s (if (s.sec.slots[k]).isSome then some 3 else none) fun s => armSlot s k)

/-- ZERO (R42): CONFLICT where a vale that owns any resource names the slot. -/
def execZero (k : Fin 64) (s : State) : Out :=
  .next (secCommand s (if (namedBy s (BitVec.ofNat 6 k.val)).isSome then some 3 else none) fun s => zeroSlot s k)

/-- Set a signer slot; every locked interface goes to ERROR with cause 323 (R35, R42). -/
def setSigner (s : State) (j : BitVec 3) (x : Option (BitVec 384 × BitVec 384)) : State :=
  errorEvery { s with sec := { s.sec with signers := s.sec.signers.set j.toFin x } } 323

/-- A command that reads memory waits for it (R224; log 44); one written while another is in progress reads nothing. -/
def secHeld (s : State) (addr : Word) (n : Nat) : Bool := !s.sec.busy && machHeld s addr n

/-- SIGNER_SET (R42): BAD for a slot past 7, a key that cannot be read, a point that is not on the curve. -/
def execSignerSet (j : Fin 64) (s : State) : Out :=
  if j.val < 8 ∧ secHeld s s.sec.addr 96 then .next s
  else
  let key := (machRead s s.sec.addr 96).map fun bs => (bigEndian (bs.take 48), bigEndian (bs.drop 48))
  let good := match key with
    | some q => decide (j.val < 8) && onCurve q
    | none => false
  .next (secCommand s (if good then none else some 6) fun s =>
    setSigner s (BitVec.ofNat 3 j.val) (key.map fun q => (BitVec.ofNat 384 q.1, BitVec.ofNat 384 q.2)))

/-- SIGNER_CLEAR (R42). -/
def execSignerClear (j : Fin 64) (s : State) : Out :=
  .next (secCommand s (if j.val < 8 then none else some 6) fun s => setSigner s (BitVec.ofNat 3 j.val) none)

/-- The image that the firmware descriptor at SEC_ADDR names, if it keeps its limits and its signature verifies (R42). -/
def stagedImage (s : State) : Option (List Byte) := do
  let d ← machRead s s.sec.addr 112
  let len := numAt d 0 8
  let addr := numAt d 8 8
  if len % 4096 ≠ 0 ∨ 2 ^ 24 < len ∨ addr % 4096 ≠ 0 then none
  let img ← machRead s (BitVec.ofNat 64 addr) len
  if ecdsaVerify (Config.fwKeyX.toNat, Config.fwKeyY.toNat) (sha384 img) (d.drop 16) then some img else none

/-- The reading of the descriptor or of the image waits. -/
def stageHeld (s : State) : Bool :=
  secHeld s s.sec.addr 112 || (match machRead s s.sec.addr 112 with
    | some d => decide (numAt d 0 8 ≤ 2 ^ 24) && secHeld s (BitVec.ofNat 64 (numAt d 8 8)) (numAt d 0 8)
    | none => false)

/-- FW_STAGE (R42): a firmware update under R35. -/
def execFwStage (s : State) : Out :=
  if stageHeld s then .next s
  else
  match stagedImage s with
  | some img => .next (secCommand s none fun s => errorEvery { s with sec := { s.sec with staged := some img } } 323)
  | none => .next (secCommand s (some 6) id)

/-- The management core restarts at the first word of firmware memory, its lead slice reset (R42, R343). -/
def restartMgmt (s : State) : State := { s with mgmt := { s.mgmt with ls := Mgmt.zero.ls, commit := false } }

/-- FW_ACTIVATE (R42): CONFLICT where nothing is staged. -/
def execFwActivate (s : State) : Out :=
  match s.sec.staged with
  | none => .next (secCommand s (some 3) id)
  | some img => .next (secCommand s none fun s =>
    let s := { s with mgmt := { s.mgmt with fw := memWrite s.mgmt.fw 0 img } }
    let s := clearPoison s .firmware 0 img.length
    restartMgmt { s with sec := { s.sec with staged := none, fwDigest := BitVec.ofNat 384 (ofBytes (sha384 img)) } })

/-- SEC_COMMAND_COMPLETE (R42). -/
def execSecCommandComplete (s : State) : Out :=
  if s.sec.busy then .next { s with sec := { s.sec with busy := false, result := s.sec.outcome } } else .next s

/-! ## Registers (R42) -/

/-- Eight bytes of a byte string given by index. -/
def eightBytes (f : Nat → Byte) (off : Nat) : Word := BitVec.ofNat 64 (ofBytes ((List.range 8).map fun i => f (off + i)))

/-- SLOT_STATE k. -/
def slotState (s : State) (k : BitVec 6) : Word :=
  let named := namedBy s k
  BitVec.ofNat 64 ((match named with
    | some v => v.val * 2 ^ 16 + 2 ^ 8
    | none => 0) + (if (s.sec.slots[k.toFin]).isSome then 1 else 0))

/-- Read a security register. -/
def secRead (s : State) (off : Nat) : Word :=
  if off = 8 then
    BitVec.ofNat 64 (s.sec.result.toNat * 2 ^ 16 + (if s.sec.staged.isSome then 2 else 0) + (if s.sec.busy then 1 else 0))
  else if off = 0x10 then s.sec.addr
  else if 0x100 ≤ off ∧ off < 0x300 then slotState s (BitVec.ofNat 6 ((off - 0x100) / 8))
  else if 0x400 ≤ off ∧ off < 0x440 then
    if (s.sec.signers[(BitVec.ofNat 3 ((off - 0x400) / 8)).toFin]).isSome then 1 else 0
  else if off = 0x500 then Config.certLen.setWidth 64
  else if 0x600 ≤ off ∧ off < 0x660 then eightBytes attPub (off - 0x600)
  else if 0x1000 ≤ off ∧ off < 0x4000 then eightBytes Config.cert (off - 0x1000)
  else 0

/-- Which instruction a write to SEC_CTL starts; nothing for a BAD one (R42). -/
def secCtl (data : Word) : Option Instr :=
  if data.extractLsb' 14 50 ≠ 0 ∨ data.extractLsb' 4 4 ≠ 0 then none
  else
    let k : Fin 64 := (data.extractLsb' 8 6).toFin
    match (data.extractLsb' 0 4).toNat with
    | 1 => some (.arm k)
    | 2 => some (.zero k)
    | 3 => some (.signerSet k)
    | 4 => some (.signerClear k)
    | 5 => some .fwStage
    | 6 => some .fwActivate
    | _ => none

/-! ## Resets (R101, R343) -/

/-- MANAGEMENT_RESET: the management core begins at the first word of the firmware image in force (R343; log 6). -/
def execManagementReset (s : State) : Out :=
  .next { restartMgmt s with turn := .mgmt, stalled := false }

/-- DEVICE_RESET: everything as after reset, but for DRAM's cells and the firmware image (log 4, 6, 12); what the model
itself counts goes on. -/
def execDeviceReset (s : State) : Out :=
  .next { State.reset with
    ticks := s.ticks, draws := s.draws, agenda := s.agenda, dram := s.dram, tags := s.tags,
    poison := s.poison.filter fun p => match p with
      | .dram _ => true
      | .firmware _ => true
      | _ => false
    mgmt := { Mgmt.zero with fw := s.mgmt.fw }
    sec := { Security.zero with keys := s.sec.keys, fwDigest := s.sec.fwDigest }
    hub := { Hub.zero with epochs := s.hub.epochs, graphSeq := s.hub.graphSeq }
    outbox := s.outbox }

end Sys2Proof.Machine
end

