-- ==== Sys2Proof/Machine/ValeBlock.lean ====
section
/-! DEFINITION. Machine/ValeBlock.lean: the vale registers (R45 to R50), the resize of a running vale (R57 to R66), the memory
control block (R196 to R198), compute-capable frames (R200). -/
namespace Sys2Proof.Machine

/-! ## Results and registers (R47, R49) -/

/-- RESULT of VALE_STATE. -/
def valeResult (s : State) (v : Fin 16) (r : BitVec 8) : State := s.setVale v { s.vale v with result := r }

/-- Another vale that owns any resource satisfies `p`. -/
def otherVale (s : State) (v : Fin 16) (p : Vale → Bool) : Bool :=
  (List.finRange 16).any fun w => !decide (w = v) && (s.vale w).ownsAny && p (s.vale w)

/-- The slot cannot be named: EMPTY, or named by another vale (R47, R59). -/
def noKey (s : State) (v : Fin 16) (k : BitVec 6) : Bool :=
  (s.sec.slots[k.toFin]).isNone || otherVale s v fun x => decide (x.key = k)

/-- A write to VALE_KEY, VALE_ASID or VALE_PRIO: frozen first (R35), then the refusals of R47 and R58 in
the order of log 64. -/
def valeWriteReg (s : State) (v : Fin 16) (reserved inFlight : Bool) (refuse : Option (BitVec 8)) (f : Vale → Vale) : State :=
  let x := s.vale v
  if x.iface.frozen then errorIface s v 320
  else if x.rstate ≠ .stable then valeResult s v 2
  else if reserved then valeResult s v 6
  else if inFlight && !x.graphs.isEmpty then valeResult s v 2
  else
    match refuse with
    | some r => valeResult s v r
    | none => valeResult (s.setVale v (f x)) v 0

/-- VALE_KEY_WRITE (R47). -/
def execValeKeyWrite (v : Fin 16) (data : Word) (s : State) : Out :=
  let k := data.extractLsb' 0 6
  .next (valeWriteReg s v (decide (data.extractLsb' 6 58 ≠ 0)) true (if noKey s v k then some 7 else none)
    fun x => { x with key := k, keyLost := false })

/-- The translations of a vale's ASID go, and so do the words under it in the L1s of the vale's cores (R198, R213). -/
def dropAsid (s : State) (v : Fin 16) : State :=
  let x := s.vale v
  let s := shootPages s x.asid fun _ => true
  { s with cores := s.cores.mapFinIdx fun i k _ =>
    if x.cores.getLsbD i then
      { k with l1Gen := k.l1Gen + 1, l1 := k.l1.filter fun y => !decide (y.asid = x.asid) }
    else k }

/-- VALE_ASID_WRITE (R47). What is held under an ASID that is replaced goes with it (R213; log 14). -/
def execValeAsidWrite (v : Fin 16) (data : Word) (s : State) : Out :=
  let a := data.extractLsb' 0 16
  let t := valeWriteReg s v (decide (data.extractLsb' 16 48 ≠ 0)) true
    (if otherVale s v fun x => decide (x.asid = a) then some 3 else none) fun x => { x with asid := a }
  if (t.vale v).asid = (s.vale v).asid then .next t
  else .next ((dropAsid s v).setVale v (t.vale v))

/-- VALE_PRIO_WRITE (R47). -/
def execValePrioWrite (v : Fin 16) (data : Word) (s : State) : Out :=
  .next (valeWriteReg s v (decide (data.extractLsb' 2 62 ≠ 0)) false none fun x => { x with prio := data.extractLsb' 0 2 })

/-- CLEARERR: RESULT stays BUSY while a resize runs (R49). -/
def execClearerr (v : Fin 16) (s : State) : Out :=
  let x := s.vale v
  .next (s.setVale v { x with
    predErr := false, predNode := 0, wrErr := false, result := if x.rstate = .stable then 0 else x.result })

/-! ## Resources in transit (R57) -/

/-- Cores in transit. -/
def transitCores (s : State) : BitVec 256 :=
  s.vales.foldl (fun m x => match x.resize with
    | some r => m ||| r.transC ||| (r.joinC &&& ~~~ x.cores)
    | none => m) 0

/-- Slices in transit. -/
def transitSlices (s : State) : BitVec 128 :=
  s.vales.foldl (fun m x => match x.resize with
    | some r => m ||| r.transS ||| (r.joinS &&& ~~~ x.slices)
    | none => m) 0

/-- Channels in transit. -/
def transitChannels (s : State) : BitVec 512 :=
  s.vales.foldl (fun m x => match x.resize with
    | some r => m ||| r.transCh ||| (r.joinCh &&& ~~~ x.channels)
    | none => m) 0

/-- A NEXT bit names a resource in transit or owned by another vale (R59). -/
def nextTaken (s : State) (v : Fin 16) : Bool :=
  let x := s.vale v
  decide (x.nextCores &&& transitCores s ≠ 0) || decide (x.nextSlices &&& transitSlices s ≠ 0) ||
  decide (x.nextChannels &&& transitChannels s ≠ 0) ||
  (List.finRange 16).any fun w => !decide (w = v) &&
    (decide ((s.vale w).cores &&& x.nextCores ≠ 0) || decide ((s.vale w).slices &&& x.nextSlices ≠ 0) ||
     decide ((s.vale w).channels &&& x.nextChannels ≠ 0))

/-! ## The migration list (R50) -/

/-- The entry in 32 bytes, and whether its reserved bytes are zero. -/
def parseMigr (bs : List Byte) : Migr × Bool :=
  ({ src := numAt bs 0 8, dst := numAt bs 8 8, pte := numAt bs 16 8, log2 := numAt bs 24 1 }, decide (numAt bs 25 7 = 0))

/-- Entries that a page's leaf stands in: the aligned group of a 64 KiB page, else one (R194). -/
def leafSlots (m : Migr) : List Nat :=
  if m.log2 = 16 then (List.range 16).map fun i => m.pte / 128 * 128 + 8 * i else [m.pte]

/-- The entry keeps R50, and its frame is not a registered one (R66). -/
def migrOk (s : State) (v : Fin 16) (key : Nat) (m : Migr) : Bool :=
  let x := s.vale v
  let size := 2 ^ m.log2
  let leaving := x.channels &&& ~~~ x.nextChannels
  let e := ofBytes (dramRead s key m.pte 8)
  [12, 16, 21, 30].contains m.log2 && decide (m.src < 2 ^ 39) && decide (m.dst < 2 ^ 39) && decide (m.src % size = 0) &&
  decide (m.dst % size = 0) && leaving.getLsbD (channelOf m.src) && x.nextChannels.getLsbD (channelOf m.dst) &&
  decide (m.pte % 8 = 0) && ownsPa s v m.pte && bit e 0 && bit e 1 &&
  decide (e / 2 ^ 12 % 2 ^ 27 * 2 ^ 12 = m.src) && decide (bit e 6 = decide (m.log2 = 16)) && !frameRegistered s m.src

/-- The migration list, if MIGR_COUNT and every entry keep R50. -/
def migrList (s : State) (v : Fin 16) : Option (List Migr) :=
  let x := s.vale v
  let n := x.migrCount.toNat
  let base := x.migrBase.toNat
  match valeKey s v with
  | none => if n = 0 then some [] else none
  | some key =>
    if 65536 < n then none
    else if n = 0 then some []
    else if base % 16 ≠ 0 then none
    else
      (List.range n).mapM fun i =>
        if ownsPa s v (base + 32 * i) && ownsPa s v (base + 32 * i + 31) then
          let p := parseMigr (dramRead s key (base + 32 * i) 32)
          if p.2 && migrOk s v key p.1 then some p.1 else none
        else none

/-- The reading of the migration list, or of a leaf entry that it names, waits for a DRAM bank that a copy channel holds (R59, R224). -/
def listHeld (s : State) (v : Fin 16) : Bool :=
  let x := s.vale v
  let n := x.migrCount.toNat
  let base := x.migrBase.toNat
  !s.bulk.isEmpty && decide (n ≤ 65536) && decide (base % 16 = 0) && (match valeKey s v with
    | none => false
    | some key => linesHeld s v base (32 * n) ||
      (List.range n).any fun i => bankBlocks s v none (parseMigr (dramRead s key (base + 32 * i) 32)).1.pte)

/-- A leaving channel holds a registered frame (R66). -/
def leavingPinned (s : State) (v : Fin 16) : Bool :=
  (channelsOf ((s.vale v).channels &&& ~~~ (s.vale v).nextChannels)).any fun ch =>
    (s.chan ch).frames.any fun f => f.getLsbD 9

/-! ## The steps of a resize (R58, R60 to R65) -/

/-- A leaving core is taken up: its bit clears, it enters transit, its task is to be discarded (R61). -/
def takeUpCore (s : State) (v : Fin 16) (c : Fin 256) : State :=
  let x := s.vale v
  match x.resize with
  | none => s
  | some r =>
    let b : BitVec 256 := BitVec.ofNat 256 (2 ^ c.val)
    let s := s.setVale v { x with cores := x.cores &&& ~~~ b, resize := some { r with
      leaveC := r.leaveC &&& ~~~ b, transC := r.transC ||| b } }
    let k := s.core c
    if k.task.isNone then s.setCore c { k with run := .transit }
    else
      match k.stop with
      | none | some .capture | some .discard => s.setCore c (requestDiscard k .leave)
      | _ => s

/-- Take up leaving cores in increasing number, at most 8 at a time (R61). -/
def takeUp (s : State) (v : Fin 16) : State :=
  match (s.vale v).resize with
  | none => s
  | some r => ((coresOf r.leaveC).take (8 - (coresOf r.transC).length)).foldl (fun s c => takeUpCore s v c) s

/-- A step of R58 has work. -/
def stageWork (r : Resize) (stage : Nat) : Bool :=
  match stage with
  | 1 => decide (r.joinC ≠ 0) || decide (r.joinS ≠ 0) || decide (r.joinCh ≠ 0)
  | 2 => decide (r.leaveC ≠ 0)
  | 3 => decide (r.oldS ≠ r.newS)
  | 4 => decide (r.leaveCh ≠ 0) || !r.migr.isEmpty
  | _ => true

/-- An access that a task of the vale issued, or that a peer or a host makes, has begun, is not yet performed whole and lies in a leaving
channel (R65). -/
def accessesLeft (s : State) (v : Fin 16) (leave : BitVec 512) : Bool :=
  let inside : Place → Bool
    | .dram pa _ => leave.getLsbD (channelOf pa)
    | .valeWindow w pa => decide (w = v) && leave.getLsbD (channelOf pa)
    | _ => false
  let left (e : Entry) : Bool := match e.kind with
    | .load _ _ _ _ _ p => inside p
    | .store _ _ _ _ _ p => inside p
    | .amo _ _ _ _ p => inside p
    | .cas _ _ _ _ p => inside p
    | .mark | .fence .. => false
  let running (r : WordRun) : Bool := r.todo.any fun x => inside x.2.1
  let copies (a : Active) : Bool := a.words.any running || a.writes.any fun w => inside w.1
  (s.mgmt.ls.lq ++ s.mgmt.ls.sq).any left ||
  (s.hub.inbound.any fun x => x.run.any fun r => decide (r.1 = v) && running r.2) ||
  s.cores.toList.any fun k => (match k.task with
    | some t => decide (t.vale = v)
    | none => false) && ((k.ls.lq ++ k.ls.sq).any left || k.engines.toList.any fun e => e.active.any copies)

/-- CHANNEL_MOVE is over: leaving channels enter transit, their key copies go, their lines leave the slices, their words the L1s of the
vale (R57, R58, R68). -/
def leaveChannels (s : State) (v : Fin 16) : State :=
  let x := s.vale v
  match x.resize with
  | none => s
  | some r =>
    let s := dropLines s fun i l => x.slices.getLsbD i.val && r.leaveCh.getLsbD (channelOf (l.line * 128))
    let leaves (y : L1Word) : Bool := match y.place with
      | .dram pa _ => r.leaveCh.getLsbD (channelOf pa)
      | _ => false
    let lose (k : Core) : Core := { k with l1 := k.l1.filter fun y => !leaves y }
    let s := { s with cores := s.cores.map lose }
    s.setVale v { x with channels := x.channels &&& ~~~ r.leaveCh, rstate := .settle,
                         resize := some { r with leaveCh := 0, transCh := r.leaveCh } }

/-- Enter the first step from `stage` on that has work (R58). -/
def enterStage (s : State) (v : Fin 16) (stage : Nat) : State :=
  let x := s.vale v
  match x.resize with
  | none => s
  | some r =>
    match ([1, 2, 3, 4].filter fun k => decide (stage ≤ k)).find? (stageWork r) with
    | some 1 => s.setVale v { x with rstate := .growPending }
    | some 2 => takeUp (s.setVale v { x with rstate := .shrinkPending }) v
    | some 3 => s.setVale v { x with rstate := .rehash, slices := r.oldS ||| r.newS, resize := some { r with migrated := 0 } }
    | some _ => s.setVale v { x with rstate := .channelMove }
    | none => s.setVale v { x with rstate := .settle }

/-- What refuses a RESIZE before its migration list is read (R59). -/
def earlyRefusal (s : State) (v : Fin 16) : Option (BitVec 8) :=
  let x := s.vale v
  if x.iface.frozen then some 1
  else if x.rstate ≠ .stable then some 2
  else if noKey s v x.key then some 7
  else if x.nextSlices = 0 ∨ x.nextChannels = 0 then some 4
  else if nextTaken s v || otherVale s v fun y => decide (y.asid = x.asid) then some 3
  else none

/-- A RESIZE waits to read its list (R59, R224; log 44). -/
def resizeHeld (s : State) (v : Fin 16) : Bool := (earlyRefusal s v).isNone && listHeld s v

/-- The refusal of a RESIZE, the first of R59 that applies; a TEARDOWN in progress is none (log 40). -/
def resizeRefusal (s : State) (v : Fin 16) : Option (BitVec 8) :=
  if (earlyRefusal s v).isSome then earlyRefusal s v
  else if (migrList s v).isNone then some 6
  else if leavingPinned s v then some 5
  else none

/-- RESIZE (R59, R60). A vale that owned nothing is created: its start and its attestation record are reset (R38, R54). -/
def execResize (v : Fin 16) (s : State) : Out :=
  if resizeHeld s v then .next s
  else
  match resizeRefusal s v with
  | some r => .next (valeResult s v r)
  | none =>
    let x := s.vale v
    let r : Resize :=
      { joinC := x.nextCores &&& ~~~ x.cores, joinS := x.nextSlices &&& ~~~ x.slices,
        joinCh := x.nextChannels &&& ~~~ x.channels, leaveC := x.cores &&& ~~~ x.nextCores,
        leaveS := x.slices &&& ~~~ x.nextSlices, leaveCh := x.channels &&& ~~~ x.nextChannels,
        transC := 0, transS := 0, transCh := 0, oldS := x.slices, newS := x.nextSlices,
        migr := (migrList s v).getD [], migrated := 0 }
    let x := if x.ownsAny then x else { x with rot := 0, meas := 0, exts := 0 }
    let s := s.setVale v { x with result := 2, resize := some r }
    let s := (coresOf r.joinC).foldl (fun s c => s.setCore c { s.core c with run := .transit }) s
    .next (enterStage s v 1)

/-- A channel's handler table is cleared (R60). -/
def clearHandlers (s : State) (ch : Fin 512) : State := s.setChan ch { s.chan ch with handlers := Vector.replicate 16 none }

/-- Every joining resource is owned: GROW_PENDING ends (R58). -/
def grown (s : State) (v : Fin 16) : State :=
  match (s.vale v).resize with
  | some r => if stageWork r 1 then s else enterStage s v 2
  | none => s

/-- JOINING_RESOURCE_OWNED (R60). -/
def execJoiningResourceOwned (v : Fin 16) (r : Resource) (s : State) : Out :=
  let x := s.vale v
  match x.resize with
  | none => .next s
  | some z =>
    if x.rstate ≠ .growPending then .next s
    else
      match r with
      | .core c =>
        if !z.joinC.getLsbD c then .next s
        else
          let b : BitVec 256 := BitVec.ofNat 256 (2 ^ c.val)
          let s := scrubCore s c true
          let s := s.setCore c { s.core c with run := .idle }
          let x := s.vale v
          .next (grown (s.setVale v { x with
            cores := x.cores ||| b, shadow := x.shadow.set c [], resize := some { z with joinC := z.joinC &&& ~~~ b } }) v)
      | .slice i =>
        if !z.joinS.getLsbD i then .next s
        else
          let b : BitVec 128 := BitVec.ofNat 128 (2 ^ i.val)
          .next (grown ((dropLines s fun j _ => decide (j = i)).setVale v { x with
            slices := x.slices ||| b, resize := some { z with joinS := z.joinS &&& ~~~ b } }) v)
      | .channel ch =>
        if !z.joinCh.getLsbD ch then .next s
        else
          let b : BitVec 512 := BitVec.ofNat 512 (2 ^ ch.val)
          .next (grown (clearHandlers (s.setVale v { x with
            channels := x.channels ||| b, resize := some { z with joinCh := z.joinCh &&& ~~~ b } }) ch) v)

/-- LEAVING_CORE_FREE (R61): the core has no task left; the next leaving core is taken up. -/
def execLeavingCoreFree (v : Fin 16) (c : Fin 256) (s : State) : Out :=
  match (s.vale v).resize with
  | none => .next s
  | some r =>
    if !r.transC.getLsbD c || (s.core c).task.isSome then .next s
    else
      let s := scrubCore s c true
      let s := s.setCore c { s.core c with run := .idle }
      let x := s.vale v
      let r := { r with transC := r.transC &&& ~~~ BitVec.ofNat 256 (2 ^ c.val) }
      let s := takeUp (s.setVale v { x with
        shadow := x.shadow.set c [], lag := x.lag.filter fun g => !decide (g.core = c), resize := some r }) v
      match (s.vale v).resize with
      | some r => .next (if r.leaveC = 0 ∧ r.transC = 0 then enterStage s v 3 else s)
      | none => .next s

/-- REHASH_SET: the walker hands over its next set and sets MIGRATED in one step, so no request meets a set in between; past set
1,023 the old hash is dropped and the leaving slices, which hold no line of the vale, enter transit (R63, R64). -/
def execRehashSet (v : Fin 16) (s : State) : Out :=
  let x := s.vale v
  match x.resize with
  | none => .next s
  | some r =>
    if x.rstate ≠ .rehash then .next s
    else
      let g := ((List.range 1024).find? fun i => !r.migrated.getLsbD i).getD 1023
      let s := handOver s r g
      let r := { r with migrated := r.migrated ||| BitVec.ofNat 1024 (2 ^ g) }
      if g < 1023 then .next (s.setVale v { x with resize := some r })
      else
        let r := { r with transS := r.oldS &&& ~~~ r.newS }
        .next (enterStage (s.setVale v { x with slices := r.newS, resize := some r }) v 4)

/-- A physical address that moves with its frame. -/
def movedPa (m : Migr) (pa : Nat) : Nat :=
  if m.src ≤ pa ∧ pa < m.src + 2 ^ m.log2 then m.dst + (pa - m.src) else pa

/-- A place that moves with its frame. -/
def movedPlace (m : Migr) : Place → Place
  | .dram pa cc => .dram (movedPa m pa) cc
  | p => p

/-- A queue entry that waits for the hold to end proceeds against DST (R65). -/
def movedEntry (m : Migr) (e : Entry) : Entry :=
  { e with kind := match e.kind with
      | .load va n sg rq sp p => .load va n sg rq sp (movedPlace m p)
      | .store va n d rq sp p => .store va n d rq sp (movedPlace m p)
      | .amo va n op v p => .amo va n op v (movedPlace m p)
      | .cas va n c w p => .cas va n c w (movedPlace m p)
      | .mark => .mark
      | .fence a b => .fence a b }

/-- The words of an access that are left move with their frame. -/
def movedRun (m : Migr) (r : WordRun) : WordRun := { r with todo := r.todo.map fun x => (x.1, movedPlace m x.2.1, x.2.2) }

/-- The words and pieces of a copy element that are left move with their frame. -/
def movedActive (m : Migr) (a : Active) : Active :=
  { a with words := a.words.map (movedRun m), writes := a.writes.map fun w => (movedPlace m w.1, w.2) }

/-- The waiting accesses of a core's task of the vale, and the copies that the core holds under the vale's ASID, follow a frame
that has moved; `.own` copies were recalled (R65). -/
def followFrame (v : Fin 16) (asid : BitVec 16) (m : Migr) (k : Core) : Core :=
  let mine := match k.task with
    | some t => decide (t.vale = v)
    | none => false
  { k with
    ls := if mine then { k.ls with lq := k.ls.lq.map (movedEntry m), sq := k.ls.sq.map (movedEntry m) } else k.ls
    engines := if mine then k.engines.map fun e => { e with active := e.active.map (movedActive m) } else k.engines
    l1 := (k.l1.filter fun x => !(decide (x.rq = 0) && decide (movedPlace m x.place ≠ x.place))).map fun x =>
      if x.asid = asid then { x with place := movedPlace m x.place } else x }

/-- The bank commands of the vale that name the frame read their operand from its new place (R65). -/
def followCommands (v : Fin 16) (m : Migr) (y : Channel) : Channel :=
  { y with fifo := y.fifo.map fun x =>
      if x.vale = v then { x with pa := x.pa.map fun p => (movedPa m p.1, p.2) } else x }

/-- A copy channel holds a bank of the rows from `pa` on (R224). -/
def rowsHeld (s : State) (pa n : Nat) : Bool :=
  s.bulk.any fun h => (List.range (min ((n + 1023) / 1024) 32)).any fun i => decide (h.bank = bankOf (pa + 1024 * i))

/-- The walker's copy of a frame waits for a bank of the frame, of its new place or of its leaf (R224). -/
def migrHeld (s : State) (m : Migr) : Bool :=
  rowsHeld s m.src (2 ^ m.log2) || rowsHeld s m.dst (2 ^ m.log2) || rowsHeld s m.pte 8

/-- One migration entry: the frame is copied under its new address, the leaf entry names it, translations follow (R65). -/
def migrate (s : State) (v : Fin 16) (m : Migr) : State :=
  let key := (valeKey s v).getD 0
  let size := 2 ^ m.log2
  let marks := s.poison.filterMap fun p => match p with
    | .dram w => if m.src ≤ w * 8 ∧ w * 8 < m.src + size then some (ErrorAt.dram (movedPa m (w * 8) / 8)) else none
    | _ => none
  let s := clearPoison (dramWrite s key m.dst (dramRead s key m.src size)) .dram m.dst size
  let s := { s with poison := marks ++ s.poison }
  let s := (leafSlots m).foldl (fun s a =>
    let e := ofBytes (dramRead s key a 8)
    dramWrite s key a (toBytes 8 (e % 2 ^ 12 + m.dst + e / 2 ^ 39 * 2 ^ 39))) s
  let s := shootPages s (s.vale v).asid fun e => decide (movedPa m e.pa ≠ e.pa)
  let s := dropLines s fun i l => (s.vale v).slices.getLsbD i.val && decide (movedPa m (l.line * 128) ≠ l.line * 128)
  let inbound := s.hub.inbound.map fun x => { x with run := x.run.map fun r => (r.1, movedRun m r.2) }
  { s with cores := s.cores.map (followFrame v (s.vale v).asid m), chans := s.chans.map (followCommands v m)
           hub := { s.hub with inbound := inbound } }

/-- Every migration entry is done: the leaving channels leave, once no access issued before lies in them (R58, R65; log 40). -/
def endChannelMove (s : State) (v : Fin 16) (leave : BitVec 512) : State :=
  if accessesLeft s v leave then s else leaveChannels s v

/-- MIGRATION_ENTRY: the next entry, or the end of CHANNEL_MOVE (R65). -/
def execMigrationEntry (v : Fin 16) (s : State) : Out :=
  let x := s.vale v
  match x.resize with
  | none => .next s
  | some r =>
    if x.rstate ≠ .channelMove then .next s
    else
      match r.migr with
      | [] => .next (endChannelMove s v r.leaveCh)
      | m :: rest =>
        if migrHeld s m then .next s
        else
        let s := migrate s v m
        let s := s.setVale v { s.vale v with resize := some { r with migr := rest } }
        .next (if rest.isEmpty then endChannelMove s v r.leaveCh else s)

/-- SETTLE_COMPLETE (R58): what is in transit is scrubbed and free. A channel's bank unit first rejects what its FIFO still holds
of the vale (R57, R68). -/
def execSettleComplete (v : Fin 16) (s : State) : Out :=
  let x := s.vale v
  match x.resize with
  | none => .next s
  | some r =>
    if x.rstate ≠ .settle then .next s
    else
      if (channelsOf r.transCh).any fun ch => !(s.chan ch).fifo.isEmpty || (s.chan ch).serving.isSome then .next s
      else
        let s := (channelsOf r.transCh).foldl clearHandlers s
        let s := dropLines s fun i _ => r.transS.getLsbD i.val
        .next (s.setVale v { s.vale v with rstate := .stable, result := 0, resize := none })

/-! ## Memory control (R196 to R198) -/

/-- RESULT of MEM_STATE. -/
def memResult (s : State) (v : Fin 16) (r : BitVec 8) : State := s.setVale v { s.vale v with memResult := r }

/-- TRANS_ROOT_WRITE (R197). -/
def execTransRootWrite (v : Fin 16) (data : Word) (s : State) : Out :=
  let x := s.vale v
  if x.iface.frozen then .next (memResult s v 1)
  else if data.extractLsb' 39 25 ≠ 0 ∨ data.extractLsb' 0 12 ≠ 0 then .next (memResult s v 6)
  else if !x.graphs.isEmpty then .next (memResult s v 2)
  else .next (memResult (s.setVale v { x with root := data.extractLsb' 12 27 }) v 0)

/-- LEASE_WRITE (R197). -/
def execLeaseWrite (v : Fin 16) (data : Word) (s : State) : Out :=
  let x := s.vale v
  if x.iface.frozen then .next (memResult s v 1)
  else if 256 ≤ data.toNat ∧ data.toNat ≤ 16384 then
    .next (memResult (s.setVale v { x with lease := data.extractLsb' 0 15 }) v 0)
  else .next (memResult s v 6)

/-- SHOOT (R198): RESULT is DONE at its acceptance (log 85). -/
def execShoot (v : Fin 16) (s : State) : Out :=
  if (s.vale v).shootBusy then .next (memResult s v 2)
  else .next (memResult (s.setVale v { s.vale v with shootBusy := true }) v 0)

/-- SHOOT_COMPLETE: the translations of the ASID and its L1 lines in the vale's cores are gone (R198). -/
def execShootComplete (v : Fin 16) (s : State) : Out :=
  let x := s.vale v
  if !x.shootBusy then .next s
  else .next (dropAsid (s.setVale v { x with shootBusy := false }) v)

/-! ## Compute-capable frames (R200) -/

/-- CC_FRAME_WRITE (R200). The lines that slices hold of a frame that it registers leave them, written back (R201). A frame may be
registered at any time, in a channel that a resize is taking away as well (log 78). -/
def execCcFrameWrite (ch : Fin 512) (k : Fin 32) (data : Word) (s : State) : Out :=
  if data.extractLsb' 9 54 ≠ 0 then .next s
  else
    let f : BitVec 10 := BitVec.ofBool (data.getLsbD 63) ++ data.extractLsb' 0 9
    let t := s.setChan ch { s.chan ch with frames := (s.chan ch).frames.set k f }
    .next (if f.getLsbD 9 then dropLines t fun _ x => ccLine t x.line else t)

/-! ## Reads -/

/-- RSTATE (R48). -/
def RState.code : RState → Nat
  | .stable => 0
  | .growPending => 1
  | .shrinkPending => 2
  | .rehash => 3
  | .channelMove => 4
  | .settle => 5

/-- VALE_STATE (R48). -/
def valeState (x : Vale) : Word :=
  (0#16 ++ x.predNode ++ 0#8 ++ x.result ++ 0#6 ++ BitVec.ofBool x.wrErr ++ BitVec.ofBool x.predErr ++ 0#4 ++
    BitVec.ofBool (!x.graphs.isEmpty) ++ BitVec.ofNat 3 x.rstate.code : BitVec 64)

/-- Read a vale register (R45). -/
def valeRegRead (s : State) (v : Fin 16) (off : Nat) : Word :=
  let x := s.vale v
  if off < 0x20 then x.cores.extractLsb' (8 * off) 64
  else if off < 0x30 then x.slices.extractLsb' (8 * (off - 0x20)) 64
  else if off < 0x70 then x.channels.extractLsb' (8 * (off - 0x30)) 64
  else if off = 0x70 then x.key.setWidth 64
  else if off = 0x78 then x.asid.setWidth 64
  else if off = 0x80 then x.prio.setWidth 64
  else if off = 0x88 then valeState x
  else if 0xA0 ≤ off ∧ off < 0xC0 then x.nextCores.extractLsb' (8 * (off - 0xA0)) 64
  else if 0xC0 ≤ off ∧ off < 0xD0 then x.nextSlices.extractLsb' (8 * (off - 0xC0)) 64
  else if 0xD0 ≤ off ∧ off < 0x110 then x.nextChannels.extractLsb' (8 * (off - 0xD0)) 64
  else if off = 0x110 then x.migrBase
  else if off = 0x118 then x.migrCount
  else if off = 0x120 then x.taskDrop
  else 0

/-- Replace 64 bits of a mask. -/
def putWord {w : Nat} (m : BitVec w) (lo : Nat) (d : Word) : BitVec w :=
  (m &&& ~~~ ((BitVec.allOnes 64).setWidth w <<< lo)) ||| (d.setWidth w <<< lo)

/-- Write a vale register that is no command and no VALE_KEY, VALE_ASID or VALE_PRIO; the masks are read-only and frozen
(R46). A write of a NEXT or MIGR register leaves RESULT as it is (log 65). -/
def valeRegWrite (s : State) (v : Fin 16) (off : Nat) (data : Word) : State :=
  let x := s.vale v
  if off < 0x70 then (if x.iface.frozen then errorIface s v 320 else s)
  else if 0xA0 ≤ off ∧ off < 0xC0 then s.setVale v { x with nextCores := putWord x.nextCores (8 * (off - 0xA0)) data }
  else if 0xC0 ≤ off ∧ off < 0xD0 then s.setVale v { x with nextSlices := putWord x.nextSlices (8 * (off - 0xC0)) data }
  else if 0xD0 ≤ off ∧ off < 0x110 then s.setVale v { x with nextChannels := putWord x.nextChannels (8 * (off - 0xD0)) data }
  else if off = 0x110 then s.setVale v { x with migrBase := data }
  else if off = 0x118 then s.setVale v { x with migrCount := data }
  else s

/-- Read a register of a memory control block (R196). -/
def memCtlRead (s : State) (v : Fin 16) (off : Nat) : Word :=
  let x := s.vale v
  if off = 0 then (0#25 ++ x.root ++ 0#12 : BitVec 64)
  else if off = 8 then x.lease.setWidth 64
  else if off = 0x18 then BitVec.ofNat 64 (x.memResult.toNat * 2 ^ 16 + (if x.shootBusy then 1 else 0))
  else 0

/-- Read CC_FRAME k (R200). -/
def ccFrameRead (s : State) (ch : Fin 512) (off : Nat) : Word :=
  if off < 0x100 then
    let f := (s.chan ch).frames[(BitVec.ofNat 5 (off / 8)).toFin]
    (f.extractLsb' 9 1 ++ 0#54 ++ f.extractLsb' 0 9 : BitVec 64)
  else 0

end Sys2Proof.Machine
end

