-- ==== Sys2Proof/Machine/CoreBlock.lean ====
section
/-! DEFINITION. Machine/CoreBlock.lean: the core management block (R308, R309), capture, resume, discard and abort (R307, R310,
R311, R330), soft errors (R312). -/
namespace Sys2Proof.Machine

/-! ## States (R309) -/

/-- The core is in transit (R57). -/
def inTransit (s : State) (c : Fin 256) : Bool := (transitCores s).getLsbD c

/-- CORE_STATE.STATE (R309). -/
def coreState (s : State) (c : Fin 256) : Nat :=
  let k := s.core c
  if inTransit s c then 5
  else if k.stop.isSome then 3
  else match k.run with
    | .idle => 0
    | .running => 1
    | .trapped => 2
    | .stopping => 3
    | .captured => 4
    | .transit => 5

/-- RESULT of CORE_STATE. -/
def coreResult (s : State) (c : Fin 256) (r : BitVec 8) : State := s.setCore c { s.core c with result := r }

/-- The interface of the vale that owns the core is CONFIG_LOCKED or RUN (R310). -/
def coreLocked (s : State) (c : Fin 256) : Bool := s.vales.any fun x => x.cores.getLsbD c && x.iface.frozen

/-! ## Commands (R310) -/

/-- CAPTURE (R310). -/
def execCapture (c : Fin 256) (s : State) : Out :=
  let k := s.core c
  let st := coreState s c
  if coreLocked s c then .next (coreResult s c 1)
  else if st = 0 ∨ st = 5 then .next (coreResult s c 4)
  else if st = 1 ∨ st = 2 then .next (s.setCore c (requestDiscard k .capture))
  else .next (coreResult s c 2)

/-- RESUME (R299, R310). A slice whose own report is still pending (R298) stays at its word (DEDUCED, log 56). -/
def execResume (c : Fin 256) (s : State) : Out :=
  let k := s.core c
  let st := coreState s c
  if st = 0 ∨ st = 5 then .next (coreResult s c 4)
  else if st = 2 ∨ st = 4 then
    .next (s.setCore c { k with
      run := .running, resumePast := false, result := 0
      lane := { k.lane with stopped := k.laneFault.isSome || k.poisoned.isSome }
      ls := if k.resumePast then { k.ls with pc := k.ls.epc + 4 } else k.ls })
  else .next (coreResult s c 2)

/-- DISCARD (R310). -/
def execDiscard (c : Fin 256) (s : State) : Out :=
  let k := s.core c
  let st := coreState s c
  if st = 0 ∨ st = 5 then .next (coreResult s c 4)
  else if st = 3 then .next (coreResult s c 4)
  else if st = 2 ∧ k.isSealed = true then .next (coreResult s c 2)
  else .next (s.setCore c (requestDiscard k .discard))

/-- ABORT: the task is discarded without return, and its graph fails (R310, R330). -/
def execAbort (c : Fin 256) (s : State) : Out :=
  let k := s.core c
  let st := coreState s c
  match k.task with
  | some t =>
    if st = 1 ∨ st = 2 ∨ st = 4 then
      let s := s.setCore c (requestDiscard k .abort)
      .next (abortGraph s t.vale t.graph)
    else .next (coreResult s c 4)
  | none => .next (coreResult s c 4)

/-- DISCARD_PROCEED (R307). -/
def execDiscardProceed (c : Fin 256) (s : State) : Out :=
  let k := s.core c
  match k.stop with
  | none | some .capture => .next s
  | some why =>
    if !discardReady k then .next s
    else
      let s := discardTask s c why (if inTransit s c then .transit else .idle)
      .next (match why with
        | .discard | .abort => coreResult s c 0
        | _ => s)

/-! ## Capture (R311) -/

/-- A register or belt position as the image holds it. -/
def slotWord : Slot → Word
  | .val v => v
  | .pend _ => 0

/-- Little-endian words. -/
def wordBytes (ws : List Word) : List Byte := ws.flatMap fun w => toBytes 8 w.toNat

/-- A replay level, 32 bytes. -/
def levelBytes : Option Replay → List Byte
  | some r => toBytes 8 r.first.toNat ++ toBytes 4 r.pass.toNat ++ toBytes 4 r.count.toNat ++ toBytes 1 r.len ++
      toBytes 1 (if r.flagged then 2 else 1) ++ toBytes 14 0
  | none => toBytes 32 0

/-- A steering entry, 48 bytes. -/
def steerBytes (e : SteerEntry) : List Byte :=
  let kp := match e.kind with
    | .mask m => (1, m.toNat)
    | .count n => (2, n.toNat)
    | .flag b => (3, b.toNat)
    | .value v => (4, v.toNat)
    | .marker => (5, 0)
  toBytes 1 kp.1 ++ toBytes 15 0 ++ toBytes 32 kp.2

/-- Zero bytes up to a length. -/
def padTo (n : Nat) (bs : List Byte) : List Byte := bs ++ List.replicate (n - bs.length) 0

/-- The capture image (R311). -/
def captureImage (k : Core) (t : Task) : List Byte :=
  let l := k.ls
  wordBytes (l.n.toList.map slotWord) ++ wordBytes (l.belt.toList.map slotWord) ++
  l.lp.toList.flatMap (fun x => toBytes 4 x.toNat) ++
  wordBytes [lsStatus l, l.cause.setWidth 64, l.epc, l.tval, l.region, l.pc, k.lane.pc, BitVec.ofNat 64 k.lane.spacing] ++
  (List.range 4).flatMap (fun i => levelBytes k.lane.levels.reverse[i]?) ++
  k.lane.ptrs.toList.flatMap (fun x => toBytes 4 x.toNat) ++
  toBytes 8 k.steer.length ++ toBytes 24 0 ++ toBytes 32 k.lane.full.toNat ++
  wordBytes (k.engines.toList.map estatWord) ++ k.lane.masks.toList.flatMap (fun m => toBytes 32 m.toNat) ++
  padTo 128 (k.pins.flatMap fun p => toBytes 8 p.hdr.toNat ++ toBytes 1 p.slices.toNat ++ toBytes 7 0) ++
  padTo 3072 (k.steer.flatMap steerBytes) ++ k.lane.rows.toList.flatMap (fun r => toBytes 256 r.toNat) ++
  memRead k.scratch t.alloc t.size

/-- The core has come to rest for a capture: the lane slice stopped or without a stream, no record active, no load
outstanding (R310): an access that has failed while another report stands is not (R298). -/
def captureReady (k : Core) : Bool :=
  lanesStopped k && k.lane.quiet && k.engines.all (fun e => e.active.isEmpty) &&
  k.ls.lq.all (fun e => (heldFault k.ls e).isSome) && k.ls.held.all fun h => h.fault.isSome

/-- CAPTURE_COMPLETE (R310, R311). The image waits for a DRAM bank that a copy channel holds (R224). -/
def execCaptureComplete (c : Fin 256) (s : State) : Out :=
  let k := s.core c
  match k.stop, k.task with
  | some .capture, some t =>
    if !captureReady k || machHeld s k.ctxAddr (captureImage k t).length then .next s
    else
      let s := machWrite s k.ctxAddr (captureImage k t)
      .next (s.setCore c { s.core c with run := .captured, stop := none, ctxValid := true, result := 0 })
  | _, _ => .next s

/-! ## Registers (R308, R309) -/

/-- Read a register of the block. -/
def coreRegRead (s : State) (c : Fin 256) (off : Nat) : Word :=
  let k := s.core c
  if off = 8 then
    BitVec.ofNat 64 (k.result.toNat * 2 ^ 16 + (if k.isSealed then 16 else 0) + (if k.ctxValid then 8 else 0) + coreState s c)
  else if off = 0x10 then k.cCause.setWidth 64
  else if off = 0x18 then k.cEpc
  else if off = 0x20 then k.cTval
  else if off = 0x28 then k.ctxAddr
  else if off = 0x30 then (k.uncorrected ++ k.corrected : BitVec 64)
  else if off = 0x38 then k.mcLast.setWidth 64
  else 0

/-- Write CTX_ADDR; a write that sets a must-be-zero bit is ignored (log 20). -/
def coreRegWrite (s : State) (c : Fin 256) (off : Nat) (data : Word) : State :=
  if off = 0x28 && decide (data.extractLsb' 0 12 = 0) then s.setCore c { s.core c with ctxAddr := data } else s

/-- Which command a write to CORE_CTL gives; nothing for a BAD one (R309). -/
def coreCtl (c : Fin 256) (data : Word) : Option Instr :=
  match data.toNat with
  | 1 => some (.capture c)
  | 2 => some (.resume c)
  | 3 => some (.discard c)
  | 4 => some (.abort c)
  | _ => none

/-! ## Soft errors (R312) -/

/-- CORRECTED_ERROR: kind 0 of the agent that made the access. -/
def execCorrectedError (c : Fin 256) (agent : Fin 4) (s : State) : Out :=
  .next (logError s c (BitVec.ofNat 9 (352 + 8 * agent.val)))

/-- CONTEXT_LOST in the block of the core (R298, R300, R308): the task's own registers do not change (R312). -/
def noteLost (s : State) (c : Fin 256) (code : BitVec 9) : State :=
  let s := logError s c code
  let k := s.core c
  if k.task.isSome then s.setCore c { k with cCause := code.setWidth 12, cEpc := k.ls.pc, cTval := 0 } else s

/-- An error in a core's L1: a copy with data of its own is marked; of an exclusive word it is the word's only current value (R312). -/
def l1Error (s : State) (c : Fin 256) (va8 : Nat) : State :=
  let k := s.core c
  let mine (x : L1Word) : Bool := decide (x.va8 = va8)
  let own := k.l1.filterMap fun x => match x.place with
    | .dram a _ => if mine x && decide (x.rq = 0) then some (ErrorAt.dram (a / 8)) else none
    | _ => none
  { s.setCore c { k with l1 := k.l1.map fun x => if mine x && decide (x.rq ≠ 0) then { x with bad := true } else x } with
    poison := own ++ s.poison.filter fun p => !own.contains p }

/-- An access of a lead slice that is said not to fail would fail now (log 8). -/
def failsSure (s : State) (who : LeadId) : Bool :=
  (s.ls who).held.any (·.sure) && ((s.ls who).lq ++ (s.ls who).sq).any fun e =>
    (s.ls who).sure e.id && entryPoisoned s who e.kind

/-- So does one of any lead slice. -/
def someFailsSure (s : State) : Bool :=
  failsSure s .mgmt || (!(s.cores.toList.all fun k => k.ls.held.isEmpty) && (List.finRange 256).any fun c => failsSure s (.core c))

/-- A word is marked. An error does not strike a word before an access that is said not to fail has consumed it: that it is precise
(R297, R312) and that what comes behind it has gone ahead cannot both be (log 8, log 21). -/
def marked (s t : State) : State := if someFailsSure t && !someFailsSure s then s else t

/-- UNCORRECTABLE_ERROR: the word is marked; task state is lost with the attempt, or with the task where the region's
snapshot is lost (R312). A load that has issued before consumes the mark when it is performed (log 21). -/
def execUncorrectableError (w : ErrorAt) (s : State) : Out :=
  match w with
  | .taskState c lane snapLost =>
    let s := noteLost s c (if lane then 362 else 354)
    let k := s.core c
    match k.task with
    | none => .next s
    | some t =>
      if snapLost then .next (abortGraph (s.setCore c (requestDiscard k .abort)) t.vale t.graph)
      else match k.stop with
        | none | some .capture => .next (s.setCore c (requestDiscard k .leave))
        | _ => .next s
  | .l1 c va8 => .next (marked s (l1Error s c va8))
  | w => if s.poison.contains w then .next s else .next (marked s { s with poison := w :: s.poison })

end Sys2Proof.Machine
end

