-- ==== Sys2Proof/Machine/Fabric.lean ====
section
/-! DEFINITION. Machine/Fabric.lean: what comes back to a core's domain accesses (R190, R276 to R278, R297, R319 to R321), and the
ports (R316 to R319, R324). -/
namespace Sys2Proof.Machine

/-! ## Accesses that can still fail (log 8) -/

/-- A queue entry by its number. -/
def entryOf (l : LeadSlice) (id : Nat) : Option Entry := (l.sq ++ l.lq).find? fun e => decide (e.id = id)

/-- An entry leaves both queues; it can no longer fail. -/
def dropEntry (l : LeadSlice) (id : Nat) : LeadSlice :=
  { l with lq := l.lq.filter (fun e => !decide (e.id = id)), sq := l.sq.filter (fun e => !decide (e.id = id)),
           held := l.held.filter fun h => !decide (h.id = id) }

/-- Put a changed entry back. -/
def putEntry (l : LeadSlice) (e : Entry) : LeadSlice :=
  { l with lq := l.lq.map fun x => if x.id = e.id then e else x
           sq := l.sq.map fun x => if x.id = e.id then e else x }

/-- The registers and the queues as they stood before the access numbered `id`: what issued behind it is taken back (R297). -/
def takeBack (l : LeadSlice) (id : Nat) : LeadSlice :=
  let older (e : Entry) : Bool := decide (e.id < id)
  let l := { l with lq := l.lq.filter older, sq := l.sq.filter older }
  match l.held.find? fun h => decide (h.id = id) with
  | some h => { l with belt := h.belt, n := h.n, lp := h.lp, held := l.held.filter fun x => decide (x.id < id) }
  | none => l

/-- Nothing committing is out any more (R306). -/
def uncommit (s : State) (who : LeadId) : State :=
  match who with
  | .mgmt => { s with mgmt := { s.mgmt with commit := false } }
  | .core c => s.setCore c { s.core c with commit := false }

/-- The requests of a lead slice's accesses from number `id` on reach nothing any more. -/
def dropLeadRequests (s : State) (who : LeadId) (id : Nat) : State :=
  match who with
  | .mgmt => s
  | .core c => dropRequests s fun r => decide (r.core = c) && decide (r.who = .lead) && decide (id ≤ r.num)

/-- An access has failed and none that is older can: it and all behind it are taken back, and it is reported at its own address
(R210, R297); a POISON or CONTEXT_LOST report that is pending comes first, and the access issues again (R298). -/
def failNow (s : State) (who : LeadId) (e : Entry) (code : BitVec 12) : State :=
  let s := dropLeadRequests (uncommit (s.setLs who { takeBack (s.ls who) e.id with pc := e.pc }) who) who e.id
  match firstReport s who with
  | some p => takePending s who p
  | none =>
    if code = 353 then report (logLead s who) who 353 e.pc (entryVa e.kind &&& ~~~ 7#64)
    else report s who code e.pc (entryVa e.kind)

/-- The lead slice takes reports: not while one stands, nor in a captured core (R298, R310). -/
def takesReports (s : State) : LeadId → Bool
  | .mgmt => true
  | .core c => decide ((s.core c).run = .running) || decide ((s.core c).run = .stopping)

/-- An access has failed: it is reported when no older one can fail and no report stands (R297, R298). One that is said not to fail
waits until it can be performed (log 8). -/
def failHeld (s : State) (who : LeadId) (e : Entry) (code : BitVec 12) : State :=
  let l := s.ls who
  if l.sure e.id then s
  else if olderHeld l e.id || !takesReports s who then
    { s.setLs who { l with held := l.held.map fun h => if h.id = e.id then { h with fault := some code } else h } with
      stalled := false }
  else failNow s who e code

/-- The task is sealed once a committing access has been performed (R306). -/
def sealTask (k : Core) (e : Entry) : Core :=
  match e.kind with
  | .amo .. | .cas .. => { k with isSealed := true }
  | .store va _ _ _ _ (.endpoint _ _) => if va.getLsbD 6 then { k with isSealed := true } else k
  | _ => k

/-- A lead access of a core has been performed: it leaves its queues, and its request is complete. -/
def finishHeld (s : State) (c : Fin 256) (e : Entry) : State :=
  let k := sealTask (s.core c) e
  let s := { s.setCore c { k with ls := dropEntry k.ls e.id } with stalled := false }
  dropRequests s fun r => decide (r.core = c) && decide (r.who = .lead) && decide (r.num = e.id)

/-- The value of an access reaches what waits for it (R103). -/
def bringValue (s : State) (c : Fin 256) (e : Entry) (v : Word) : State :=
  s.setCore c { s.core c with ls := arrive (s.core c).ls e.id v }

/-! ## Domain loads and stores (R190) -/

/-- The words of a `.si` load's span, or the bytes of the access itself: address and length at the peer (R203, R344). -/
def domainSpan (va : Word) (n : Nat) (rq : BitVec 2) (span : Nat) : Word × Nat :=
  if rq = 2 then
    let w0 := va.toNat / 8 % 16
    (domainAddr (va &&& ~~~ 7#64), 8 * (min (w0 + span) 15 + 1 - w0))
  else (domainAddr va, n)

/-- A domain load has its bytes: the value, and for `.si` the copies of its span (R190, R204), unless a copy of a domain word has had
to leave L1, or to change, since the load left at L1's count `gen` (R205, R223). -/
def finishDomainLoad (s : State) (c : Fin 256) (e : Entry) (bs : List Byte) (gen : Nat) : State :=
  match e.kind with
  | .load va n signed rq span _ =>
    let first := domainSpan va n rq span
    let off := if rq = 2 then va.toNat % 8 else 0
    let v := extendLoaded signed n (ofBytes ((bs.drop off).take n))
    let k := s.core c
    let k := if rq = 2 ∧ k.l1Gen = gen then
        match taskVale s c with
        | some vale =>
          let k := l1Room k (Config.choose s.ticks va.toNat) (asidOf s vale, va.toNat / 128)
          (List.range (first.2 / 8)).foldl (fun k i =>
            l1Put k { va8 := va.toNat / 8 + i, asid := asidOf s vale, rq := 2,
                      place := .peer (domainDev va) (first.1 + BitVec.ofNat 64 (8 * i)),
                      data := BitVec.ofNat 64 (ofBytes ((bs.drop (8 * i)).take 8)), ends := leaseEnd s vale,
                      spans := [k.spanSeq], rd := true, wr := false, late := 0, bad := false }) { k with spanSeq := k.spanSeq + 1 }
        | none => k
      else k
    finishHeld (bringValue (s.setCore c k) c e v) c e
  | _ => finishHeld s c e

/-- The bytes that an access has written at a place, given the old value of an atomic. -/
def writtenBy (k : EntryKind) (old : Nat) : Option (Place × List Byte) :=
  match k with
  | .store _ n data _ _ p => some (p, toBytes n data.toNat)
  | .amo _ n op v p => ((Atomic.amo op v).result n old).map fun x => (p, toBytes n x)
  | .cas _ n cmp new p => ((Atomic.cas cmp new).result n old).map fun x => (p, toBytes n x)
  | _ => none

/-- The core's own copies take what a domain store or atomic has written (R204, R275). -/
def copiesTake (s : State) (c : Fin 256) (e : Entry) (old : Nat) : State :=
  match writtenBy e.kind old with
  | some (p, bs) => storeCopies s c p bs
  | none => s

/-- A domain atomic is performed, its write acknowledged and its old value back: it passes the tag check and leaves (R207, R259,
R278). -/
def finishDomainAtomic (s : State) (c : Fin 256) (e : Entry) : State := finishHeld (entryTagCheck s c e.kind) c e

/-- A domain store is performed, its write acknowledged (R207, R278). -/
def finishDomainStore (s : State) (c : Fin 256) (e : Entry) : State := finishDomainAtomic (copiesTake s c e 0) c e

/-- The bytes of a store or an atomic. -/
def entryBytes : EntryKind → Option (Word × Nat)
  | .store va n .. => some (va, n)
  | .amo va n .. => some (va, n)
  | .cas va n .. => some (va, n)
  | _ => none

/-- A fill of the core's matrix engine holds back the completion of a store or an atomic (R266). -/
def fillHolds (s : State) (c : Fin 256) (k : EntryKind) : Bool :=
  match entryBytes k with
  | some (va, n) => fillBlocks (s.core c) va n
  | none => false

/-- The peer has answered all that the access asked for, in time: a store its acknowledgement, an atomic its old value as well (R278,
R321). -/
def answered (r : Request) (k : EntryKind) : Bool :=
  r.acked && (match k with
    | .store .. => true
    | .amo .. | .cas .. => r.back
    | _ => false)

/-- A store or an atomic that the peer has answered completes, once no fill holds it back (R266, R278). -/
def finishAnswered (s : State) (c : Fin 256) (e : Entry) (r : Request) : State :=
  if !answered r e.kind || fillHolds s c e.kind then s
  else match e.kind with
    | .store .. => finishDomainStore s c e
    | _ => finishDomainAtomic s c e

/-! ## Answers (R190, R277, R278) -/

/-- The cause of a refusal by a peer, for the lead slice. -/
def answerCode : PeerAnswer → Option (BitVec 12)
  | .denied => some 290
  | .unbound => some 291
  | .poison => some 353
  | .data _ => none

/-- The bytes of an atomic's word, and its value. -/
def atomicOf : EntryKind → Option (Word × Nat × Atomic)
  | .amo va n op v _ => some (va, n, .amo op v)
  | .cas va n cmp new _ => some (va, n, .cas cmp new)
  | _ => none

/-- The old value of an atomic at a peer has come back: it is performed when its write is acknowledged (R278). -/
def atomicValue (s : State) (c : Fin 256) (e : Entry) (r : Request) (old : Nat) : State :=
  let r := { r with back := true }
  finishAnswered (copiesTake (putRequest (bringValue s c e (BitVec.ofNat 64 old)) r) c e old) c e r

/-- The w bytes of a word at an address (R277). -/
def wordPart (va : Word) (n : Nat) (x : Word) : Nat := x.toNat / 2 ^ (8 * (va.toNat % 8)) % 2 ^ (8 * n)

/-- The word with those bytes replaced (R277 `y`). -/
def wordWith (va : Word) (n : Nat) (x : Word) (new : Nat) : Word :=
  let lo := 8 * (va.toNat % 8)
  BitVec.ofNat 64 (x.toNat - wordPart va n x * 2 ^ lo + new % 2 ^ (8 * n) * 2 ^ lo)

/-- The next access of an emulation leaves, if its path is up and its sequence has room: the read of the word, or the CAS that
writes the word with the atomic's bytes replaced (R277). -/
def emulSend (s : State) (c : Fin 256) (e : Entry) (r : Request) : State :=
  match r.emul, atomicOf e.kind, routeTo s r.dev with
  | some m, some (va, n, x), .up _ =>
    let addr := domainAddr (va &&& ~~~ 7#64)
    match m.read with
    | none =>
      sendOut (putRequest s { r with since := s.now.toNat, emul := some { m with out := true } })
        (.request r.id c .lead r.dev addr 8 .read)
    | some w =>
      match x.result n (wordPart va n w) with
      | none => s
      | some new =>
        match takeSeq s c .lead r.path with
        | none => s
        | some (s, sq) =>
          sendOut (putRequest s { r with since := s.now.toNat, wseq := some sq, acked := false,
                                         emul := some { m with out := true } })
            (.request r.id c .lead r.dev addr 8 (.cas w (wordWith va n w new)))
  | _, _, _ => s

/-- An answer to an access of an emulation (R277): the word, whose CAS is tried unless the atomic writes nothing; or the word
that the CAS found, which succeeded if it is the one read. -/
def emulAnswer (s : State) (c : Fin 256) (e : Entry) (r : Request) (m : Emulation) (bs : List Byte) : State :=
  match atomicOf e.kind with
  | none => s
  | some (va, n, x) =>
    let w := BitVec.ofNat 64 (ofBytes (bs.take 8))
    match m.read with
    | none =>
      let o := wordPart va n w
      match x.result n o with
      | none => atomicValue s c e { r with emul := none, acked := true } o
      | some _ =>
        let r := { r with emul := some { m with read := some w, out := false } }
        if fillHolds s c e.kind then putRequest s r else emulSend (putRequest s r) c e r
    | some w0 =>
      if w = w0 then atomicValue s c e { r with emul := none } (wordPart va n w0)
      else if 64 ≤ m.tries then if (s.ls (.core c)).sure e.id then s else failHeld (dropLeadRequests s (.core c) e.id) (.core c) e 229
      else
        let r := { r with wseq := none, acked := false, emul := some { tries := m.tries + 1, read := none, out := false } }
        emulSend (putRequest s r) c e r

/-- An answer reaches the lead access that sent the request. A refusal never comes to one that is said not to fail (log 8). -/
def leadAnswer (s : State) (r : Request) (ans : PeerAnswer) : State :=
  match entryOf (s.core r.core).ls r.num with
  | none => dropRequests s fun q => decide (q.id = r.id)
  | some e =>
    match answerCode ans with
    | some code =>
      if answered r e.kind || (s.core r.core).ls.sure e.id then s
      else failHeld (dropRequests s fun q => decide (q.id = r.id)) (.core r.core) e code
    | none =>
      match r.emul, e.kind, ans with
      | some m, _, .data bs => emulAnswer s r.core e r m bs
      | none, .load .., .data bs => finishDomainLoad s r.core e bs r.gen
      | none, .amo _ n _ _ _, .data bs => atomicValue s r.core e r (ofBytes (bs.take n))
      | none, .cas _ n _ _ _, .data bs => atomicValue s r.core e r (ofBytes (bs.take n))
      | _, _, _ => s

/-- Something reaches the reading of a tile whose requests carry number `num`: a matrix record's or a BPIN's (R242). -/
def tileBack (s : State) (c : Fin 256) (num : Nat) (f : TileRead → TileRead) : State :=
  let k := s.core c
  let mine (x : TileRead) : TileRead := if x.num = num then f x else x
  let x := k.eng 2
  let k := k.setEng 2 { x with active := x.active.map fun a => { a with tile := a.tile.map mine } }
  { s.setCore c { k with pinFill := k.pinFill.map mine } with stalled := false }

/-- An answer reaches the engine's record that sent the request. -/
def engineAnswer (s : State) (r : Request) (e : Fin 4) (ans : PeerAnswer) : State :=
  let k := s.core r.core
  match (k.eng e).active.find? fun a => decide (a.num = r.num) with
  | none => dropRequests s fun q => decide (q.id = r.id)
  | some a =>
    let put : State :=
      { s.setCore r.core (k.setEng e ((k.eng e).update a.num fun x => { x with inbox := x.inbox ++ [(r.part, ans)] })) with
        stalled := false }
    match r.wseq, ans with
    | none, _ => dropRequests put fun q => decide (q.id = r.id)
    | some _, .denied => latchFault s r.core e a.num 306 a.r.tval
    | some _, .unbound => latchFault s r.core e a.num 307 a.r.tval
    | some _, _ => s

/-- A store of the graph engine was refused (R345). -/
def graphRefused (s : State) (v : Fin 16) : State := s.setVale v { s.vale v with wrErr := true }

/-- DOMAIN_RESPONSE of device `dev` to request `id` (R190, R277, R345). A response to no request that is out at that device reaches
nothing (R307), nor does one that comes more than 20 µs after its request left: that request completes with TIMEOUT (R321). -/
def execDomainResponse (dev : BitVec 10) (id : Nat) (ans : PeerAnswer) (s : State) : Out :=
  match requestOf s id with
  | none => .next s
  | some r =>
    if r.dev ≠ dev ∨ requestLate s r then .next s
    else .next (match r.who with
      | .lead => leadAnswer s r ans
      | .engine e =>
        if e = 2 then dropRequests (tileBack s r.core r.num fun x => { x with back := some ans }) fun q => decide (q.id = r.id)
        else engineAnswer s r e ans
      | .graph v =>
        let s := dropRequests s fun q => decide (q.id = r.id)
        match ans with
        | .data _ => s
        | _ => graphRefused s v)

/-- A request without its response completes with TIMEOUT (R319, R321); an access that is said not to fail gets its response (log 8). -/
def timeOut (s : State) (r : Request) : State :=
  let left := dropRequests s fun q => decide (q.id = r.id)
  match r.who with
  | .lead => match entryOf (s.core r.core).ls r.num with
    | some e => if answered r e.kind || (s.core r.core).ls.sure e.id then s else failHeld left (.core r.core) e 289
    | none => left
  | .engine e =>
    let s := left
    if e = 2 then tileBack s r.core r.num fun x => { x with failed := some 289 }
    else match ((s.core r.core).eng e).active.find? fun a => decide (a.num = r.num) with
    | some a => latchFault s r.core e a.num 305 a.r.tval
    | none => s
  | .graph v => graphRefused left v

/-- DOMAIN_TIMEOUT of request `id` to device `dev`, due once 20 µs have passed (R321); whether the peer performed a write (`done`)
stays unknown to this device. -/
def execDomainTimeout (dev : BitVec 10) (id : Nat) (_done : Bool) (s : State) : Out :=
  match requestOf s id with
  | some r => if r.dev = dev ∧ requestLate s r then .next (timeOut s r) else .next s
  | none => .next s

/-- The write of a request has been performed at its destination's home (R278). Of a copy channel's write the core's own copies take
their mark again: one may have been filled while it was out (R223). -/
def acknowledge (s : State) (r : Request) : State :=
  match r.who with
  | .lead => match entryOf (s.core r.core).ls r.num with
    | some e => finishAnswered (putRequest s { r with acked := true }) r.core e { r with acked := true }
    | none => dropRequests s fun q => decide (q.id = r.id)
  | .engine e =>
    let s := if e = 0 ∨ e = 1 then markLate s r.core e (.peer r.dev r.addr) r.len else s
    let k := s.core r.core
    let x := (k.eng e).update r.num fun a => { a with acks := a.acks.filter fun i => !decide (i = r.id) }
    dropRequests { s.setCore r.core (k.setEng e x) with stalled := false } fun q => decide (q.id = r.id)
  | .graph _ => s

/-- SWITCH_COUNTER_RETURN: the source's writes below the counter are performed (R278). It comes too late for a write that left more
than 20 µs before: that one completes with TIMEOUT (R321). -/
def execSwitchCounterReturn (c : Fin 256) (who : DomAgent) (sw : Nat) (n : BitVec 32) (s : State) : Out :=
  let q := seqOf s c who sw
  if (q.next - q.acked).toNat < (n - q.acked).toNat then .next s
  else
    let s := putSeq s { q with acked := n }
    let mine (r : Request) : Bool := decide (r.core = c) && decide (r.who = who) && decide (r.path = sw) && r.wseq.isSome
    .next ((s.hub.reqs.filter mine).foldl (fun s r =>
      if requestPassed s r && !requestLate s r then acknowledge s r else s) s)

/-! ## Ports (R316 to R319, R324) -/

/-- The lowest four good lanes. -/
def lowestFour (good : BitVec 5) : BitVec 5 :=
  (((List.range 5).filter fun i => good.getLsbD i).take 4).foldl (fun m i => m ||| BitVec.ofNat 5 (2 ^ i)) 0

/-- Good lanes. -/
def goodLanes (good : BitVec 5) : Nat := ((List.range 5).filter fun i => good.getLsbD i).length

/-- Every request that is out through port `p` times out (R319). -/
def timeOutPort (s : State) (p : Fin 18) : State :=
  (s.hub.reqs.filter fun r => decide (r.port = p)).foldl (fun s r =>
    if s.hub.reqs.any fun q => decide (q.id = r.id) then timeOut s r else s) s

/-- The paths through a port are lost, other ports take over what they reach; the counters of switches that no path leads to any
more restart (R278, R319). -/
def loseRoutes (s : State) (p : Fin 18) : State :=
  let left := s.hub.paths.filter fun x => !decide (x.port = p)
  let seqs := s.hub.seqs.filter fun q => left.any fun x => decide (x.path = q.path)
  addPaths { s with hub := { s.hub with paths := left, seqs := seqs } }

/-- Whether a phase is one that a fall to DOWN from is a link reset (R316). -/
def PortPhase.linked : PortPhase → Bool
  | .up | .repair | .retrain => true
  | _ => false

/-- A port enters DOWN; from UP, REPAIR or RETRAIN this is a link reset: the replay buffer is discarded (R316, R319, R36). -/
def portDown (s : State) (p : Fin 18) (failed : Bool) : State :=
  let x := s.ports[p]
  let down : Port := { x with
    phase := .down, lanes := 0, good := 0, inRow := 0, replaying := false, expect := 0, nextOut := 0, replay := [],
    credits := 0, partner := none, failed := failed }
  if x.phase.linked then loseRoutes ((linkResetIfaces (timeOutPort s p) p).setPort p down) p
  else s.setPort p down

/-- RETRAIN of PORT_CTL: a DOWN port enters TRAIN (R316, R324). -/
def execRetrain (p : Fin 18) (s : State) : Out :=
  let x := s.ports[p]
  .next (if x.phase = .down then s.setPort p { x with phase := .train, failed := false } else s)

/-- DISABLE of PORT_CTL (R316, R324). -/
def execDisable (p : Fin 18) (s : State) : Out := .next (portDown s p false)

/-- PARTNER_DETECTED (R316). -/
def execPartnerDetected (p : Fin 18) (s : State) : Out :=
  let x := s.ports[p]
  .next (if x.phase = .down then s.setPort p { x with phase := .train, failed := false } else s)

/-- TRAINING_DONE: the lowest four good lanes are mapped; what the partner tells is kept, and devices that had no path get one
(R278, R316). -/
def execTrainingDone (p : Fin 18) (good : BitVec 5) (partner : Partner) (s : State) : Out :=
  let x := s.ports[p]
  if x.phase = .train ∧ 4 ≤ goodLanes good then
    .next (addPaths (s.setPort p { x with phase := .up, lanes := lowestFour good, good := good, partner := some partner }))
  else .next s

/-- TRAINING_FAILURE (R316). -/
def execTrainingFailure (p : Fin 18) (s : State) : Out :=
  .next (if (s.ports[p]).phase = .train then portDown s p true else s)

/-- TRAINING_RETRY (R316). -/
def execTrainingRetry (p : Fin 18) (s : State) : Out :=
  let x := s.ports[p]
  .next (if x.phase = .down ∧ x.failed = true then s.setPort p { x with phase := .train, failed := false } else s)

/-! ## Flits (R317) -/

/-- Bytes 0 to 247 of a flit, byte 0 lowest: the header's sequence number, acknowledgement and credits, then the payload (R317; log
62). -/
def flitCovered (x : Flit) : BitVec 1984 := x.payload ++ (x.credits ++ x.ack ++ x.seq : BitVec 64)

/-- The 256 bytes of a flit. -/
def flitBytes (x : Flit) : BitVec 2048 := x.crc ++ flitCovered x

/-- The CRC over bytes 0 to 247 fits (R317). -/
def flitGood (x : Flit) : Bool := decide (x.crc = Config.flitCrc (flitCovered x))

/-- A flit with its CRC. -/
def makeFlit (seq ack : BitVec 16) (credits : BitVec 32) (payload : BitVec 1920) : Flit :=
  let x : Flit := { seq := seq, ack := ack, credits := credits, payload := payload, crc := 0 }
  { x with crc := Config.flitCrc (flitCovered x) }

/-- The flits of the replay buffer that an acknowledgement leaves: it names the last flit that the partner has taken (log 62). -/
def keepUnacked (ack : BitVec 16) (replay : List Flit) : List Flit :=
  if replay.any fun x => decide (x.seq = ack) then (replay.dropWhile fun x => !decide (x.seq = ack)).tail else replay

/-- The port sends a new flit in UP, while the replay buffer of 512 has room (R317, R318). -/
def sendFlit (s : State) (p : Fin 18) (payload : BitVec 1920) (credits : BitVec 32) : State :=
  let x := s.ports[p]
  if x.phase ≠ .up ∨ 512 ≤ x.replay.length then s
  else
    let f := makeFlit x.nextOut (x.expect - 1) credits payload
    sendOut (s.setPort p { x with nextOut := x.nextOut + 1, replay := x.replay ++ [f] }) (.flit p f)

/-- The partner asks for a replay: the flits from that one on leave again, in order (R317). -/
def replayFlits (s : State) (p : Fin 18) (from_ : BitVec 16) : State :=
  let x := s.ports[p]
  if x.phase ≠ .up ∧ x.phase ≠ .repair then s
  else (x.replay.dropWhile fun f => !decide (f.seq = from_)).foldl (fun s f => sendOut s (.flit p f)) s

/-- FLIT_RECEIVE (R317): a good flit is handed on once and in order, and its acknowledgement empties the replay buffer. A bad one,
whatever its header says, is discarded and a replay requested; the `first` of a replay, where it is bad again, is a failed replay, and
three of these in a row force RETRAIN. -/
def execFlitReceive (p : Fin 18) (f : Flit) (first : Bool) (s : State) : Out :=
  let x := s.ports[p]
  if x.phase ≠ .up ∧ x.phase ≠ .repair then .next s
  else if flitGood f then
    if f.seq ≠ x.expect then .next s
    else
      .next (s.setPort p { x with expect := x.expect + 1, handed := x.handed + 1, inRow := 0, replaying := false,
                                  replay := keepUnacked f.ack x.replay, credits := f.credits })
  else if !x.replaying then .next (s.setPort p { x with replaying := true })
  else if !first then .next s
  else
    let row := x.inRow + 1
    let x := { x with replays := satIncr x.replays, inRow := row }
    .next (s.setPort p (if 3 ≤ row then { x with phase := .retrain, inRow := 0, replaying := false } else x))

/-- LANE_FAILURE (R316): a mapped lane is replaced by the spare while that is good, else the port retrains. -/
def execLaneFailure (p : Fin 18) (l : Fin 5) (s : State) : Out :=
  let x := s.ports[p]
  let good := x.good &&& ~~~ BitVec.ofNat 5 (2 ^ l.val)
  let y := { x with good := good }
  match x.phase with
  | .up =>
    if !x.lanes.getLsbD l then .next (s.setPort p y)
    else .next (s.setPort p { y with phase := if 4 ≤ goodLanes good then .repair else .retrain })
  | .repair => .next (s.setPort p (if 4 ≤ goodLanes good then y else { y with phase := .retrain }))
  | _ => .next s

/-- LANE_MAP_SWITCH: once no replay is outstanding (R318). -/
def execLaneMapSwitch (p : Fin 18) (s : State) : Out :=
  let x := s.ports[p]
  .next (if x.phase = .repair ∧ x.replaying = false then
    s.setPort p { x with phase := .up, lanes := lowestFour x.good } else s)

/-- RETRAIN_COMPLETE: the sequence state is kept (R316). -/
def execRetrainComplete (p : Fin 18) (good : BitVec 5) (s : State) : Out :=
  let x := s.ports[p]
  .next (if x.phase = .retrain ∧ 4 ≤ goodLanes good then
    s.setPort p { x with phase := .up, good := good, lanes := lowestFour good, inRow := 0 } else s)

/-- RETRAIN_FAILURE: a link reset (R316). -/
def execRetrainFailure (p : Fin 18) (s : State) : Out :=
  .next (if (s.ports[p]).phase = .retrain then portDown s p false else s)

/-- PORT_STATE (R324). -/
def portState (x : Port) : Word :=
  (x.replays ++ 0#24 ++ x.lanes ++ BitVec.ofNat 3 (match x.phase with
    | .down => 0
    | .train => 1
    | .up => 2
    | .repair => 3
    | .retrain => 4) : BitVec 64)

/-- The command of a write to PORT_CTL; others are ignored (R324). -/
def portCtl (p : Fin 18) (data : Word) : Option Instr :=
  match data.toNat with
  | 1 => some (.retrain p)
  | 2 => some (.disable p)
  | _ => none

end Sys2Proof.Machine
end

