-- ==== Sys2Proof/Machine/Hub.lean ====
section
/-! DEFINITION. Machine/Hub.lean: the hub block (R302, R323), teardown (R331), gating (R214), power (R332), the activation
regulators (R294, R295). -/
namespace Sys2Proof.Machine

/-- Change the hub. -/
def setHub (s : State) (h : Hub) : State := { s with hub := h }

/-! ## Teardown (R331) -/

/-- TEARDOWN (R331). -/
def execTeardown (v : Fin 16) (s : State) : Out :=
  let x := s.vale v
  if x.iface.frozen then .next (setHub s { s.hub with result := 1 })
  else if x.rstate ≠ .stable ∨ s.hub.teardown.isSome = true then .next (setHub s { s.hub with result := 2 })
  else
    let s := dropWork s v
    .next (setHub s { s.hub with result := 0, teardown := some v })

/-- The registers of R45 and R196 at their reset values; the interface block and the packets of its launch window stand. -/
def freshVale (x : Vale) : Vale :=
  { Vale.zero with iface := x.iface, commands := x.commands }

/-- TEARDOWN_COMPLETE: once every task has been discarded and a RESIZE taken meanwhile has ended (log 40), the key, the scrub, the
resources, the registers (R331). Bank commands of the vale's channels that have not ended stay where they are (log 81). -/
def execTeardownComplete (s : State) : Out :=
  match s.hub.teardown with
  | none => .next s
  | some v =>
    if valeBusy s v ∨ (s.vale v).rstate ≠ .stable then .next s
    else
      let s := scrubVale s v
      let s := (coresOf (s.vale v).cores).foldl (fun s c => scrubCore s c true) s
      let s := s.setVale v (freshVale (s.vale v))
      .next (setHub s { s.hub with teardown := none })

/-! ## Gating (R214, R323) -/

/-- GATE_BANKS_WRITE (R323). -/
def execGateBanksWrite (c : Fin 256) (data : Word) (s : State) : Out :=
  if data.extractLsb' 32 32 ≠ 0 then .next s
  else
    let h := s.hub
    let want := data.extractLsb' 0 32
    let woken := h.offBanks[c] &&& ~~~ want
    .next (settleGates (setHub s { h with
      gateBanks := h.gateBanks.set c want, offBanks := h.offBanks.set c (h.offBanks[c] &&& ~~~ woken)
      wakingBanks := h.wakingBanks.set c (h.wakingBanks[c] ||| woken) }) c)

/-- GATE_WAYS_WRITE: the lines of the ways that are gated are written back and leave; gated ways wake as R214 gives. -/
def execGateWaysWrite (i : Fin 128) (data : Word) (s : State) : Out :=
  if data.extractLsb' 16 48 ≠ 0 then .next s
  else
    let h := s.hub
    let want := data.extractLsb' 0 16
    let woken := h.gateWays[i] &&& ~~~ want
    let s := setHub s { h with
      gateWays := h.gateWays.set i want, wakingWays := h.wakingWays.set i ((h.wakingWays[i] ||| woken) &&& ~~~ want) }
    .next { s with l2 := s.l2.set i (fitWays (waysAwake s i) s.l2[i]) }

/-- WAKE_END (R214). -/
def execWakeEnd (r : GatedRes) (s : State) : Out :=
  let h := s.hub
  match r with
  | .bank c b => .next (setHub s { h with wakingBanks := h.wakingBanks.set c (h.wakingBanks[c] &&& ~~~ BitVec.ofNat 32 (2 ^ b.val)) })
  | .way i w => .next (setHub s { h with wakingWays := h.wakingWays.set i (h.wakingWays[i] &&& ~~~ BitVec.ofNat 16 (2 ^ w.val)) })

/-! ## Power (R294, R295, R332) -/

/-- LIMIT while the hub holds power down: lowered by an amount the spec leaves open, and never to 0, which is no limit; no limit
is lowered to any (log 22). -/
def loweredLimit (n : Nat) (x : Stack) : Stack :=
  { x with limit :=
      if x.written = 0 then BitVec.ofNat 20 (Config.pick n % (2 ^ 20 - 1) + 1)
      else if x.written = 1 then 1
      else BitVec.ofNat 20 (Config.pick n % (x.written.toNat - 1) + 1) }

/-- POWER_LIMITING: POWER is measured; while it exceeds WATTS the hub lowers VDD within its range and LIMIT (R323, R332). -/
def execPowerLimiting (power : BitVec 12) (vdd : BitVec 10) (s : State) : Out :=
  let h := s.hub
  let above := decide (h.pwrLimit < power)
  let inRange := decide (360 ≤ vdd.toNat) && decide (vdd.toNat ≤ 550) && (!above || decide (vdd ≤ h.vdd))
  let s := setHub s { h with power := power, limiting := above, vdd := if inRange then vdd else h.vdd }
  .next { s with hbm := s.hbm.map fun x => if above then loweredLimit s.ticks x else { x with limit := x.written } }

/-- The activates of the last microsecond after a step: free, but an activate never makes them exceed LIMIT, and a LIMIT that was
lowered applies from the next activate (R294, R295; log 18). -/
def Stack.pass (x : Stack) (acts : Nat) : Stack :=
  { x with count :=
      if x.limit = 0 then BitVec.ofNat 20 acts
      else BitVec.ofNat 20 (acts % (max x.limit.toNat x.count.toNat + 1)) }

/-- ACTIVATE_DELAY (R295): an activate that would make COUNT exceed LIMIT is delayed; that changes only timing, and DELAYED counts
it. -/
def execActivateDelay (stk : Fin 8) (s : State) : Out :=
  let x := s.hbm[stk]
  if x.limit = 0 ∨ x.count.toNat < x.limit.toNat then .next s
  else .next { s with hbm := s.hbm.set stk { x with delayed := satIncr x.delayed } }

/-- Read a regulator register (R294). -/
def stackRead (s : State) (stk : Fin 8) (off : Nat) : Word :=
  let x := s.hbm[stk]
  if off = 0 then x.limit.setWidth 64
  else if off = 8 then (x.delayed ++ 0#12 ++ x.count : BitVec 64)
  else 0

/-- Write a regulator register (R294). -/
def stackWrite (s : State) (stk : Fin 8) (off : Nat) (data : Word) : State :=
  if off = 0 && decide (data.extractLsb' 20 44 = 0) then
    let l := data.extractLsb' 0 20
    { s with hbm := s.hbm.set stk { s.hbm[stk] with limit := l, written := l } }
  else s

/-! ## Task mailbox (R302) -/

/-- TMBX_POP (R302). -/
def execTmbxPop (s : State) : Out :=
  let h := s.hub
  match h.tmbx with
  | p :: rest =>
    let head : Word := BitVec.ofNat 64 (p.core.val * 2 ^ 40 + p.vale.val * 2 ^ 32 + p.words.length * 2 ^ 8 + 1)
    .next (setHub s { h with tmbx := rest, tHead := head, tWords := Vector.ofFn fun i => p.words.getD i.val 0 })
  | [] => .next (setHub s { h with tHead := 0, tWords := Vector.replicate 8 0 })

/-! ## Registers (R323) -/

/-- Index of a register of an array that starts at `base` with 8-byte steps. -/
def regIndex (w off base : Nat) : BitVec w := BitVec.ofNat w ((off - base) / 8)

/-- Read a hub register. -/
def hubRead (s : State) (off : Nat) : Word :=
  let h := s.hub
  if off = 0 then (Config.serial.setWidth 32 ++ 0#22 ++ h.index : BitVec 64)
  else if off = 8 then h.mgmtBase
  else if off = 0x18 then BitVec.ofNat 64 (h.result.toNat * 2 ^ 16 + (if h.teardown.isSome then 1 else 0))
  else if off = 0x20 then h.pwrLimit.setWidth 64
  else if off = 0x28 then (0#20 ++ h.power ++ 0#15 ++ BitVec.ofBool h.limiting ++ 0#6 ++ h.vdd : BitVec 64)
  else if off = 0x30 then BitVec.ofNat 64 h.tmbx.length
  else if off = 0x40 then h.tHead
  else if 0x80 ≤ off ∧ off < 0xC0 then h.tWords[(regIndex 3 off 0x80).toFin]
  else if 0x100 ≤ off ∧ off < 0x180 then h.domMask[(regIndex 4 off 0x100).toFin]
  else if 0x200 ≤ off ∧ off < 0xA00 then h.bind[(regIndex 8 off 0x200).toFin]
  else if 0xA00 ≤ off ∧ off < 0xE00 then
    let g : Fin 64 := (BitVec.ofNat 6 ((off - 0xA00) / 16)).toFin
    if off % 16 = 0 then h.grpCfg[g] else h.grpList[g]
  else if 0xE00 ≤ off ∧ off < 0x1200 then (h.gateWays[(regIndex 7 off 0xE00).toFin]).setWidth 64
  else if 0x1200 ≤ off ∧ off < 0x1A00 then (h.gateBanks[(regIndex 8 off 0x1200).toFin]).setWidth 64
  else 0

/-- The offset names a register that is frozen while any interface is CONFIG_LOCKED or RUN (R323). -/
def hubFrozenReg (off : Nat) : Bool :=
  decide (off < 0x10) || (decide (0x100 ≤ off) && decide (off < 0x180)) || (decide (0x200 ≤ off) && decide (off < 0xE00))

/-- Write a hub register that is no command, pop or gate; a must-be-zero bit makes the write ignored (R323). -/
def hubWrite (s : State) (off : Nat) (data : Word) : State :=
  let h := s.hub
  if hubFrozenReg off && anyFrozen s then errorEvery s 320
  else if off = 0 then
    if data.extractLsb' 10 22 = 0 then setHub s { h with index := data.extractLsb' 0 10 } else s
  else if off = 8 then
    if data.extractLsb' 1 47 = 0 then setHub s { h with mgmtBase := data } else s
  else if off = 0x20 then
    if 600 ≤ data.toNat ∧ data.toNat ≤ 1800 then setHub s { h with pwrLimit := data.setWidth 12 } else s
  else if 0x100 ≤ off ∧ off < 0x180 then setHub s { h with domMask := h.domMask.set (regIndex 4 off 0x100).toFin data }
  else if 0x200 ≤ off ∧ off < 0xA00 then
    if data.extractLsb' 56 7 = 0 ∧ data.extractLsb' 10 38 = 0 then
      setHub s { h with bind := h.bind.set (regIndex 8 off 0x200).toFin data }
    else s
  else if 0xA00 ≤ off ∧ off < 0xE00 then
    let g : Fin 64 := (BitVec.ofNat 6 ((off - 0xA00) / 16)).toFin
    let colls := h.colls.set g { h.colls[g] with last := none, other := none }
    if off % 16 ≠ 0 then setHub s { h with grpList := h.grpList.set g data, colls := colls }
    else if data.extractLsb' 60 3 = 0 ∧ data.extractLsb' 43 13 = 0 ∧ data.extractLsb' 10 22 = 0 then
      setHub s { h with grpCfg := h.grpCfg.set g data, colls := colls }
    else s
  else s

/-- The instruction of a write to HUB_CTL; nothing for a BAD one (R323). -/
def hubCtl (data : Word) : Option Instr :=
  if data.extractLsb' 12 52 = 0 ∧ data.extractLsb' 0 8 = 1 then some (.teardown (data.extractLsb' 8 4).toFin) else none

end Sys2Proof.Machine
end

