-- ==== Sys2Proof/Machine/Blocks.lean ====
section
/-! DEFINITION. Machine/Blocks.lean: the register region (R313, R343): which register an address names, what a read gives, what a
write does. -/
namespace Sys2Proof.Machine

/-! ## The blocks (R30, R42, R45, R196, R200, R294, R308, R323, R324) -/

/-- A register block. -/
inductive Blk where
  | sec
  | port (p : Fin 18)
  | hub
  | core (c : Fin 256)
  | stack (stk : Fin 8)
  | chan (ch : Fin 512)
  | mem (v : Fin 16)
  | vale (v : Fin 16)
  | iface (v : Fin 16)
  | nothing
  deriving DecidableEq, Repr

/-- The block of an address of the register region, and the offset in it. -/
def blockOf (a : Nat) : Blk × Nat :=
  let area := a / 2 ^ 44 % 16
  let rest := a % 2 ^ 44
  let n := rest / 4096
  let off := rest % 4096
  match area with
  | 7 => if rest < 0x4000 then (.sec, rest) else (.nothing, 0)
  | 8 => if h : n < 18 then (.port ⟨n, h⟩, off) else (.nothing, 0)
  | 9 => if rest < 0x2000 then (.hub, rest) else (.nothing, 0)
  | 10 => if h : n < 256 then (.core ⟨n, h⟩, off) else (.nothing, 0)
  | 11 => if h : n < 8 then (.stack ⟨n, h⟩, off) else (.nothing, 0)
  | 12 => if h : n < 512 then (.chan ⟨n, h⟩, off) else (.nothing, 0)
  | 13 => if h : n < 16 then (.mem ⟨n, h⟩, off) else (.nothing, 0)
  | 14 => if h : n < 16 then (.vale ⟨n, h⟩, off) else (.nothing, 0)
  | 15 => if h : n < 16 then (.iface ⟨n, h⟩, off) else (.nothing, 0)
  | _ => (.nothing, 0)

/-- Read 8 bytes of the register region (R313). -/
def blockRead (s : State) (a : Nat) : Word :=
  match blockOf a with
  | (.sec, off) => secRead s off
  | (.port p, off) => if off = 0 then portState s.ports[p] else 0
  | (.hub, off) => hubRead s off
  | (.core c, off) => coreRegRead s c off
  | (.stack k, off) => stackRead s k off
  | (.chan ch, off) => ccFrameRead s ch off
  | (.mem v, off) => memCtlRead s v off
  | (.vale v, off) => valeRegRead s v off
  | (.iface v, off) => ifRead s v off
  | (.nothing, _) => 0

/-! ## Frozen registers (R35, R323) -/

/-- The address names a register that is frozen now. -/
def frozenNow (s : State) (a : Nat) : Bool :=
  match blockOf a with
  | (.iface v, off) => ifFrozenReg off && (s.vale v).iface.frozen
  | (.vale v, off) => decide (off < 0x88) && (s.vale v).iface.frozen
  | (.hub, off) => hubFrozenReg off && anyFrozen s
  | _ => false

/-- What a write to a register that is frozen now does: the register stays, every interface that freezes it goes to ERROR
(R35, R315, R323). -/
def frozenWrite (s : State) (a : Nat) : State :=
  match blockOf a with
  | (.iface v, _) => errorIface s v 320
  | (.vale v, _) => errorIface s v 320
  | _ => errorEvery s 320

/-- FROZEN_REGISTER_WRITE (R35, R315): a fabric source's write completes with a write error. -/
def execFrozenRegisterWrite (addr _data : Word) (fabric : Option (BitVec 32)) (s : State) : Out :=
  if !frozenNow s addr.toNat then .next s
  else
    let s := frozenWrite s addr.toNat
    match fabric with
    | some src => .next (sendOut s (.hostReply src none))
    | none => .next s

/-! ## Writes -/

/-- The command of a write to IF_CTL (R32). -/
def ifCtl (v : Fin 16) (data : Word) : Option Instr :=
  match data.toNat with
  | 1 => some (.lock v)
  | 2 => some (.start v)
  | 3 => some (.stop v)
  | 4 => some (.report v)
  | 5 => some (.reset v)
  | _ => none

/-- The row that a register write gives, if the register is one whose write has a row of its own. -/
def regInstr (a : Nat) (data : Word) : Option Instr :=
  match blockOf a with
  | (.sec, 0) => secCtl data
  | (.port p, 8) => portCtl p data
  | (.hub, 0x10) => hubCtl data
  | (.hub, 0x38) => if data = 1 then some .tmbxPop else none
  | (.hub, off) =>
    if 0xE00 ≤ off ∧ off < 0x1200 then some (.gateWaysWrite (regIndex 7 off 0xE00).toFin data)
    else if 0x1200 ≤ off ∧ off < 0x1A00 then some (.gateBanksWrite (regIndex 8 off 0x1200).toFin data)
    else none
  | (.core c, 0) => coreCtl c data
  | (.chan ch, off) => if off < 0x100 then some (.ccFrameWrite ch (BitVec.ofNat 5 (off / 8)).toFin data) else none
  | (.mem v, 0) => some (.transRootWrite v data)
  | (.mem v, 8) => some (.leaseWrite v data)
  | (.mem v, 0x10) => if data = 1 then some (.shoot v) else none
  | (.vale v, 0x70) => some (.valeKeyWrite v data)
  | (.vale v, 0x78) => some (.valeAsidWrite v data)
  | (.vale v, 0x80) => some (.valePrioWrite v data)
  | (.vale v, 0x90) => if data = 1 then some (.resize v) else if data = 2 then some (.clearerr v) else none
  | (.iface v, 8) => ifCtl v data
  | (.iface v, 0x58) => some (.mbxPop v data)
  | _ => none

/-- A write to a register without a row of its own, the BAD commands among them (R313). -/
def plainWrite (s : State) (a : Nat) (data : Word) : State :=
  match blockOf a with
  | (.sec, 0) => if s.sec.busy then secResult s 2 else secResult s 6
  -- A misaligned address is kept (log 36).
  | (.sec, 0x10) => { s with sec := { s.sec with addr := data } }
  | (.sec, _) => s
  | (.port _, _) => s
  | (.hub, 0x10) => setHub s { s.hub with result := 6 }
  | (.hub, off) => hubWrite s off data
  | (.core c, 0) => coreResult s c 6
  | (.core c, off) => coreRegWrite s c off data
  | (.stack k, off) => stackWrite s k off data
  | (.chan _, _) => s
  | (.mem v, 0x10) => memResult s v 6
  | (.mem _, _) => s
  | (.vale v, 0x90) => if (s.vale v).rstate = .stable then valeResult s v 6 else s
  | (.vale v, off) => valeRegWrite s v off data
  | (.iface v, 8) => ifResult s v (if (s.vale v).iface.scrubBusy then 2 else 1)
  | (.iface v, off) => ifWrite s v off data
  | (.nothing, _) => s

/-- REGISTER_WRITE (R313): a register whose write has no row of its own. -/
def execRegisterWrite (addr data : Word) (s : State) : Out :=
  if (regInstr addr.toNat data).isSome then .next s else .next (plainWrite s addr.toNat data)

/-- The state that an event leaves. -/
def afterEvent (s : State) : Out → State
  | .next s' => s'
  | _ => s

/-- What the row of a register write does. -/
def runRegInstr (i : Instr) (s : State) : State :=
  afterEvent s (match i with
    | .arm k => execArm k s
    | .zero k => execZero k s
    | .signerSet j => execSignerSet j s
    | .signerClear j => execSignerClear j s
    | .fwStage => execFwStage s
    | .fwActivate => execFwActivate s
    | .retrain p => execRetrain p s
    | .disable p => execDisable p s
    | .teardown v => execTeardown v s
    | .tmbxPop => execTmbxPop s
    | .gateWaysWrite k d => execGateWaysWrite k d s
    | .gateBanksWrite c d => execGateBanksWrite c d s
    | .capture c => execCapture c s
    | .resume c => execResume c s
    | .discard c => execDiscard c s
    | .abort c => execAbort c s
    | .ccFrameWrite ch k d => execCcFrameWrite ch k d s
    | .transRootWrite v d => execTransRootWrite v d s
    | .leaseWrite v d => execLeaseWrite v d s
    | .shoot v => execShoot v s
    | .valeKeyWrite v d => execValeKeyWrite v d s
    | .valeAsidWrite v d => execValeAsidWrite v d s
    | .valePrioWrite v d => execValePrioWrite v d s
    | .resize v => execResize v s
    | .clearerr v => execClearerr v s
    | .lock v => execLock v s
    | .start v => execStart v s
    | .stop v => execStop v s
    | .report v => execReport v s
    | .reset v => execReset v s
    | .mbxPop v d => execMbxPop v d s
    | _ => .next s)

/-- The command that a register write starts reads memory, and waits for a DRAM bank that a copy channel holds (R224; log 44). -/
def writeHeld (s : State) (a : Nat) (data : Word) : Bool :=
  match regInstr a data with
  | some (.resize v) => resizeHeld s v
  | some (.signerSet j) => decide (j.val < 8) && secHeld s s.sec.addr 96
  | some .fwStage => stageHeld s
  | _ => false

/-- Write 8 bytes of the register region (R313). -/
def blockWrite (s : State) (a : Nat) (data : Word) : State :=
  match regInstr a data with
  | some i => runRegInstr i s
  | none => plainWrite s a data

end Sys2Proof.Machine
end

