-- ==== Sys2Proof/Machine/Endpoints.lean ====
section
/-! DEFINITION. Machine/Endpoints.lean: packets (R24, R25), where they are delivered (R26, R33, R281, R282, R302), windows (R33),
what fabric sources and peers reach (R320, R322, R344), leases (R204). -/
namespace Sys2Proof.Machine

/-! ## Counting dropped packets (R25, R30, R45) -/

/-- Count a packet dropped at an endpoint: for a window in its interface, for a task in the vale of the task. -/
def countDrop (s : State) (ep : Endpoint) (vale : Option (Fin 16)) : State :=
  match ep, vale with
  | .window v _, _ => setIface s v { (s.vale v).iface with drop := satIncr (s.vale v).iface.drop }
  | .task _, some v => s.setVale v { s.vale v with taskDrop := satIncr (s.vale v).taskDrop }
  | .task _, none => s

/-! ## Delivery -/

/-- What a store into an endpoint comes to: it is taken; its packet finds a FIFO full and it waits (R282, R302); it is
refused, with the packet discarded (R282); it is no endpoint store (R25). -/
inductive EpRes where
  | taken (s : State)
  | full
  | fault (s : State)
  | bad

/-- W5 of a bank packet keeps R282. -/
def bankTailOk (t : Task) (w5 : Nat) : Bool :=
  let bar := w5 % 2 ^ 21
  let stat := bits w5 52 32
  (!bit w5 31 || (decide (bar % 16 = 0) && decide (bar + 16 ≤ t.size))) && decide (stat % 16 = 0) &&
  decide (stat + 16 ≤ t.size)

/-- The translation of a command's BASE waits for a DRAM bank that a copy channel holds (R224). -/
def baseHeld (s : State) (v : Fin 16) (base : Word) : Bool := decide (topByte base = 0) && walkHeld s v none base.toNat

/-- Deliver a closed packet to the command FIFO of a channel (R281, R282). -/
def deliverBank (s : State) (src : StoreSource) (ep : Endpoint) (ch : Fin 512) (ws : List Word) : EpRes :=
  match src with
  | .host _ => .bad
  | .core c =>
    match (s.core c).task with
    | none => .bad
    | some t =>
      if !(s.vale t.vale).channels.getLsbD ch then .bad
      else if ws.length ≠ 6 then .taken (countDrop s ep (some t.vale))
      else if !bankTailOk t (ws.getD 5 0).toNat then .fault s
      else if 8 ≤ (s.chan ch).fifo.length || baseHeld s t.vale (ws.getD 1 0) then .full
      else
        let base := ws.getD 1 0
        let pa := if topByte base = 0 then
            match translate s t.vale base.toNat .read with
            | .ok l => some (l.pa, l.cc)
            | .error _ => none
          else none
        let cmd : BankCmd := { core := c, epoch := t.epoch, vale := t.vale, words := Vector.ofFn fun i => ws.getD i.val 0, pa := pa }
        let s := if topByte base = 0 then noteWalk s t.vale base.toNat else s
        let s := s.setChan ch { s.chan ch with fifo := (s.chan ch).fifo ++ [cmd] }
        .taken (s.setCore c { s.core c with bankOut := (s.core c).bankOut + 1 })

/-- Deliver a closed packet whole (R24 to R26, R33, R281, R302). -/
def deliver (s : State) (src : StoreSource) (ep : Endpoint) (ws : List Word) : EpRes :=
  match ep with
  | .window v k =>
    let x := s.vale v
    let f := x.iface
    let p : Packet := { src := src, words := ws }
    match (f.wins[k]).attr.toNat % 8 with
    | 1 =>
      if launchPacketOk ws then .taken (s.setVale v { x with commands := x.commands ++ [p] }) else .taken (countDrop s ep none)
    | 2 =>
      if f.mbx.length < 32 then .taken (setIface s v { f with mbx := f.mbx ++ [p] }) else .taken (countDrop s ep none)
    | 3 =>
      if f.ifc.length < 32 then .taken (setIface s v { f with ifc := f.ifc ++ [p] }) else .taken (countDrop s ep none)
    | _ => .bad
  | .task e =>
    if e = 1 then
      match src with
      | .core c =>
        match taskVale s c with
        | some v =>
          if 64 ≤ s.hub.tmbx.length then .full
          else .taken (setHub s { s.hub with tmbx := s.hub.tmbx ++ [{ core := c, vale := v, words := ws }] })
        | none => .bad
      | .host _ => .bad
    else if h : 0x100 ≤ e.toNat ∧ e.toNat < 0x300 then deliverBank s src ep ⟨e.toNat - 0x100, by omega⟩ ws
    else .bad

/-! ## Assembly (R25) -/

/-- The open packet of a source at an endpoint. -/
def openPacket (s : State) (src : StoreSource) (ep : Endpoint) : Option OpenPacket :=
  s.hub.opens.find? fun p => decide (p.src = src) && decide (p.ep = ep)

/-- Remove it. -/
def closePacket (s : State) (src : StoreSource) (ep : Endpoint) : State :=
  setHub s { s.hub with opens := s.hub.opens.filter fun p => !(decide (p.src = src) && decide (p.ep = ep)) }

/-- Put an open packet back. -/
def keepPacket (s : State) (p : OpenPacket) : State :=
  let s := closePacket s p.src p.ep
  setHub s { s.hub with opens := s.hub.opens ++ [p] }

/-- The words of a packet with the next one: it stays open, or closes and is delivered. -/
def extendPacket (s : State) (src : StoreSource) (ep : Endpoint) (vale : Option (Fin 16)) (ws : List Word) (since : Nat)
    (close : Bool) : EpRes :=
  if close then
    match deliver s src ep ws with
    | .taken s => .taken (closePacket s src ep)
    | .fault s => .fault (closePacket s src ep)
    | r => r
  else .taken (keepPacket s { src := src, vale := vale, ep := ep, words := ws, since := since, waits := false })

/-- An open packet whose first word is older than 10 µs is dropped and counted (R25), unless its closing store has found the FIFO
full within them and waits for room (R282, R302; log 54). -/
def expirePacket (s : State) (src : StoreSource) (ep : Endpoint) : State :=
  match openPacket s src ep with
  | some p =>
    if p.since + 10000 < s.now.toNat && !p.waits then countDrop (closePacket s src ep) ep p.vale else s
  | none => s

/-- The vale of a source's task. -/
def sourceVale (s : State) : StoreSource → Option (Fin 16)
  | .core c => taskVale s c
  | .host _ => none

/-- An 8-byte store into an endpoint at an offset (R24, R25). -/
def endpointTake (s : State) (src : StoreSource) (ep : Endpoint) (off : BitVec 12) (data : Word) : EpRes :=
  if off.extractLsb' 0 3 ≠ 0 ∨ off.extractLsb' 7 5 ≠ 0 then .bad
  else
    let index := (off.extractLsb' 3 3).toNat
    let close := off.getLsbD 6
    let now := s.now.toNat
    let s := expirePacket s src ep
    let first (s : State) : EpRes :=
      if index = 0 then extendPacket s src ep (sourceVale s src) [data] now close else .taken s
    match openPacket s src ep with
    | some p =>
      if index = p.words.length then extendPacket s src ep p.vale (p.words ++ [data]) p.since close
      else first (countDrop (closePacket s src ep) ep p.vale)
    | none => first s

/-- PACKET_TIMEOUT: 10 µs after its first word an open packet is dropped (R25). -/
def execPacketTimeout (src : StoreSource) (ep : Endpoint) (s : State) : Out := .next (expirePacket s src ep)

/-! ## Windows (R33) -/

/-- LOG2SIZE. -/
def Win.log2 (w : Win) : Nat := w.size.toNat % 64
/-- KIND. -/
def Win.kind (w : Win) : Nat := w.attr.toNat % 8

/-- The window is enabled and keeps the alignment and must-be-zero rules (R33), the limits of LOG2SIZE among them (log 59). -/
def Win.keeps (w : Win) : Bool :=
  let a := w.attr
  let endpoint := decide (1 ≤ w.kind) && decide (w.kind ≤ 3)
  a.getLsbD 63 && decide (w.size.toNat / 64 = 0) && decide (12 ≤ w.log2) &&
  decide (w.log2 ≤ 46) && (!endpoint || decide (w.log2 = 12)) && decide (w.base.toNat % 2 ^ w.log2 = 0) &&
  decide (a.extractLsb' 56 7 = 0) && decide (a.extractLsb' 6 6 = 0) &&
  decide (w.kind = 4 ∨ a.extractLsb' 12 44 = 0) && (decide (w.kind = 2 ∨ w.kind = 4) || !a.getLsbD 4)

/-- Two windows meet. -/
def Win.meets (w z : Win) : Bool := rangesMeet w.base.toNat (2 ^ w.log2) z.base.toNat (2 ^ z.log2)

/-- Every window of the device. -/
def allWins (s : State) : List (Fin 16 × Fin 8 × Win) :=
  (List.finRange 16).flatMap fun v => (List.finRange 8).map fun k => (v, k, ((s.vale v).iface.wins[k]))

/-- The window decodes: its kind is one of 1 to 4, it keeps its rules and overlaps no other that keeps them (R33). -/
def winDecodes (s : State) (v : Fin 16) (k : Fin 8) : Bool :=
  let w := (s.vale v).iface.wins[k]
  decide (1 ≤ w.kind) && decide (w.kind ≤ 4) && w.keeps &&
  (allWins s).all fun z => decide (z.1 = v ∧ z.2.1 = k) || !z.2.2.keeps || !w.meets z.2.2

/-- The window that decodes a fabric address. -/
def winAt (s : State) (addr : Word) : Option (Fin 16 × Fin 8 × Win) :=
  (allWins s).find? fun z =>
    winDecodes s z.1 z.2.1 && rangesMeet z.2.2.base.toNat (2 ^ z.2.2.log2) addr.toNat 1

/-- The window serves an access of a source (R33, R37, R331). -/
def winServes (s : State) (v : Fin 16) (w : Win) (src : BitVec 32) (write : Bool) : Bool :=
  let f := (s.vale v).iface
  (!(w.attr.getLsbD 5 && f.frozen) || decide (f.host = src.setWidth 64)) &&
  (if write then w.attr.getLsbD 3 else w.attr.getLsbD 4) &&
  (decide (w.kind = 1) || !(scrubbing s v || decide (f.phase = .error)))

/-! ## Stores into endpoints -/

/-- A host's store into an endpoint window: taken, or an error completion (R25, R33). -/
def hostEndpoint (s : State) (src : BitVec 32) (v : Fin 16) (k : Fin 8) (off : BitVec 12) (bytes : Nat) (data : Word) :
    State × Bool :=
  let w := (s.vale v).iface.wins[k]
  if !winDecodes s v k || decide (w.kind = 4) || !winServes s v w src true || decide (bytes ≠ 8) then (s, false)
  else
    match endpointTake s (.host src) (.window v k) off data with
    | .taken s => (s, true)
    | .full => (s, false)
    | .fault s => (s, false)
    | .bad => (s, false)

/-- ENDPOINT_STORE (R25): a host's 8-byte store reaches an endpoint window. A task's stores leave its store queue
(R207). -/
def execEndpointStore (src : StoreSource) (ep : Endpoint) (off : BitVec 12) (bytes : Nat) (data : Word) (s : State) : Out :=
  match src, ep with
  | .host id, .window v k =>
    let r := hostEndpoint s id v k off bytes data
    .next (sendOut r.1 (.hostReply id (if r.2 then some [] else none)))
  | .core c, .task e =>
    if bytes ≠ 8 ∨ (taskVale s c).isNone then .next s
    else match endpointTake s (.core c) (.task e) off data with
      | .taken s => .next s
      | .fault s => .next s
      | _ => .next s
  | _, _ => .next s

/-! ## What fabric sources reach (R33, R34, R322, R344) -/

/-- The address that an access through a memory window reaches (R33); one past the global window wraps (log 59). -/
def hostVa (w : Win) (off : Nat) : Nat := ((w.attr.extractLsb' 12 44).toNat * 4096 + off) % 2 ^ 56

/-- A host's access to memory through a window (R33, R344): the bytes, or an error. -/
def hostMemory (s : State) (v : Fin 16) (w : Win) (off len : Nat) (wr : Option (List Byte)) : State × Option (List Byte) :=
  let va := hostVa w off
  if !lineAccess va len || !keyed s v then (s, none)
  else
    let s := noteWalk s v va
    match wr with
    | none => match translate s v va .read with
      | .ok l => (recallRange s none l.pa len, homeRead s v l.pa len)
      | .error _ => (s, none)
    | some bs =>
      if bs.length ≠ len then (s, none)
      else match translate s v va .write with
        | .ok l => (valeWrite s v none l.pa bs, some [])
        | .error _ => (s, none)

/-- The machine-mode address of an access to the management region (R322), if it lies in an interface block. -/
def mgmtRegion (s : State) (addr : Word) : Option Nat :=
  let b := s.hub.mgmtBase
  if b.getLsbD 0 && decide (b.extractLsb' 48 16 = addr.extractLsb' 48 16) then
    some (0x00FF000000000000 + addr.toNat % 2 ^ 48)
  else none

/-- The offset names a register of an interface block that is no mailbox register (R30, R322). -/
def fabricReg (off : Nat) : Bool :=
  decide (off < 0x50) || (decide (0x100 ≤ off) && decide (off < 0x1C0)) || (decide (0x400 ≤ off) && decide (off < 0x600))

/-- A fabric access to an interface block (R322). -/
def hostRegister (s : State) (a len : Nat) (wr : Option (List Byte)) : State × Option (List Byte) :=
  if len ≠ 8 ∨ a % 8 ≠ 0 then (s, none)
  else
    match blockOf a with
    | (.iface v, off) =>
      if !fabricReg off then (s, none)
      else
        match wr with
        | none => (s, some (toBytes 8 (ifRead s v off).toNat))
        | some bs =>
          if ifFrozenReg off ∨ (0x20 ≤ off ∧ off < 0x40) then
            let frozen := frozenNow s a
            let s := ifWrite s v off (BitVec.ofNat 64 (ofBytes bs))
            (s, if frozen then none else some [])
          else (s, none)
    | _ => (s, none)

/-- What a host access does, and its answer: the bytes read, no bytes for a write, nothing for an error. -/
def hostAccess (s : State) (q : HostAccess) : State × Option (List Byte) :=
  match winAt s q.addr with
  | some (v, k, w) =>
    let off := q.addr.toNat - w.base.toNat
    if !winServes s v w q.src q.write.isSome then (s, none)
    else if w.kind = 4 then hostMemory s v w off q.len q.write
    else
      match q.write with
      | some bs =>
        let r := hostEndpoint s q.src v k (BitVec.ofNat 12 off) q.len (BitVec.ofNat 64 (ofBytes bs))
        (r.1, if r.2 then some [] else none)
      | none =>
        if w.kind = 2 ∧ q.len = 8 ∧ off % 8 = 0 ∧ 0x800 ≤ off then (s, some (toBytes 8 (ifRead s v off).toNat))
        else (s, none)
  | none => match mgmtRegion s q.addr with
    | some a => hostRegister s a q.len q.write
    | none => (s, none)

/-- A host's access to memory waits for a DRAM bank that a copy channel holds (R224). -/
def hostHeld (s : State) (q : HostAccess) : Bool :=
  match winAt s q.addr with
  | some (v, _, w) =>
    let va := hostVa w (q.addr.toNat - w.base.toNat)
    winServes s v w q.src q.write.isSome && decide (w.kind = 4) && lineAccess va q.len && keyed s v &&
    vaHeld s v none va (if q.write.isSome then .write else .read)
  | none => false

/-! ## The order of arrivals, and the words of an access (R278, R320, R344) -/

/-- The place of a peer's write or atomic in the order of its source. -/
def orderOf (q : PeerRequest) : Option WriteOrder := if q.op = .read then none else q.order

/-- The write comes after number `n` of era `era`: numbers count modulo 2^32 and start again with an era (R278, R319). -/
def comesAfter (o : WriteOrder) (era : Nat) (n : BitVec 32) : Bool :=
  decide (era < o.era) || decide (o.era = era) && decide (o.seq ≠ n) && decide ((o.seq - n).toNat < 2 ^ 31)

/-- Two writes are of one source through one egress switch. -/
def sameSource (o p : WriteOrder) : Bool := decide (o.core = p.core) && decide (o.who = p.who) && decide (o.path = p.path)

/-- No later write of the same source has been performed here: a write that has been passed over so is not one that a source sends. -/
def arrivesInOrder (s : State) (q : PeerRequest) : Bool :=
  match orderOf q with
  | none => true
  | some o => s.hub.inSeqs.all fun x =>
      !(decide (x.dev = q.dev) && decide (x.core = o.core) && decide (x.who = o.who) && decide (x.path = o.path)) ||
      comesAfter o x.era x.last

/-- An earlier write of the same source waits here: this one waits behind it (R278). -/
def waitsBehind (s : State) (q : PeerRequest) : Bool :=
  match orderOf q with
  | none => false
  | some o => s.hub.inbound.any fun x => match x.asks with
    | .inl p => decide (p.dev = q.dev) && (match orderOf p with
      | some z => sameSource z o && comesAfter o z.era z.seq
      | none => false)
    | .inr _ => false

/-- A write has been performed, the last of its source. -/
def noteInSeq (s : State) (q : PeerRequest) : State :=
  match orderOf q with
  | none => s
  | some o => setHub s { s.hub with inSeqs :=
      { dev := q.dev, core := o.core, who := o.who, path := o.path, era := o.era, last := o.seq } :: s.hub.inSeqs.filter fun x =>
        !(decide (x.dev = q.dev) && decide (x.core = o.core) && decide (x.who = o.who) && decide (x.path = o.path)) }

/-- Put an access that is being served, or waits, into its place in the order of arrival. -/
def putInbound (s : State) (x : Inbound) : State :=
  let l := s.hub.inbound
  setHub s { s.hub with inbound :=
    if (l.any fun y => decide (y.asks = x.asks)) then l.map fun y => if y.asks = x.asks then x else y else l ++ [x] }

/-- The access is answered, and leaves. -/
def answerInbound (s : State) (a : PeerRequest ⊕ HostAccess) (ans : PeerAnswer) : State :=
  let s := setHub s { s.hub with inbound := s.hub.inbound.filter fun x => !decide (x.asks = a) }
  match a with
  | .inl q => sendOut (noteInSeq s q) (.reply q.dev ans)
  | .inr q => sendOut s (.hostReply q.src (match ans with
    | .data bs => some bs
    | _ => none))

/-- The access is served whole. -/
def serveInbound (s : State) (a : PeerRequest ⊕ HostAccess) : State :=
  match a with
  | .inl q => let r := servePeer s q; answerInbound r.1 a r.2
  | .inr q => let r := hostAccess s q; answerInbound r.1 a (match r.2 with
    | some bs => .data bs
    | none => .denied)

/-- The access waits for a DRAM bank that a copy channel holds (R224), or behind an earlier write of its source (R278). -/
def inboundHeld (s : State) : PeerRequest ⊕ HostAccess → Bool
  | .inl q => peerHeld s q || waitsBehind s q
  | .inr q => hostHeld s q

/-- The bytes that the access writes. -/
def inboundBytes : PeerRequest ⊕ HostAccess → Option (List Byte)
  | .inl q => match q.op with
    | .write bs => some bs
    | _ => none
  | .inr q => q.write

/-- The vale, address and length of a read or write of memory that is to be served (R33, R320, R344). -/
def inboundMemory (s : State) : PeerRequest ⊕ HostAccess → Option (Fin 16 × Nat × Nat)
  | .inl q => match boundVale s q.dev q.vale, q.op with
    | some v, .read => if q.addr.toNat < 2 ^ 46 ∧ lineAccess q.addr.toNat q.len then some (v, q.addr.toNat, q.len) else none
    | some v, .write bs =>
      if q.addr.toNat < 2 ^ 46 ∧ lineAccess q.addr.toNat q.len ∧ bs.length = q.len then some (v, q.addr.toNat, q.len) else none
    | _, _ => none
  | .inr q => match winAt s q.addr with
    | some (v, _, w) =>
      let va := hostVa w (q.addr.toNat - w.base.toNat)
      if winServes s v w q.src q.write.isSome ∧ w.kind = 4 ∧ lineAccess va q.len ∧ q.write.all (·.length = q.len) then
        some (v, va, q.len)
      else none
    | none => none

/-- The words of an access that is to be served word by word, its address translated (R344; log 52); none where it is served whole. -/
def inboundWords (s : State) (a : PeerRequest ⊕ HostAccess) : Option (State × Fin 16 × WordRun) :=
  match inboundMemory s a with
  | none => none
  | some (v, va, n) =>
    match translate s v va (if (inboundBytes a).isSome then .write else .read) with
    | .error _ => none
    | .ok l =>
      let words := wordsOf 0 [(.dram l.pa l.cc, n)]
      if s.split && decide (1 < words.length) then some (noteWalk s v va, v, { todo := words, got := [] }) else none

/-- One word of an access that is served word by word is read or written, any of those left (R268, R344). -/
def serveWord (s : State) (a : PeerRequest ⊕ HostAccess) (v : Fin 16) (r : WordRun) : State :=
  match r.todo[Config.choose s.ticks r.got.length % r.todo.length]? with
  | some (off, .dram pa cc, n) =>
    let rest := r.todo.erase (off, .dram pa cc, n)
    let goOn (s : State) (r : WordRun) : State :=
      if r.todo.isEmpty then answerInbound s a (.data r.bytes) else putInbound s { asks := a, run := some (v, r) }
    if !keyed s v || !ownsPa s v pa then answerInbound s a .denied
    else if bankBlocks s v none pa then s
    else match inboundBytes a with
      | some bs => goOn (valeWrite s v none pa ((bs.drop off).take n)) { r with todo := rest }
      | none => match homeRead s v pa n with
        | none => answerInbound s a .poison
        | some bs => goOn (recallRange s none pa n) { todo := rest, got := (off, bs) :: r.got }
  | _ => answerInbound s a .denied

/-- An access of a peer or a host arrives, or goes on. A write that has to wait is entered, so that the later writes of its source wait
behind it; any other that has to wait is not due (R224, R278; log 44). -/
def inboundTurn (s : State) (a : PeerRequest ⊕ HostAccess) : State :=
  let here := s.hub.inbound.find? fun x => decide (x.asks = a)
  match here.bind Inbound.run, here with
  | some (v, r), _ => serveWord s a v r
  | none, some _ => if inboundHeld s a then s else serveNow
  | none, none =>
    if !(match a with
      | .inl q => arrivesInOrder s q
      | .inr _ => true) then s
    else if inboundHeld s a then
      match a with
      | .inl q => if (orderOf q).isSome then putInbound s { asks := a, run := none } else s
      | .inr _ => s
    else serveNow
where
  /-- It is served, whole or its first word. -/
  serveNow : State :=
    match inboundWords s a with
    | some (s, v, r) => serveWord (putInbound s { asks := a, run := some (v, r) }) a v r
    | none => serveInbound s a

/-- HOST_WINDOW_ACCESS (R33, R34, R322, R344). -/
def execHostWindowAccess (q : HostAccess) (s : State) : Out := .next (inboundTurn s (.inr q))

/-! ## What peers reach (R320) -/

/-- DOMAIN_REQUEST (R278, R320, R344). -/
def execDomainRequest (q : PeerRequest) (s : State) : Out := .next (inboundTurn s (.inl q))

/-! ## Leases (R204) -/

/-- LEASE_EXPIRY: a `.si` word whose lease has ended is dropped. -/
def execLeaseExpiry (c : Fin 256) (va8 : Nat) (s : State) : Out :=
  let k := s.core c
  .next (s.setCore c { k with l1 := k.l1.filter fun x =>
    !(decide (x.va8 = va8) && decide (x.rq = 2) && decide (x.ends ≤ s.now.toNat)) })

/-! ## Closed packets of a task that a FIFO takes (R282, R302) -/

/-- The store at the head of a core's store queue, if it is one into endpoint `e`. -/
def headStore (s : State) (c : Fin 256) : Option (Entry × BitVec 12 × BitVec 12 × Word) :=
  match (s.core c).ls.sq.head? with
  | some e => match e.kind with
    | .store _ _ data _ _ (.endpoint ep off) => some (e, ep, off, data)
    | _ => none
  | none => none

/-- A store into a packet has found its FIFO full: the packet that it closes waits for room (R282, R302; log 54). One that it would
drop for its index stays what it is until the store is performed. -/
def packetWaits (s : State) (src : StoreSource) (ep : Endpoint) (off : BitVec 12) : State :=
  setHub s { s.hub with opens := s.hub.opens.map fun p =>
    if p.src = src ∧ p.ep = ep ∧ p.words.length = (off.extractLsb' 3 3).toNat then { p with waits := true } else p }

/-- The endpoint store at the head of the queue is performed, waits, or is refused precisely (R25, R282). -/
def performEndpoint (s : State) (c : Fin 256) (e : Entry) (ep off : BitVec 12) (data : Word) : State :=
  let l := (s.core c).ls
  if l.holdsBack (fun h => decide (h.id < e.id)) || (heldFault l e).isSome then s
  else match endpointTake s (.core c) (.task ep) off data with
  | .taken s => finishHeld s c e
  | .full => packetWaits s (.core c) (.task ep) off
  | .fault s' => if l.sure e.id then s else failHeld s' (.core c) e 67
  | .bad => failHeld s (.core c) e 67

/-- BANK_PACKET_TAKEN: the closing store at the head of the core's store queue enters the channel's FIFO (R282). -/
def execBankPacketTaken (c : Fin 256) (ch : Fin 512) (s : State) : Out :=
  match headStore s c with
  | some (e, ep, off, data) =>
    if ep.toNat = 0x100 + ch.val ∧ off.getLsbD 6 = true then .next (performEndpoint s c e ep off data) else .next s
  | none => .next s

/-- TASK_MAILBOX_PACKET: the closing store at the head of the core's store queue enters the task mailbox (R302). -/
def execTaskMailboxPacket (c : Fin 256) (s : State) : Out :=
  match headStore s c with
  | some (e, ep, off, data) =>
    if ep = 1 ∧ off.getLsbD 6 = true then .next (performEndpoint s c e ep off data) else .next s
  | none => .next s

end Sys2Proof.Machine
end

