-- ==== Sys2Proof/Machine/LeadMemory.lean ====
section
/-! DEFINITION. Machine/LeadMemory.lean: LD, ST, PF (R203 to R211), MARK (R208), FENCE (R273), AMO and CAS (R275 to R277), and the
steps of the load and store queues (R207). -/
namespace Sys2Proof.Machine

/-! ## Issue -/

/-- A store can still fail after its issue (log 8): in the domain, at the close of a packet, through a vale window, or where its
translation is still to be made. -/
def heldPlace (va : Word) : Place → Bool
  | .peer _ _ => true
  | .valeWindow _ _ => true
  | .walk _ => true
  | .endpoint _ _ => va.getLsbD 6
  | _ => false

/-- Room in the load queue. -/
def lqRoom (l : LeadSlice) : Bool := decide (l.lq.length < 32)
/-- Room in the store queue. -/
def sqRoom (l : LeadSlice) : Bool := decide (l.sq.length < 32)

/-- The registers before an access that can still fail, or that (`sure`) does not (log 8). -/
def heldNow (l : LeadSlice) (sure : Bool) : Held := { id := l.seq, sure := sure, fault := none, belt := l.belt, n := l.n, lp := l.lp }

/-- Enter an entry into the queues `inLoad` and `inStore` name; its result takes its place at once, pending (R103). For one that can
still fail the registers are kept: `held` says whether it is one that does not (log 8). -/
def enterQueues (l : LeadSlice) (kind : EntryKind) (dst : Option (BitVec 5)) (inLoad inStore : Bool) (held : Option Bool) :
    LeadSlice :=
  let e : Entry := { id := l.seq, pc := l.pc, kind := kind, sent := none }
  let l := { l with
    seq := l.seq + 1
    lq := if inLoad then l.lq ++ [e] else l.lq
    sq := if inStore then l.sq ++ [e] else l.sq
    held := match held with
      | some sure => l.held ++ [heldNow l sure]
      | none => l.held }
  match dst with
  | some d => nextPc (writeSlot l d (.pend e.id))
  | none => nextPc l

/-- Mark that the next word must be REGION or HALT (R306). -/
def commitLead (s : State) (who : LeadId) : State :=
  match who with
  | .mgmt => { s with mgmt := { s.mgmt with commit := true } }
  | .core c => s.setCore c { s.core c with commit := true }

/-- An older store to overlapping bytes is still queued (R207). -/
def storeAhead (s : State) (who : LeadId) (id : Nat) (p : Place) (n : Nat) : Bool :=
  (s.ls who).sq.any fun e => decide (e.id < id) && (match e.kind with
    | .store _ m _ _ _ q => bytesMeet s who p n q m
    | .amo _ m _ _ q => bytesMeet s who p n q m
    | .cas _ m _ _ q => bytesMeet s who p n q m
    | _ => false)

/-- The checks of an access at issue (R211): its place with its leaf, or its cause. Where the walk has to wait for a DRAM bank (R224)
steps 6 and 7 are still to be made, when the access takes its step in the queue: an access waits at issue only for room (R271). -/
def issuePlace (s : State) (who : LeadId) (q : Req) : Except (BitVec 12) (Place × Option Leaf) :=
  if leadHeld s who q then .ok (.walk q.va, none) else leadPlace s who q

/-- The state after the walk of an access at issue, if it is made there (R269). -/
def issueWalked (s : State) (who : LeadId) (q : Req) : State := if leadHeld s who q then s else walked s who q

/-- LD (R207, R209 to R211). -/
def execLd (d base : BitVec 5) (rq : BitVec 2) (size : BitVec 3) (span : BitVec 4) (off : BitVec 7) (s : State) : Out :=
  leadStep (.ld d base rq size span off) (fun who s =>
    let l := s.ls who
    match readSrc l base with
    | none => .wait
    | some b =>
      let n := sizeBytes size
      let va := effAddr b off n
      let q : Req := { acc := .read, va := va, n := n, rq := rq }
      match issuePlace s who q with
      | .error code => .denied (walked s who q) code va
      | .ok (p, _) =>
        let bad := loadPoisoned s who va n rq p
        if !lqRoom l then .wait
        else if bad && !storeAhead s who l.seq p n then .poison (va &&& ~~~ 7#64)
        else
          .done ((issueWalked s who q).setLs who
            (enterQueues l (.load va n (sizeSigned size) rq span.toNat p) (some d) true false (some (s.bold && !bad))))) s

/-- ST (R207, R209 to R211); a store that closes a packet is a committing access (R306). -/
def execSt (src base : BitVec 5) (rq : BitVec 2) (size : BitVec 3) (span : BitVec 4) (off : BitVec 7) (s : State) : Out :=
  leadStep (.st src base rq size span off) (fun who s =>
    let l := s.ls who
    match readSrc l base, readSrc l src with
    | some b, some v =>
      let n := sizeBytes size
      let va := effAddr b off n
      let q : Req := { acc := .write, va := va, n := n, rq := rq }
      match issuePlace s who q with
      | .error code => .denied (walked s who q) code va
      | .ok (p, _) =>
        if !sqRoom l then .wait
        else
          let held := if heldPlace va p then some s.bold else none
          let s := (issueWalked s who q).setLs who (enterQueues l (.store va n v rq span.toNat p) none false true held)
          match p with
          | .endpoint _ e => .done (if e.getLsbD 6 then commitLead s who else s)
          | _ => .done s
    | _, _ => .wait) s

/-- PF: the fetch happens as it enters the load queue; it orders nothing and keeps no entry (R207, R210). -/
def execPf (base : BitVec 5) (rq : BitVec 2) (span : BitVec 4) (off : BitVec 7) (s : State) : Out :=
  leadStep (.pf base rq span off) (fun who s =>
    let l := s.ls who
    match readSrc l base with
    | none => .wait
    | some b =>
      let va := effAddr b off 8
      if !lqRoom l then .wait
      else
        match who with
        | .mgmt => retireNone s who
        | .core c =>
          match (s.core c).task with
          | none => retireNone s who
          | some t =>
            if rq = 3 ∨ topByte va ≠ 0 then retireNone s who
            else
              if vaHeld s t.vale none va.toNat .read then retireNone s who
              else
                match taskPlace s c t { acc := .read, va := va, n := 8, rq := rq } with
                | .ok (.dram _ _, some leaf) =>
                  retireNone (l1Fill (noteWalk s t.vale va.toNat) c t.vale va.toNat rq span.toNat leaf) who
                | _ => retireNone s who) s

/-- MARK enters both queues (R208). -/
def execMark (s : State) : Out :=
  leadStep .mark (fun who s =>
    let l := s.ls who
    if lqRoom l && sqRoom l then .done (s.setLs who (enterQueues l .mark none true true none)) else .wait) s

/-- FENCE: a release enters the store queue only (R273). -/
def execFence (scope kind : BitVec 2) (s : State) : Out :=
  leadStep (.fence scope kind) (fun who s =>
    let l := s.ls who
    let both := decide (kind ≠ 1)
    if (lqRoom l || !both) && sqRoom l then .done (s.setLs who (enterQueues l (.fence scope kind) none both true none))
    else .wait) s

/-- An atomic at issue (R275, R276): it enters both queues and is a committing access (R306). -/
def atomicIssue (i : Instr) (d : BitVec 5) (srcs : List (BitVec 5)) (wide : Bool) (kind : Nat → List Word → Place → EntryKind)
    (s : State) : Out :=
  leadStep i (fun who s =>
    let l := s.ls who
    match srcs.mapM (readSrc l) with
    | none => .wait
    | some vs =>
      let n := if wide then 8 else 4
      let va := vs.headD 0
      let q : Req := { acc := .atomic, va := va, n := n, rq := 3 }
      match issuePlace s who q with
      | .error code => .denied (walked s who q) code va
      | .ok (p, _) =>
        let bad := placePoisoned s who p n
        if !lqRoom l || !sqRoom l then .wait
        else if bad && !storeAhead s who l.seq p n then .poison (va &&& ~~~ 7#64)
        else
          let l := enterQueues l (kind n vs p) (some d) true true (some (s.bold && !bad))
          .done (commitLead ((issueWalked s who q).setLs who l) who)) s

/-- AMO (R275). -/
def execAmo (d a b : BitVec 5) (op : BitVec 4) (wide : Bool) (s : State) : Out :=
  atomicIssue (.amo d a b op wide) d [a, b] wide (fun n vs p => .amo (vs.getD 0 0) n op (vs.getD 1 0) p) s

/-- CAS (R275): b is the new value, c the compare value. -/
def execCas (d a b c : BitVec 5) (wide : Bool) (s : State) : Out :=
  atomicIssue (.cas d a b c wide) d [a, b, c] wide (fun n vs p => .cas (vs.getD 0 0) n (vs.getD 2 0) (vs.getD 1 0) p) s

/-! ## Performance: loads (R204, R207, R269) -/

/-- The bytes of a core's DRAM load, and its L1 after it, which takes no copy through a translation that a shootdown has replaced
since the access was translated: one access does not mix the two (R198). -/
def dramLoad (s : State) (c : Fin 256) (v : Fin 16) (va : Word) (n : Nat) (rq : BitVec 2) (span pa : Nat) : State × Nat :=
  match l1Hit s (s.core c) (asidOf s v) va rq false with
  | some x =>
    if x.rq = 0 then (s, ofBytes (dramRead s (dataKey s v pa) pa n))
    else (s, x.data.toNat / 256 ^ (va.toNat % 8) % 256 ^ n)
  | none =>
    let s := touchLines (recallRange s (some c) pa n) v pa n false
    let value := ofBytes (dramRead s (dataKey s v pa) pa n)
    if rq = 3 then (s, value)
    else
      match translate s v va.toNat .read with
      | .ok leaf => (if leaf.pa = pa then l1Fill s c v va.toNat rq span leaf else s, value)
      | .error _ => (s, value)

/-- The value of a lead load that no peer serves. -/
def localLoad (s : State) (who : LeadId) (va : Word) (n : Nat) (rq : BitVec 2) (span : Nat) (p : Place) : State × Nat :=
  match p, who with
  | .dram pa _, .core c => match taskVale s c with
    | some v => dramLoad s c v va n rq span pa
    | none => (s, 0)
  | .scratch off, .core c => (s, memNum (s.core c).scratch off n)
  | .firmware off, _ => (s, memNum s.mgmt.fw off n)
  | .valeWindow v pa, _ => (touchLines (recallRange s none pa n) v pa n false, ofBytes (valeRead s v pa n))
  | .block a, _ => (s, (blockRead s a).toNat)
  | _, _ => (s, 0)

/-- The load at the head of its queue has its value: it leaves. -/
def finishLoad (s : State) (who : LeadId) (e : Entry) (signed : Bool) (n value : Nat) : State :=
  let l := arrive (s.ls who) e.id (extendLoaded signed n value)
  { s.setLs who (dropEntry l e.id) with stalled := false }

/-! ## Performance: the domain (R190, R276 to R278, R320) -/

/-- The request of an access to a peer. -/
def peerRequestOf (va : Word) : EntryKind → Option (Word × Nat × PeerOp)
  | .load _ n _ rq span _ => let r := domainSpan va n rq span; some (r.1, r.2, .read)
  | .store _ n data _ _ _ => some (domainAddr va, n, .write (toBytes n data.toNat))
  | .amo _ n op v _ => some (domainAddr va, n, .amo op v)
  | .cas _ n cmp new _ => some (domainAddr va, n, .cas cmp new)
  | _ => none

/-- The access is an atomic that the host node `d` behind port `p` does not perform natively (R277), and whether the node
offers the 64-bit CAS that its emulation needs. -/
def needsEmulation (s : State) (p : Fin 18) (d : BitVec 10) (k : EntryKind) : Option Bool :=
  match hostAtomics s p d, k with
  | some q, .amo _ n op _ _ => if (if n = 8 then q.amo64 else q.amo32).getLsbD op.toNat then none else some q.cas64
  | some q, .cas _ n _ _ _ => if (if n = 8 then q.cas64 else q.cas32) then none else some q.cas64
  | _, _ => none

/-- The access at the head goes to this device's own index: it is served at once (R320), unless it has to wait for a DRAM bank that a
copy channel holds (R224). -/
def serveOwn (s : State) (c : Fin 256) (v : Fin 16) (e : Entry) (d : BitVec 10) (r : Word × Nat × PeerOp) : State :=
  let q : PeerRequest := { dev := d, vale := BitVec.ofNat 4 v.val, addr := r.1, len := r.2.1, op := r.2.2, order := none }
  if peerHeld s q then s
  else match servePeer s q with
  | (s, ans) =>
    match answerCode ans with
    | some code => failHeld s (.core c) e code
    | none =>
      match e.kind, ans with
      | .load .., .data bs => finishDomainLoad s c e bs (s.core c).l1Gen
      | .store .., _ => finishDomainStore s c e
      | _, .data bs =>
        finishDomainAtomic (copiesTake (bringValue s c e (BitVec.ofNat 64 (ofBytes bs))) c e (ofBytes bs)) c e
      | _, _ => s

/-- Record which request an access has sent, and which vale the port served (R47). -/
def noteSent (s : State) (c : Fin 256) (v : Fin 16) (e : Entry) (id : Nat) (p : Fin 18) : State :=
  let k := s.core c
  noteServed (s.setCore c { k with ls := putEntry k.ls { e with sent := some id } }) p v c .lead

/-- The access at the head of its queue leaves through a path in UP: a write numbered (R278), an atomic that the host does not
perform as the first read of its emulation (R277). -/
def sendAccess (s : State) (c : Fin 256) (v : Fin 16) (e : Entry) (x : Path) (d : BitVec 10) (r : Word × Nat × PeerOp) : State :=
  let id := s.hub.reqSeq
  let q : Ask := { core := c, who := .lead, num := e.id, part := 0, dev := d, addr := r.1, len := r.2.1, op := r.2.2 }
  let sent (t : State) : State := noteSent t c v e id x.port
  match needsEmulation s x.port d e.kind, e.kind with
  | some false, _ => failHeld s (.core c) e 230
  | some true, _ =>
    sent (sendRequest s x { q with addr := r.1 &&& ~~~ 7#64, len := 8, op := .read } none
      (some { tries := 1, read := none, out := true }))
  | none, .load .. => sent (sendRead s x q)
  | none, _ => match sendWrite s x q with
    | some t => sent t
    | none => s

/-- The access at the head of its queue goes to a peer: it hits a leased copy, is served in this device, leaves when its path is
up and the port serves its vale, or fails (R47, R190, R318, R320). One that has left may have a further access of its emulation to
send, or have been answered while a fill held it back (R266). -/
def performPeer (s : State) (c : Fin 256) (e : Entry) (d : BitVec 10) : State :=
  let va := entryVa e.kind
  match taskVale s c, peerRequestOf va e.kind with
  | some v, some r =>
    match e.sent with
    | some id => match requestOf s id with
      | some q => if q.emul.any fun m => !m.out then emulSend s c e q else finishAnswered s c e q
      | none => s
    | none =>
      let hit : Option L1Word := match e.kind with
        | .load _ _ _ rq _ _ => l1Hit s (s.core c) (asidOf s v) va rq false
        | _ => none
      match hit, e.kind with
      | some x, .load _ n signed _ _ _ =>
        finishLoad s (.core c) e signed n (x.data.toNat / 256 ^ (va.toNat % 8) % 256 ^ n)
      | _, _ =>
        if d = s.hub.index then serveOwn s c v e d r
        else
          match routeTo s d with
          | .none => failHeld s (.core c) e 288
          | .later _ => s
          | .up x => if portServes s x.port v then sendAccess s c v e x d r else s
  | _, _ => s

/-! ## Performance: stores and atomics (R204, R259, R266, R275) -/

/-- A store to a DRAM place of a task: at the home, or in the exclusive copy for `.own`, unless a shootdown has replaced the
translation that the access has used (R198); its own copies follow. -/
def dramStore (s : State) (c : Fin 256) (v : Fin 16) (va : Word) (rq : BitVec 2) (span pa : Nat) (p : Place) (bs : List Byte) :
    State :=
  let s := if rq = 0 && (l1Hit s (s.core c) (asidOf s v) va 0 true).isNone then
      match translate s v va.toNat .write with
      | .ok leaf => if leaf.pa = pa then l1Fill s c v va.toNat 0 span leaf else s
      | .error _ => s
    else s
  let s := touchLines (recallRange s (some c) pa bs.length) v pa bs.length true
  storeCopies (clearPoison (dramWrite s (dataKey s v pa) pa bs) .dram pa bs.length) c p bs

/-- Write the bytes of a store that no peer, endpoint or register takes; one through the vale window writes an image page (log 80). -/
def localStore (s : State) (who : LeadId) (va : Word) (rq : BitVec 2) (span : Nat) (p : Place) (bs : List Byte) : State :=
  match p, who with
  | .dram pa _, .core c => match taskVale s c with
    | some v => tagCheck (dramStore s c v va rq span pa p bs) c va bs.length
    | none => s
  | .scratch off, .core c =>
    let k := s.core c
    tagCheck (clearPoison (s.setCore c { k with scratch := memWrite k.scratch off bs }) (.scratch c) off bs.length) c va
      bs.length
  | .firmware off, _ =>
    clearPoison { s with mgmt := { s.mgmt with fw := memWrite s.mgmt.fw off bs } } .firmware off bs.length
  | .valeWindow v pa, _ => valeWrite s v none pa bs
  | _, _ => s

/-- A store leaves its queue performed. -/
def finishStore (s : State) (who : LeadId) (e : Entry) : State :=
  { s.setLs who (dropEntry (s.ls who) e.id) with stalled := false }

/-- The read-modify-write of an atomic that no peer performs, and the old value. -/
def localAtomic (s : State) (who : LeadId) (va : Word) (n : Nat) (p : Place) (x : Atomic) : State × Nat :=
  match p, who with
  | .dram pa _, .core c => match taskVale s c with
    | some v =>
      let r := homeAtomic s v none pa n x
      let s := match x.result n r.2 with
        | some new => storeCopies r.1 c p (toBytes n new)
        | none => r.1
      (tagCheck s c va n, r.2)
    | none => (s, 0)
  | .scratch off, .core c =>
    let old := memNum (s.core c).scratch off n
    let s := match x.result n old with
      | some new =>
        let k := s.core c
        clearPoison (s.setCore c { k with scratch := memPut k.scratch off n new }) (.scratch c) off n
      | none => s
    (tagCheck s c va n, old)
  | .firmware off, _ =>
    let old := memNum s.mgmt.fw off n
    match x.result n old with
    | some new =>
      (clearPoison { s with mgmt := { s.mgmt with fw := memPut s.mgmt.fw off n new } } .firmware off n, old)
    | none => (s, old)
  | _, _ => (s, 0)

/-- The core's fills hold back a store to these bytes (R266). -/
def heldByFill (s : State) (who : LeadId) (va : Word) (n : Nat) : Bool :=
  match who with
  | .mgmt => false
  | .core c => fillBlocks (s.core c) va n

/-- The access reaches a DRAM bank that a copy channel holds, or starts a command that reads one, and waits there; a hit in L1 does not
reach it (R224). -/
def bankWaits (s : State) (who : LeadId) (e : Entry) : Bool :=
  let hit (va : Word) (rq : BitVec 2) (store : Bool) : Bool := match who with
    | .mgmt => false
    | .core c => match taskVale s c with
      | some v => (l1Hit s (s.core c) (asidOf s v) va rq store).isSome
      | none => false
  let held : Place → Bool
    | .dram pa _ => (match who with
      | .mgmt => false
      | .core c => match taskVale s c with
        | some v => bankBlocks s v none pa
        | none => false)
    | .valeWindow v pa => bankBlocks s v none pa
    | _ => false
  match e.kind with
  | .load va _ _ rq _ p => held p && !hit va rq false
  | .store _ _ data _ _ (.block a) => writeHeld s a data
  | .store va _ _ rq _ p => held p && !(decide (rq = 0) && hit va 0 true)
  | .amo _ _ _ _ p => held p
  | .cas _ _ _ _ p => held p
  | .mark | .fence .. => false

/-- An older access that has failed, or that can still fail, holds back the performance of a store or an atomic (R297; log 8). -/
def heldBack (s : State) (who : LeadId) (e : Entry) : Bool := (s.ls who).holdsBack fun h => decide (h.id < e.id)

/-- The store at the head of the store queue is performed, or waits. -/
def performStore (s : State) (who : LeadId) (e : Entry) (va : Word) (n : Nat) (data : Word) (rq : BitVec 2) (span : Nat)
    (p : Place) : State :=
  if heldByFill s who va n || heldBack s who e || bankWaits s who e then s
  else
    match p, who with
    | .peer d _, .core c => performPeer s c e d
    | .endpoint ep off, .core c => performEndpoint s c e ep off data
    | .block a, _ => finishStore (blockWrite s a data) who e
    | .valeWindow v _, .mgmt =>
      if keyed s v then finishStore (localStore s who va rq span p (toBytes n data.toNat)) who e else failHeld s who e 129
    | _, _ => finishStore (localStore s who va rq span p (toBytes n data.toNat)) who e

/-- The atomic at the head of both queues is performed, or waits (R275). -/
def performAtomic (s : State) (who : LeadId) (e : Entry) (va : Word) (n : Nat) (p : Place) (x : Atomic) : State :=
  if heldByFill s who va n || heldBack s who e || bankWaits s who e then s
  else if placePoisoned s who p n then failHeld s who e 353
  else
    match p, who with
    | .peer d _, .core c => performPeer s c e d
    | _, _ =>
      let r := localAtomic s who va n p x
      let s := match who with
        | .core c => r.1.setCore c (sealTask (r.1.core c) e)
        | .mgmt => r.1
      finishLoad s who e false n r.2

/-! ## The queues (R207, R208, R273) -/

/-- What an access of a queue is, for the checks of R211. -/
def EntryKind.req : EntryKind → Option Req
  | .load va n _ rq _ _ => some { acc := .read, va := va, n := n, rq := rq }
  | .store va n _ rq _ _ => some { acc := .write, va := va, n := n, rq := rq }
  | .amo va n _ _ _ => some { acc := .atomic, va := va, n := n, rq := 3 }
  | .cas va n _ _ _ => some { acc := .atomic, va := va, n := n, rq := 3 }
  | .mark | .fence .. => none

/-- An access of a queue at a place. -/
def EntryKind.atPlace (k : EntryKind) (p : Place) : EntryKind :=
  match k with
  | .load va n sg rq span _ => .load va n sg rq span p
  | .store va n data rq span _ => .store va n data rq span p
  | .amo va n op v _ => .amo va n op v p
  | .cas va n cmp new _ => .cas va n cmp new p
  | k => k


/-- The entry stands at the head of both queues. -/
def headOfBoth (l : LeadSlice) (e : Entry) : Bool :=
  (match l.lq.head? with
   | some x => decide (x.id = e.id)
   | none => false) &&
  (match l.sq.head? with
   | some x => decide (x.id = e.id)
   | none => false)

/-- No entry of either queue is older. -/
def oldest (l : LeadSlice) (e : Entry) : Bool := (l.lq ++ l.sq).all fun x => decide (e.id ≤ x.id)

/-- A marker or fence leaves its queues. -/
def leaveQueues (s : State) (who : LeadId) (e : Entry) : State :=
  { s.setLs who (dropEntry (s.ls who) e.id) with stalled := false }

/-- A fence leaves; an acquire of vale scope or wider drops the core's `.wt` and `.si` words (R205, R273). -/
def leaveFence (s : State) (who : LeadId) (e : Entry) (scope kind : BitVec 2) : State :=
  let s := leaveQueues s who e
  if kind ≠ 1 ∧ scope ≠ 0 then acquireLead s who else s

/-- The entry `e`, at the head of one of the queues, takes its step if it may: it performs its access; a word that an error has
struck since the issue is found where it is consumed (R312). -/
def performAccess (s : State) (who : LeadId) (e : Entry) : State :=
  let l := s.ls who
  match e.kind with
  | .load va n signed rq span p =>
    if storeAhead s who e.id p n || bankWaits s who e then s
    else if e.sent.isNone && loadPoisoned s who va n rq p then failHeld s who e 353
    else
      match p, who with
      | .peer d _, .core c => performPeer s c e d
      | .valeWindow v _, .mgmt =>
        if keyed s v then
          let r := localLoad s who va n rq span p
          finishLoad r.1 who e signed n r.2
        else failHeld s who e 129
      | _, _ =>
        let r := localLoad s who va n rq span p
        finishLoad r.1 who e signed n r.2
  | .store va n data rq span p => performStore s who e va n data rq span p
  | .amo va n op v p => if headOfBoth l e then performAtomic s who e va n p (.amo op v) else s
  | .cas va n cmp new p => if headOfBoth l e then performAtomic s who e va n p (.cas cmp new) else s
  | .mark => if headOfBoth l e then leaveQueues s who e else s
  | .fence scope kind =>
    let may := match kind.toNat with
      | 0 => (match l.lq.head? with
        | some x => decide (x.id = e.id)
        | none => false)
      | _ => oldest l e
    if may then leaveFence s who e scope kind else s

/-- An access that is still to be translated, once its walk waits no more: steps 6 and 7 of R211, then its step. -/
def performWalk (s : State) (who : LeadId) (e : Entry) (q : Req) : State :=
  if leadHeld s who q then s
  else match leadPlace s who q with
  | .error code => failHeld (walked s who q) who e code
  | .ok (p, _) => performAccess (walked s who q) who { e with kind := e.kind.atPlace p }

/-- The entry at the head of one of the queues takes its step: one that has failed is reported once no older one can fail and no
report stands. -/
def performEntry (s : State) (who : LeadId) (e : Entry) : State :=
  match heldFault (s.ls who) e, e.kind.place, e.kind.req with
  | some code, _, _ => if olderHeld (s.ls who) e.id || !takesReports s who then s else failNow s who e code
  | none, some (.walk _), some q => performWalk s who e q
  | none, _, _ => performAccess s who e

/-- LOAD_QUEUE_PERFORM: the head of the load queue of the lead slice in turn (R207). -/
def execLoadQueuePerform (s : State) : Out :=
  match leadInTurn s with
  | none => .next s
  | some who => match (s.ls who).lq.head? with
    | some e => .next (performEntry s who e)
    | none => .next s

/-- STORE_QUEUE_PERFORM: the head of the store queue of the lead slice in turn (R207). -/
def execStoreQueuePerform (s : State) : Out :=
  match leadInTurn s with
  | none => .next s
  | some who => match (s.ls who).sq.head? with
    | some e => .next (performEntry s who e)
    | none => .next s

end Sys2Proof.Machine
end

