-- ==== Sys2Proof/Machine/Tiles.lean ====
section
/-! DEFINITION. Machine/Tiles.lean: weight tile headers and data (R236 to R238), the plane-run codec (R239, R240), aligned slicing
(R182, R184), how basins are chosen and filled (R241 to R244). Lead causes have agent 0, matrix causes agent 3. -/
namespace Sys2Proof.Machine

/-- A cause of a tile's reader with what LS_TVAL holds for a lead slice. -/
structure TileFault where
  code : Nat
  tval : Word
  deriving DecidableEq, Repr

/-! ## Reading (R221, R236, R242) -/

/-- The cause of class 2 or 9 with which the lead slice reports a domain access; the matrix engine, which has no code there, reports
WINDOW (R212, R296; log 23). -/
def peerCode (agent lead : Nat) : Nat := if agent = 0 then lead else 65 + 8 * agent

/-- The place of one piece of a tile, checked like a copy element (R211, R221, R236). -/
def tilePlace (s : State) (t : Task) (agent n : Nat) (va : Word) : Except TileFault Place :=
  if !windowOk va then .error ⟨65 + 8 * agent, va⟩
  else
    match topByte va with
    | 0 => match translate s t.vale va.toNat .read with
      | .error e => .error ⟨e.code agent, va⟩
      | .ok l => .ok (.dram l.pa l.cc)
    | 1 =>
      if !inDomain s (domainDev va) then .error ⟨peerCode agent 68, va⟩
      else if !keyed s t.vale then .error ⟨129 + 8 * agent, va⟩
      else .ok (.peer (domainDev va) (domainAddr va))
    | 2 =>
      let off := va.toNat % 2 ^ 21
      if inAlloc t off n then .ok (.scratch off) else .error ⟨128 + 8 * agent, va⟩
    | _ => .error ⟨65 + 8 * agent, va⟩

/-- What the reading of a piece comes to: its bytes, a request that leaves, a wait, or a cause. -/
inductive PieceRes where
  | got (s : State) (bs : List Byte)
  | ask (s : State)
  | wait (s : State)
  | fault (s : State) (e : TileFault)

/-- A peer's answer, or the cause. -/
def tileAnswer (agent : Nat) (va : Word) (s : State) : PeerAnswer → PieceRes
  | .data bs => .got s bs
  | .poison => .fault s ⟨353 + 8 * agent, va &&& ~~~ 7#64⟩
  | .denied => .fault s ⟨peerCode agent 290, va⟩
  | .unbound => .fault s ⟨peerCode agent 291, va⟩

/-- The bytes of one piece, which lies within an aligned word. -/
def readPiece (s : State) (c : Fin 256) (t : Task) (agent : Nat) (x : TileRead) (va : Word) (n : Nat) : PieceRes :=
  let walked := if topByte va = 0 then noteWalk s t.vale va.toNat else s
  let poison : PieceRes := .fault walked ⟨353 + 8 * agent, va &&& ~~~ 7#64⟩
  if decide (topByte va = 0) && vaHeld s t.vale none va.toNat .read then .wait s
  else match tilePlace s t agent n va with
  | .error e => .fault walked e
  | .ok (.dram pa _) =>
    if poisonedAt s .dram pa n then poison
    else .got (recallRange walked none pa n) (valeRead s t.vale pa n)
  | .ok (.scratch off) =>
    if poisonedAt s (.scratch c) off n then poison else .got s (memRead (s.core c).scratch off n)
  | .ok (.peer d addr) =>
    if d = s.hub.index then
      let q : PeerRequest := { dev := d, vale := BitVec.ofNat 4 t.vale.val, addr := addr, len := n, op := .read, order := none }
      if peerHeld s q then .wait s
      else
        let r := servePeer s q
        tileAnswer agent va r.1 r.2
    else
      match x.failed, x.back with
      | some code, _ => .fault s ⟨peerCode agent code, va⟩
      | none, some ans => tileAnswer agent va s ans
      | none, none =>
        if x.asked then .wait s
        else match routeTo s d with
          | .none => .fault s ⟨peerCode agent 288, va⟩
          | .later _ => .wait s
          | .up p =>
            if portServes s p.port t.vale then
              .ask (sendRead (noteServed s p.port t.vale c (.engine 2)) p
                { core := c, who := .engine 2, num := x.num, part := 0, dev := d, addr := addr, len := n, op := .read })
            else .wait (askPort s p.port t.vale c (.engine 2))
  | .ok _ => .fault s ⟨65 + 8 * agent, va⟩

/-- How far a tile has been read, or the cause that ended it. -/
inductive TileProg where
  | on (s : State) (x : TileRead)
  | fault (s : State) (e : TileFault)

/-- Read up to so many words of a tile (R242). -/
def tileStep (c : Fin 256) (t : Task) (agent : Nat) : Nat → TileRead → State → TileProg
  | 0, x, s => .on s x
  | fuel + 1, x, s =>
    match x.words with
    | [] => .on s x
    | (a, n) :: rest =>
      match readPiece s c t agent x (BitVec.ofNat 64 a) n with
      | .got s bs =>
        tileStep c t agent fuel { x with words := rest, got := (a, bs) :: x.got, asked := false, back := none } s
      | .ask s => .on s { x with asked := true }
      | .wait s => .on s x
      | .fault s e => .fault s e

/-- Read on, one step's worth (log 52). -/
def tileRun (s : State) (c : Fin 256) (t : Task) (agent : Nat) (x : TileRead) : TileProg :=
  tileStep c t agent (if s.chunk = 0 then x.words.length else s.chunk) x s

/-! ## Headers (R236, R237) -/

/-- S of a format (R236). -/
def sliceCount (fmt : Nat) : Option Nat :=
  match fmt with
  | 0 | 4 | 14 | 15 | 16 | 17 => some 1
  | 8 | 9 => some 2
  | 10 | 12 => some 4
  | 11 | 13 => some 8
  | _ => none

/-- Data size of a format (R237). -/
def dataSize (fmt : Nat) : Nat :=
  match fmt with
  | 16 => 4096
  | 8 | 9 => 16384
  | 10 | 12 => 32768
  | 11 | 13 => 65536
  | _ => 8192

/-- The tile is complex (R232). -/
def complexTile (fmt : Nat) : Bool := fmt == 12 || fmt == 13

/-- Most output columns of a format (R236). -/
def maxColumns (fmt : Nat) : Nat := if complexTile fmt then 32 else if fmt = 17 then 512 else 64

/-- The header that 64 bytes hold; none where they break R236. -/
def parseHeader (hdr : Word) (bs : List Byte) : Option Header :=
  let num (off n : Nat) : Nat := ofBytes ((bs.drop off).take n)
  let fmt := num 0 1
  let rel := num 9 1 % 2 = 1
  let addr (off : Nat) : Word := if rel then hdr + BitVec.ofNat 64 (num off 8) else BitVec.ofNat 64 (num off 8)
  let h : Header :=
    { fmt := fmt, s := num 1 1, form := num 2 1, codec := num 3 1, k := num 4 2, n := num 6 2, cratio := num 8 1,
      tau := BitVec.ofNat 16 (num 10 2), dlen := num 12 4, data := addr 0x10,
      expv := if num 2 1 = 1 then addr 0x18 else 0, scalev := if fmt = 16 then addr 0x20 else 0 }
  let ok :=
    decide (sliceCount fmt = some h.s) &&
    (decide (h.form = 0) || (decide (h.form = 1) && decide (8 ≤ fmt) && decide (fmt ≤ 15))) &&
    decide (1 ≤ h.k) && decide (h.k ≤ 128) && (decide (fmt ≠ 16) || decide (h.k % 32 = 0)) &&
    decide (1 ≤ h.n) && decide (h.n ≤ maxColumns fmt) && decide (num 9 1 < 2) && (decide (fmt = 16) || decide (num 10 2 = 0)) &&
    (if h.codec = 0 then decide (h.cratio = 0) && decide (h.dlen = dataSize fmt)
     else decide (h.codec = 1) && decide (1 ≤ h.cratio) && decide (h.cratio ≤ 66) && decide (1 ≤ h.dlen) &&
       decide (h.dlen ≤ dataSize fmt / 512 * 8 * h.cratio)) &&
    decide (h.data.toNat % 64 = 0) && decide (h.data.toNat + h.dlen ≤ 2 ^ 56) &&
    (if h.form = 1 then decide (h.expv.toNat % 2 = 0) else decide (num 0x18 8 = 0)) &&
    (decide (fmt = 16) || decide (num 0x20 8 = 0)) && decide (num 0x28 24 = 0)
  if ok then some h else none

/-- One word of a header. -/
def headerWord (s : State) (t : Task) (agent : Nat) (va : Word) : Except TileFault (List Byte) :=
  match translate s t.vale va.toNat .read with
  | .error e => .error ⟨e.code agent, va⟩
  | .ok l => if poisonedAt s .dram l.pa 8 then .error ⟨353 + 8 * agent, va⟩ else .ok (valeRead s t.vale l.pa 8)

/-- The 64 bytes at a header's address. -/
def headerBytes (s : State) (t : Task) (agent : Nat) (hdr : Word) : Except TileFault (List Byte) :=
  ((List.range 8).mapM fun i => headerWord s t agent (hdr + BitVec.ofNat 64 (8 * i))).map List.flatten

/-- Read a header: the address is judged before any byte is read (R236). -/
def readHeader (s : State) (t : Task) (agent : Nat) (hdr : Word) : Except TileFault Header :=
  if hdr.toNat % 64 ≠ 0 ∨ topByte hdr ≠ 0 then .error ⟨160 + 8 * agent, hdr⟩
  else
    match headerBytes s t agent hdr with
    | .error e => .error e
    | .ok bs => match parseHeader hdr bs with
      | some h => .ok h
      | none => .error ⟨160 + 8 * agent, hdr⟩

/-- The header's read meets a DRAM bank that a copy channel holds (R224). -/
def headerWaits (s : State) (t : Task) (hdr : Word) : Bool :=
  decide (hdr.toNat % 64 = 0) && decide (topByte hdr = 0) && rangeHeld s t.vale hdr.toNat 64 .read

/-- The header's read, with its walk, recalls the `.own` copies of what it reads (R206, R221, R269). -/
def noteHeader (s : State) (t : Task) (hdr : Word) : State :=
  match translate s t.vale hdr.toNat .read with
  | .ok l => recallRange (noteWalk s t.vale hdr.toNat) none l.pa 64
  | .error _ => noteWalk s t.vale hdr.toNat

/-- The header of a tile that a valid basin holds (R242). -/
def residentHeader (s : State) (c : Fin 256) (t : Task) (hdr : Word) : Option Header :=
  ((s.core c).basins.toList.find? fun b =>
    decide (b.st = .valid) && decide (b.asid = asidOf s t.vale) && decide (b.hdr = hdr)).map (·.header)

/-- The header of a tile: what a valid basin of the tile holds, else as read (R242). -/
def tileHeader (s : State) (c : Fin 256) (t : Task) (agent : Nat) (hdr : Word) : Except TileFault Header :=
  match residentHeader s c t hdr with
  | some h => .ok h
  | none => readHeader s t agent hdr

/-! ## The plane-run codec (R239, R240) -/

/-- What the decompressor can fail with; its kind within class 5 (R263). -/
inductive CodecErr where
  | codec | expansion
  deriving DecidableEq, Repr

/-- The kind of the cause. -/
def CodecErr.kind : CodecErr → Nat
  | .codec => 1
  | .expansion => 2

/-- Coded bytes still to come, with how many more of them the block may use. -/
structure Coded where
  bytes : List Byte
  room  : Nat

/-- Take `n` coded bytes. -/
def Coded.take (x : Coded) (n : Nat) : Except CodecErr (List Byte × Coded) :=
  if x.bytes.length < n ∧ x.bytes.length ≤ x.room then .error .codec
  else if x.room < n then .error .expansion
  else .ok (x.bytes.take n, ⟨x.bytes.drop n, x.room - n⟩)

/-- The tokens of a plane that has `have_` of its 64 bytes; `fuel` bounds their number. -/
def planeTokens : Nat → Nat → Coded → Except CodecErr (List Byte × Coded)
  | 0, _, _ => .error .codec
  | fuel + 1, have_, x =>
    if have_ = 64 then .ok ([], x)
    else do
      let (tok, x) ← x.take 1
      let tok := (tok.headD 0).toNat
      let n := tok % 64 + 1
      if tok / 64 = 3 ∨ 64 < have_ + n then throw .codec
      let (bs, x) ← (if tok / 64 = 2 then x.take n else .ok (List.replicate n (if tok / 64 = 1 then 0xFF#8 else 0#8), x))
      let (rest, x) ← planeTokens fuel (have_ + n) x
      return (bs ++ rest, x)

/-- The planes of a block from number `p` on, each as the 512-bit number of its bytes. -/
def blockPlanes (zmask : Nat) : List Nat → Coded → Except CodecErr (List Nat × Coded)
  | [], x => .ok ([], x)
  | p :: ps, x => do
    let (v, x) ← (if zmask.testBit p then .ok (0, x) else do
      let (bs, x) ← planeTokens 65 0 x
      return (ofBytes bs, x))
    let (vs, x) ← blockPlanes zmask ps x
    return (v :: vs, x)

/-- Byte `j` of a block: bit `p` is bit `j` of plane `p` (R239). -/
def blockByte (planes : List Nat) (j : Nat) : Byte :=
  BitVec.ofNat 8 (planes.zipIdx.foldl (fun v q => if q.1.testBit j then v + 2 ^ q.2 else v) 0)

/-- The data that coded bytes stand for, block after block. -/
def decodeBlocks (cratio : Nat) : Nat → List Byte → Except CodecErr (List Byte)
  | 0, bs => if bs.isEmpty then .ok [] else .error .codec
  | k + 1, bs => do
    let (z, x) ← (⟨bs, 8 * cratio⟩ : Coded).take 1
    let (planes, x) ← blockPlanes (z.headD 0).toNat (List.range 8) x
    let rest ← decodeBlocks cratio k x.bytes
    return (List.range 512).map (blockByte planes) ++ rest

/-! ## Slicing (R182, R184, R237) -/

/-- `k` runs of `n` list elements. -/
def chunks {α : Type} (n : Nat) : Nat → List α → List (List α)
  | 0, _ => []
  | k + 1, l => l.take n :: chunks n k (l.drop n)

/-- floor(log2 |x|) of a nonzero finite value. -/
def topExp : FVal → Option Int
  | .fin _ m e => if m = 0 then none else some (Nat.log2 m + e)
  | _ => none

/-- The value is NaN or infinite (R185). -/
def isSpecial : FVal → Bool
  | .fin .. => false
  | _ => true

/-- Block exponent of the values (R182). -/
def blockExp (vs : List FVal) : Int :=
  (vs.foldl (fun (best : Option Int) v => match best, topExp v with
    | some a, some b => some (max a b)
    | none, b => b
    | a, none => a) none).getD 0

/-- d_(x+1) of a value in a block of exponent `eb`, S slices (R182). -/
def digitOf (S x : Nat) (eb : Int) : FVal → Int
  | .fin neg m e =>
    let sh := e + 7 * S - 1 - eb
    let q := if 0 ≤ sh then m * 2 ^ sh.toNat else m / 2 ^ (-sh).toNat
    let d : Int := (q / 128 ^ (S - 1 - x) % 128 : Nat)
    if neg then -d else d
  | _ => 0

/-- A digit as its byte. -/
def digitByte (d : Int) : Nat := (d % 256).toNat

/-- What a basin gets: a row of columns for each k, per slice, the exponents and the specials of digit columns, the scales. -/
structure Tile where
  rows    : List (List (BitVec 512))
  exps    : List Int
  special : BitVec 64
  scales  : List Byte

/-- A row of 64 digit bytes. -/
def digitRow (bs : List Nat) : BitVec 512 := BitVec.ofNat 512 (packLanes 8 bs)

/-- Zero in the columns that are not used (R237, R238). -/
def liveColumns (h : Header) (vs : List Nat) : List Nat :=
  vs.zipIdx.map fun q => if (if complexTile h.fmt then q.2 / 2 else q.2) < h.n then q.1 else 0

/-- 128 rows of a slice: those at k ≥ K are zero. -/
def liveRows (h : Header) (rows : List (BitVec 512)) : List (BitVec 512) :=
  rows.take h.k ++ List.replicate (128 - h.k) 0

/-- The slices of a RAW floating tile (R182, R184). -/
def sliceFloats (h : Header) (raw : List Byte) : Tile :=
  let F := fmtOf h.fmt
  let w := F.width / 8
  let rows : List (List FVal) := (chunks (64 * w) h.k raw).map fun r => (chunks w 64 r).map fun e => F.value (ofBytes e)
  let column (c : Nat) : List FVal := rows.map fun r => r.getD c (.fin false 0 0)
  let block (c : Nat) : List FVal := if complexTile h.fmt then column (c / 2 * 2) ++ column (c / 2 * 2 + 1) else column c
  let exps := (List.range 64).map fun c => blockExp (block c)
  let spec := (List.range 64).foldl (fun m c => if (block c).any isSpecial then m ||| BitVec.ofNat 64 (2 ^ c) else m) 0#64
  { rows := (List.range h.s).map fun x => liveRows h (rows.map fun r =>
      digitRow (liveColumns h (List.zipWith (fun v eb => digitByte (digitOf h.s x eb v)) r exps)))
    exps := exps, special := spec, scales := [] }

/-- The digit of an e2m1 weight: 2w (R237). -/
def e2m1Digit (n : Nat) : Int :=
  match fmtE2m1.value n with
  | .fin neg m e => let d : Int := (m * 2 ^ (e + 1).toNat : Nat); if neg then -d else d
  | _ => 0

/-- The tile that decoded data, exponents and scales make (R237). -/
def tileOf (h : Header) (raw : List Byte) (expv : List Int) (scales : List Byte) : Tile :=
  let zeros : List Int := List.replicate 64 0
  if h.form = 1 then
    { rows := (chunks 8192 h.s raw).map fun x => liveRows h ((chunks 64 128 x).map fun r =>
        digitRow (liveColumns h (r.map BitVec.toNat)))
      exps := (List.range 64).map fun c => expv.getD (if complexTile h.fmt then c / 2 else c) 0
      special := 0, scales := scales }
  else
    match h.fmt with
    | 0 | 4 =>
      { rows := [liveRows h ((chunks 64 128 raw).map fun r => digitRow (liveColumns h (r.map BitVec.toNat)))]
        exps := zeros, special := 0, scales := scales }
    | 16 =>
      { rows := [liveRows h ((chunks 32 128 raw).map fun r =>
          digitRow (liveColumns h (r.flatMap fun b =>
            [digitByte (e2m1Digit (b.toNat % 16)), digitByte (e2m1Digit (b.toNat / 16))])))]
        exps := zeros, special := 0, scales := scales }
    | 17 =>
      { rows := [liveRows h ((chunks 64 128 raw).map fun r => BitVec.ofNat 512 (ofBytes r % 2 ^ h.n))]
        exps := zeros, special := 0, scales := scales }
    | _ => sliceFloats h raw

/-- The bytes of aligned word `w` that some of the ranges name, from the first to the last of them. -/
def spanIn (ranges : List (Nat × Nat)) (w : Nat) : Nat × Nat :=
  let met := ranges.filter fun r => rangesMeet r.1 r.2 (8 * w) 8
  let lo := met.foldl (fun m r => min m (max r.1 (8 * w))) (8 * w + 8)
  let hi := met.foldl (fun m r => max m (min (r.1 + r.2) (8 * w + 8))) 0
  (lo, hi - lo)

/-- The words that `todo` names beyond those of `seen`, each aligned word once (R242). -/
def wordsOnce (ranges : List (Nat × Nat)) : List (Nat × Nat) → List (Nat × Nat) → List (Nat × Nat)
  | _, [] => []
  | seen, r :: todo =>
    (((piecesOf 8 r.1 r.2).filter fun p => !seen.any fun q => rangesMeet q.1 q.2 (p.1 / 8 * 8) 8).map fun p =>
      spanIn ranges (p.1 / 8)) ++ wordsOnce ranges (seen ++ [r]) todo

/-- The reading of a tile, before its first word (R242 step 2). -/
def TileRead.start (num : Nat) (hdr : Word) (h : Header) (into : List (Nat × Fin 32)) : TileRead :=
  let ranges := h.ranges.map fun r => (r.1.toNat, r.2)
  { num := num, hdr := hdr, header := h, words := wordsOnce ranges [] ranges, got := [],
    asked := false, back := none, failed := none, into := into }

/-- Bytes at pieces of aligned words, from the words read, latest last; `next` starts at the word that is likely to come. -/
def pickBytes (all : List (Nat × List Byte)) : List (Nat × Nat) → List (Nat × List Byte) → List Byte
  | [], _ => []
  | (a, n) :: rest, next =>
    let here (x : Nat × List Byte) : Bool := decide (x.1 / 8 = a / 8)
    match (if next.head?.any here then next else all.dropWhile fun x => !here x) with
    | (b, bs) :: more => (bs.drop (a - b)).take n ++ pickBytes all rest more
    | [] => pickBytes all rest []

/-- The bytes of a range of a tile that has been read. -/
def TileRead.range (x : TileRead) (r : Word × Nat) : List Byte :=
  let all := x.got.reverse
  pickBytes all (piecesOf 8 r.1.toNat r.2) all

/-- What has been read, decompressed and sliced (R242 steps 2 and 3). -/
def TileRead.tile (x : TileRead) (agent : Nat) : Except TileFault Tile := do
  let h := x.header
  let data := x.range (h.data, h.dlen)
  let ev := if h.form = 1 then x.range (h.expv, 128) else []
  let scales := if h.fmt = 16 then x.range (h.scalev, 256) else []
  let exps : List Int := (chunks 2 64 ev).map fun e => signedOf 2 (ofBytes e)
  if h.form = 1 ∧ exps.any (fun e => decide (e < -1074) || decide (1023 < e)) then throw ⟨160 + 8 * agent, x.hdr⟩
  let raw ← (if h.codec = 0 then .ok data else
    match decodeBlocks h.cratio (dataSize h.fmt / 512) data with
    | .ok r => .ok r
    | .error e => .error ⟨160 + 8 * agent + e.kind, x.hdr⟩)
  return tileOf h raw exps scales

/-! ## Choosing and filling basins (R241 to R244, R257) -/

/-- The basin that a fill of slice `x` writes. -/
def filledBasin (s : State) (v : Fin 16) (hdr : Word) (h : Header) (x : Nat) (tile : Tile) (st : BasinState)
    (holder : List Nat) : Basin :=
  let rows := tile.rows.getD x []
  { st := st, asid := asidOf s v, hdr := hdr, slice := x, header := h,
    data := Vector.ofFn fun k => rows.getD k.val 0, exps := Vector.ofFn fun n => tile.exps.getD n.val 0,
    special := tile.special, scales := tile.scales, useAt := 0, holder := holder, pinned := false }

/-- The contents of a basin again in another one (R244: replicas hold the same digits; log 24). -/
def replicaOf (b : Basin) (holder : List Nat) : Basin := { b with st := .reserved, holder := holder, pinned := false }

/-- A basin that waits for what a fill reads. -/
def blankBasin (asid : BitVec 16) (hdr : Word) (h : Header) (x : Nat) (holder : List Nat) : Basin :=
  { Basin.zero with st := .reserved, asid := asid, hdr := hdr, slice := x, header := h, holder := holder }

/-- Put new contents into a basin, evicting what it held (R243). -/
def evictInto (s : State) (c : Fin 256) (b : Fin 32) (x : Basin) : State :=
  let s := if ((s.core c).basins[b]).tagged then noteShadow s c b none else s
  setBasin s c b x

/-- Basins that are pinned. -/
def pinnedCount (k : Core) : Nat := (k.basins.toList.filter (·.pinned)).length

/-- A record that holds the basin holds a basin of the tile that has turned stale since: what fills the basin is of that version too
(R262). -/
def oldVersion (k : Core) (x : Basin) : Bool := k.basins.toList.any fun y =>
  decide (y.st = .stale) && decide (y.asid = x.asid) && decide (y.hdr = x.hdr) && y.holder.any fun n => x.holder.contains n

/-- A basin's fill has completed: it is valid, or stale where its record's basins of the tile are, its use is recorded, a slice of the pin
table that has no pinned basin is pinned in it (R243, R257), and the shadow learns of it (R54). -/
def becomeValid (s : State) (c : Fin 256) (b : Fin 32) : State :=
  let k := s.core c
  let x := k.basins[b]
  let wanted := (pinBits k x.hdr).getLsbD x.slice &&
    (match k.task with
     | some t => decide (x.asid = asidOf s t.vale)
     | none => false) &&
    decide (pinnedCount k < 24) &&
    !(k.basins.toList.any fun y => y.pinned && decide (y.asid = x.asid) && decide (y.hdr = x.hdr) && decide (y.slice = x.slice))
  if oldVersion k x then touchBasin (setBasin s c b { x with st := .stale, pinned := false }) c b
  else
  let s := setBasin s c b { x with st := .valid, pinned := wanted }
  noteShadow (touchBasin s c b) c b (some { asid := x.asid, hdr := x.hdr, basin := b })

/-- The valid basins of a slice that no record holds, lowest first. -/
def freeCopies (k : Core) (asid : BitVec 16) (hdr : Word) (x : Nat) : List (Fin 32) :=
  (validBasins k asid hdr x).filter fun b => k.basins[b].holder.isEmpty

/-- Basins that a fill could take (R243), those of `mine` left out. -/
def openCount (k : Core) (mine : List (Fin 32)) : Nat :=
  ((List.finRange 32).filter fun b =>
    let x := k.basins[b]
    !mine.contains b && (decide (x.st = .invalid) || (x.tagged && !x.pinned && x.holder.isEmpty))).length

/-- The valid basins that a record holds with `g` copies of each slice: the lowest ones of each (R244). -/
def keptCopies (k : Core) (asid : BitVec 16) (hdr : Word) (g : Nat) (xs : List Nat) : List (Nat × Fin 32) :=
  xs.flatMap fun x => ((freeCopies k asid hdr x).take g).map fun b => (x, b)

/-- g: the most copies of each slice, at most `r`, for which basins are available: those already valid and what can be filled; 0
where there is not one (R244). -/
def copiesFor (k : Core) (asid : BitVec 16) (hdr : Word) (xs : List Nat) : Nat → Nat
  | 0 => 0
  | r + 1 =>
    let kept := (keptCopies k asid hdr (r + 1) xs).map Prod.snd
    if xs.length * (r + 1) ≤ kept.length + openCount k kept then r + 1 else copiesFor k asid hdr xs r

/-- A record begins to use basins: it holds them, and all of them are used at this instant (R243, R254). -/
def holdBasins (s : State) (c : Fin 256) (num : Nat) (bs : List (Fin 32)) : State :=
  let k := s.core c
  let k := { k with useSeq := k.useSeq + 1 }
  let use (b : Fin 32) : Basin :=
    if b ∈ bs then { k.basins[b] with holder := [num], useAt := k.useSeq } else k.basins[b]
  s.setCore c { k with basins := Vector.ofFn use }

/-- Reserve `n` basins with contents `x` for a record, as R243 chooses them; the basins taken. -/
def reserveCopies (c : Fin 256) (x : Basin) : Nat → State → List (Fin 32) → State × List (Fin 32)
  | 0, s, bs => (s, bs)
  | n + 1, s, bs =>
    match victim (s.core c) with
    | some b => reserveCopies c x n (evictInto s c b x) (bs ++ [b])
    | none => (s, bs)

/-- Basins being filled. -/
def fillsNow (k : Core) : Nat := (k.basins.toList.filter fun b => decide (b.st = .filling)).length

/-- The record that holds a basin has read what the basin is to hold. -/
def contentsRead (k : Core) (b : Basin) : Bool :=
  !((k.engines[2]).active.any fun a => b.holder.contains a.num && (match a.tile with
    | some x => x.into.any fun p => decide (p.1 = b.slice)
    | none => false))

/-- Start fills while the core makes fewer than two (R242): the lowest reserved basin whose contents are there. -/
def startFills (c : Fin 256) : Nat → State → State
  | 0, s => s
  | fuel + 1, s =>
    let k := s.core c
    if 2 ≤ fillsNow k then s
    else match (List.finRange 32).find? fun b => decide ((k.basins[b]).st = .reserved) && contentsRead k k.basins[b] with
      | some b => startFills c fuel (setBasin s c b { k.basins[b] with st := .filling })
      | none => s

/-- A basin is reserved or being filled for the record. -/
def stillFilling (k : Core) (num : Nat) : Bool := k.basins.toList.any fun b => b.unfilled && b.holder.contains num

/-- Reserve the basins that slices `xs` lack of `g` copies: replicas of a valid copy, or blank ones for what a fill reads (log 24);
all the basins taken with their slices, and the blank ones. -/
def reserveSlices (c : Fin 256) (num g : Nat) (kept : List (Nat × Fin 32)) (source : Nat → Basin × Bool) :
    List Nat → State → State × List (Nat × Fin 32) × List (Nat × Fin 32)
  | [], s => (s, [], [])
  | x :: xs, s =>
    let have_ := (kept.filter fun p => decide (p.1 = x)).map Prod.snd
    let y := source x
    let r := reserveCopies c y.1 (g - have_.length) s []
    let mine := ((List.finRange 32).filter fun b => have_.contains b || r.2.contains b).map fun b => (x, b)
    let q := reserveSlices c num g kept source xs r.1
    (q.1, mine ++ q.2.1, (if y.2 then r.2.map fun b => (x, b) else []) ++ q.2.2)

/-- A store or an atomic of the core to some of the ranges has left for a peer and is not performed: a fill could read what it writes
(R262, R266). -/
def sentMeets (k : Core) (ranges : List (Word × Nat)) : Bool := k.ls.sq.any fun e => e.sent.isSome && (match entryBytes e.kind with
  | some (va, n) => anyMeet ranges va.toNat n
  | none => false)

/-- Obtain the basins of slices `xs` of a tile, `r` copies wanted, for record `num`, all at its begin (R242 to R244, R254): the
basins in replica order (R265), those that a fill is to read; none while not one copy of each is available. -/
def acquireBasins (s : State) (c : Fin 256) (t : Task) (hdr : Word) (h : Header) (num r : Nat) (xs : List Nat) :
    Option (State × List (Nat × Fin 32) × List (Nat × Fin 32)) :=
  let k := s.core c
  let asid := asidOf s t.vale
  let g := copiesFor k asid hdr xs r
  if g = 0 then none
  else
    let kept := keptCopies k asid hdr g xs
    let source (x : Nat) : Basin × Bool := match (validBasins k asid hdr x).head? with
      | some b => (replicaOf k.basins[b] [num], false)
      | none => (blankBasin asid hdr h x [num], true)
    some (reserveSlices c num g kept source xs (holdBasins s c num (kept.map Prod.snd)))

end Sys2Proof.Machine
end

