-- ==== Sys2Proof/Machine/Regions.lean ====
section
/-! DEFINITION. Machine/Regions.lean: REGION and HALT (R126, R127, R304 to R306), the delivery of engine faults (R297), the basin
instructions of the lead slice (R257 to R261). -/
namespace Sys2Proof.Machine

/-- No engine queue holds a record, queued or active. -/
def enginesIdle (k : Core) : Bool := k.engines.toList.all fun e => e.queue.isEmpty && e.active.isEmpty

/-- Every ST, AMO and CAS of the slice has been performed (R126). -/
def storesPerformed (l : LeadSlice) : Bool := !(l.sq.any fun e => match e.kind with
  | .store .. | .amo .. | .cas .. => true
  | _ => false)

/-! ## REGION (R126, R305, R306) -/

/-- The live-in named registers, those that LIVE does not list zero; none while one is pending. -/
def liveRegs (l : LeadSlice) (live : BitVec 16) : Option (Vector Word 16) :=
  if (List.finRange 16).any fun k => live.getLsbD k && (match l.n[k] with
    | .pend _ => true
    | _ => false) then none
  else some (Vector.ofFn fun k : Fin 16 => if live.getLsbD k then (match l.n[k] with
    | .val v => v
    | .pend _ => 0) else 0)

/-- The barrier objects that a REGION names, with their bytes; none where one is not declared. -/
def regionBars (s : State) (c : Fin 256) (t : Task) (bfirst : BitVec 6) (bcount : BitVec 4) :
    Option (List (BitVec 6 × BitVec 128)) :=
  (List.range bcount.toNat).mapM fun i =>
    let id := bfirst.toNat + i
    (leadSync s (.core c) 3 id).map fun e =>
      (BitVec.ofNat 6 id, BitVec.ofNat 128 (memNum (s.core c).scratch (t.alloc + e.valA) 16))

/-- Everything before the REGION has come to an end (R126). -/
def regionReady (k : Core) : Bool := enginesIdle k && storesPerformed k.ls && decide (k.bankOut = 0)

/-- The snapshot of a region at its instruction, without its restart point. -/
def regionSnap (k : Core) (live : BitVec 16) (n : Vector Word 16) (bars : List (BitVec 6 × BitVec 128)) : Snapshot :=
  { pc := k.ls.pc, live := live, n := n, bars := bars, stats := k.bankStats, pins := k.pins, lane := .idle }

/-- The REGION retires: the snapshot is the restart state, and no seal is left (R305, R306). -/
def retireRegion (s : State) (c : Fin 256) (snap : Snapshot) : Issue :=
  let k := s.core c
  .done (s.setCore c { k with
    snap := some snap, opening := none, opens := false, commit := false, isSealed := false, bankStats := [],
    ls := nextPc { k.ls with region := k.ls.pc } })

/-- Where a REGION without a marker restarts (R126). -/
def closedRestart (l : LeadSlice) : Restart := if l.lane then .ended l.forkId l.lane l.vended else .idle

/-- REGION on a task's lead slice: it waits, it takes its snapshot and appends its marker, it waits for the marker. Whether the
stream is open is settled before the wait for a steering entry (R126): a VEND during that wait leads to 226 while the queue is full
(R123); where there is room by then no marker is appended, and the stream is recorded as ended (R305). -/
def regionStep (i : Instr) (bfirst : BitVec 6) (bcount : BitVec 4) (live : BitVec 16) (s : State) (c : Fin 256) (t : Task) :
    Issue :=
  let k := s.core c
  match k.opening with
  | some snap =>
    if k.steer.any fun e => decide (e.kind = .marker) then .wait
    else retireRegion s c { snap with lane := k.lane.restart }
  | none =>
    match regionBars s c t bfirst bcount with
    | none => .trap 0 (wordOf i)
    | some bars =>
      let acquire (s : State) : State := if k.bankStats.isEmpty then s else acquireL1 s c
      match liveRegs k.ls live with
      | none => .wait
      | some n =>
        let closed : Issue := retireRegion (acquire s) c { regionSnap k live n bars with lane := closedRestart k.ls }
        let isOpen := k.ls.lane && !k.ls.vended
        if !regionReady k then .wait
        else if !isOpen && !k.opens then closed
        else
          match steerRoom k with
          | .error (some code) => .trap code (wordOf i)
          | .error none => .hold (s.setCore c { k with opens := true })
          | .ok () =>
            if !isOpen then closed
            else
              let s := acquire s
              .hold (s.setCore c { pushSteer (s.core c) .marker with opens := false, opening := some (regionSnap k live n bars) })

/-- REGION (R126). The management core has no task: it waits for its stores and records LS_REGION (log 7). -/
def execRegion (bfirst : BitVec 6) (bcount : BitVec 4) (live : BitVec 16) (s : State) : Out :=
  leadStep (.region bfirst bcount live) (fun who s =>
    match who with
    | .mgmt =>
      if bcount ≠ 0 then .trap 0 (wordOf (.region bfirst bcount live))
      else if !storesPerformed s.mgmt.ls then .wait
      else .done (uncommit (s.setLs .mgmt (nextPc { s.mgmt.ls with region := s.mgmt.ls.pc })) .mgmt)
    | .core c => match (s.core c).task with
      | some t => regionStep (.region bfirst bcount live) bfirst bcount live s c t
      | none => .wait) s

/-! ## HALT (R127) -/

/-- The stream part of HALT: the core with its stream joined, or what it comes to. -/
def haltStream (k : Core) : Except (Option (BitVec 12)) Core :=
  if k.ls.lane then joinStream k
  else if k.steer.any fun e => !decide (e.kind = .marker) then .error (some 228)
  else .ok k

/-- The task ends: the core is idle, or in transit where it leaves its vale, and the instance has halted (R57, R127, R328). -/
def endTask (s : State) (c : Fin 256) (t : Task) : State :=
  let stop := (s.core c).stop
  let s := vacate s c (if inTransit s c then .transit else .idle)
  let s := if stop.isSome then s.setCore c { s.core c with result := 0 } else s
  instanceHalted s t

/-- HALT (R127). A latched engine fault that is still to be delivered is delivered first (R297). -/
def execHalt (s : State) : Out :=
  leadStep .halt (fun who s =>
    match who with
    | .mgmt => .trap 326 (wordOf .halt)
    | .core c =>
      let k := s.core c
      match k.task with
      | none => .wait
      | some t =>
        match haltStream k with
        | .error none => .wait
        | .error (some code) => .trap code (wordOf .halt)
        | .ok _ =>
          if enginesIdle k && storesPerformed k.ls && (undelivered k).isNone then .done (endTask s c t) else .wait) s

/-! ## Engine faults (R297, R298) -/

/-- ENGINE_FAULT_DELIVERY: a latched fault is due at the next issue boundary of the lead slice in turn, where a wait in progress is
abandoned; which report that boundary takes is R298's order. -/
def execEngineFaultDelivery (s : State) : Out :=
  match s.turn with
  | .lead c =>
    let k := s.core c
    .next (if (undelivered k).isSome then { s.setCore c { k with due := true } with stalled := false } else s)
  | _ => .next s

/-! ## Basin instructions (R257 to R261) -/

/-- A basin instruction with its header address. The management core has no basins (log 7). -/
def basinStep (i : Instr) (a : BitVec 5) (f : State → Fin 256 → Task → Word → Issue) (s : State) : Out :=
  coreStep i (fun s c t =>
    match readSrc (s.core c).ls a with
    | none => .wait
    | some hdr => f s c t hdr) s

/-- Every matrix record enqueued before has completed, and every earlier store has been performed (R257, R258). -/
def matrixSettled (k : Core) : Bool :=
  (k.eng 2).queue.isEmpty && (k.eng 2).active.isEmpty && storesPerformed k.ls

/-- A tile fault at a lead instruction. -/
def tileIssue (s : State) (c : Fin 256) (e : TileFault) : Issue :=
  .denied (if e.code = 353 then logLead s (.core c) else s) (BitVec.ofNat 12 e.code) e.tval

/-- Set the slice's bit and pin its lowest valid basin, unless one is pinned already; the instruction retires (R257). -/
def pinSlice (s : State) (c : Fin 256) (t : Task) (hdr : Word) (x : Nat) : Issue :=
  let k := setPinBits (s.core c) hdr (pinBits (s.core c) hdr ||| BitVec.ofNat 8 (2 ^ x))
  let own := validBasins k (asidOf s t.vale) hdr x
  let basins := match own with
    | b :: _ => if own.any fun b => k.basins[b].pinned then k.basins else k.basins.set b { k.basins[b] with pinned := true }
    | [] => k.basins
  retireNone (s.setCore c { k with basins := basins }) (.core c)

/-- The fill of a BPIN is read on; once all is read the slice is pinned in the basin that R243 chooses (R242, R257). -/
def pinFillStep (s : State) (c : Fin 256) (t : Task) (hdr : Word) (slice : Nat) (x : TileRead) : Issue :=
  match tileRun s c t 0 x with
  | .fault s e => tileIssue s c e
  | .on s x =>
    let held : Issue := .hold (s.setCore c { s.core c with pinFill := some x })
    if !x.words.isEmpty then held
    else
      match x.tile 0, victim (s.core c) with
      | .error e, _ => tileIssue s c e
      | .ok _, none => held
      | .ok tile, some b =>
        let s := s.setCore c { s.core c with pinFill := none }
        let s := evictInto s c b (filledBasin s t.vale hdr x.header slice tile .filling [])
        pinSlice (becomeValid s c b) c t hdr slice

/-- BPIN (R257). -/
def execBpin (a : BitVec 5) (x : BitVec 3) (s : State) : Out :=
  basinStep (.bpin a x) a (fun s c t hdr =>
    let k := s.core c
    if !matrixSettled k then .wait
    else
      match k.pinFill with
      | some y => pinFillStep s c t hdr x.toNat y
      | none =>
        if headerWaits s t hdr then .wait
        else match readHeader s t 0 hdr with
        | .error e =>
          tileIssue (if hdr.toNat % 64 = 0 ∧ topByte hdr = 0 then noteHeader s t hdr else s) c e
        | .ok h =>
          let s := noteHeader s t hdr
          if h.s ≤ x.toNat then .denied s 163 hdr
          else
            let own := validBasins k (asidOf s t.vale) hdr x.toNat
            let pinned := own.any fun b => k.basins[b].pinned
            if (pinBits k hdr = 0 ∧ 8 ≤ k.pins.length) ∨ (pinned = false ∧ 24 ≤ pinnedCount k) then .denied s 164 hdr
            else if !own.isEmpty then pinSlice s c t hdr x.toNat
            else
              let s := s.setCore c { s.core c with recSeq := k.recSeq + 1 }
              pinFillStep s c t hdr x.toNat (TileRead.start k.recSeq hdr h [])) s

/-- BUNPIN (R257). -/
def execBunpin (a : BitVec 5) (x : BitVec 3) (s : State) : Out :=
  basinStep (.bunpin a x) a (fun s c t hdr =>
    let k := setPinBits (s.core c) hdr (pinBits (s.core c) hdr &&& ~~~ BitVec.ofNat 8 (2 ^ x.toNat))
    let asid := asidOf s t.vale
    let k := { k with basins := k.basins.map fun b =>
      if b.asid = asid ∧ b.hdr = hdr ∧ b.slice = x.toNat then { b with pinned := false } else b }
    retireNone (s.setCore c k) (.core c)) s

/-- The basin holds the tile, or is being filled with it. -/
def holdsTile (asid : BitVec 16) (hdr : Word) (b : Basin) : Bool :=
  decide (b.st ≠ .invalid) && decide (b.asid = asid) && decide (b.hdr = hdr)

/-- The cores that a BINVAL reaches (R258). -/
def binvalCores (s : State) (c : Fin 256) (t : Task) (scope : BitVec 2) : List (Fin 256) :=
  if scope = 0 then [c] else (List.finRange 256).filter fun d => (s.vale t.vale).cores.getLsbD d

/-- BINVAL: it marks, and retires once every basin of the tile that it reaches is invalid. -/
def execBinval (a : BitVec 5) (scope : BitVec 2) (s : State) : Out :=
  basinStep (.binval a scope) a (fun s c t hdr =>
    if !matrixSettled (s.core c) then .wait
    else
      let asid := asidOf s t.vale
      let cores := binvalCores s c t scope
      let s := cores.foldl (fun s d => staleWhere s d (holdsTile asid hdr)) s
      if cores.any fun d => (s.core d).basins.toList.any (holdsTile asid hdr) then .hold s
      else retireNone s (.core c)) s

/-- The result of BPROBE (R260). -/
def probeWord (k : Core) (asid : BitVec 16) (hdr : Word) (x : Nat) : Word :=
  let own := validBasins k asid hdr x
  let low : Nat := match own with
    | b :: _ => b.val
    | [] => 0
  BitVec.ofNat 64 (low * 2 ^ 8 + min own.length 7 * 4 + (if (pinBits k hdr).getLsbD x then 2 else 0) +
    (if own.isEmpty then 0 else 1))

/-- BPROBE (R260). -/
def execBprobe (d a : BitVec 5) (x : BitVec 3) (s : State) : Out :=
  basinStep (.bprobe d a x) a (fun s c t hdr =>
    retire s (.core c) d (probeWord (s.core c) (asidOf s t.vale) hdr x.toNat)) s

/-- The record that a BFILL places (R253, R261): it has no address, and its faults carry the header's. -/
def bfillRecord (k : Core) (hdr : Word) (x : BitVec 3) : Record :=
  { addr := 0, tval := hdr,
    f := #v[0x0210, 0, 0, 8 + x.setWidth 32, 0, 0, 0, 0, hdr.extractLsb' 0 32, hdr.extractLsb' 32 32, 0, 0, 0, 0, 0, 0],
    pat := Vector.replicate 4 none, after := k.ls.seq }

/-- BFILL (R261). -/
def execBfill (a : BitVec 5) (x : BitVec 3) (s : State) : Out :=
  basinStep (.bfill a x) a (fun s c _ hdr =>
    let k := s.core c
    if 16 ≤ (k.eng 2).queue.length then .wait
    else
      let k := placeRecord k 2 (bfillRecord k hdr x)
      .done (s.setCore c { k with ls := nextPc k.ls })) s

end Sys2Proof.Machine
end

