-- ==== Sys2Proof/Machine/CopyEngine.lean ====
section
/-! DEFINITION. Machine/CopyEngine.lean: the copy channels (R215 to R225): the checks of copy records, elements and how they reach
memory and peers, the write pointer, bulk rows. -/
namespace Sys2Proof.Machine

/-! ## The fields of copy records (R216 to R220) -/

/-- A number with a 1 for every condition that holds, as a test that some does. -/
def anyOf (l : List Bool) : Bool := l.any id

/-- The first cause whose condition holds. -/
def firstCause : List (Bool × Nat) → Option Nat
  | [] => none
  | (b, code) :: t => if b then some code else firstCause t

/-- OPF i to OPF 7 hold a nonzero bit. -/
def opfNonzero (r : Record) (from_ : Nat) : Bool := (List.finRange 8).any fun k => decide (from_ ≤ k.val) && decide (r.opf k ≠ 0)

/-- STYPE, DTYPE. -/
def Record.stype (r : Record) : Nat := bits r.flags 3 0
def Record.dtype (r : Record) : Nat := bits r.flags 7 4
/-- RND, SAT, CONJ. -/
def Record.rnd (r : Record) : Nat := bits r.flags 9 8
def Record.sat (r : Record) : Bool := bit r.flags 10
def Record.conj (r : Record) : Bool := bit r.flags 11

/-- Bytes of an element type. -/
def typeBytes (ty : Nat) : Nat := typeWidth ty / 8

/-- The record has pattern `k`. -/
def Record.has (r : Record) (k : Fin 4) : Bool := (r.pattern k).isSome

/-- Elements of pattern `k`. -/
def Record.count (r : Record) (k : Fin 4) : Nat := match r.pattern k with
  | some p => p.size
  | none => 0

/-- The pattern numbers of source, destination, index list and table of an OP (R216). -/
def copySource (op : Nat) : Fin 4 := if op = 6 then 1 else 0
def copyDest (op : Nat) : Fin 4 := if op = 5 then 2 else 1
def copyTable (op : Nat) : Fin 4 := if op = 5 then 1 else 2

/-- Elements N of a copy record (R218, R219). -/
def copyCount (r : Record) : Nat := if r.op = 2 then r.count 1 else r.count 0

/-- Bytes of a destination element (R222). -/
def copyWidth (r : Record) : Nat := if r.op = 3 then 1024 else typeBytes r.dtype

/-- The table pattern breaks R219. -/
def badTable (p : Pattern) : Bool :=
  p.ext.toList.any (fun x => decide (x ≠ 0)) || decide (p.stride[1] ≠ 0) || decide (p.stride[2] ≠ 0) || decide (p.stride[3] ≠ 0)

/-- A modifier that R217 does not take. -/
def badCopyModifier (r : Record) : Bool :=
  let same := decide (r.stype = r.dtype)
  let int (t : Nat) : Bool := decide (t < 8)
  (r.conj && decide (r.dtype ≠ 12 ∧ r.dtype ≠ 13)) || (r.sat && (!int r.dtype || same)) ||
  (decide (r.rnd ≠ 0) && (same || (int r.stype && int r.dtype)))

/-- The fill value of a CPYFILL (R220). -/
def fillValue (r : Record) : Nat := r.opf 1 + 2 ^ 32 * r.opf 2 + 2 ^ 64 * r.opf 3 + 2 ^ 96 * r.opf 4

/-- The first cause of a copy record's fields, presence and counts, in the order of R74 (R75, R216). -/
def checkCopy (r : Record) : Option Nat :=
  let has := r.has
  match r.op with
  | 1 => firstCause
    [(decide (4096 ≤ r.flags) || decide (r.aux ≠ 0) || has 2 || has 3 || opfNonzero r 1, 17),
     (decide (r.stype ≠ r.dtype) && !cvtPair r.dtype r.stype, 18), (badCopyModifier r, 23),
     (!has 0 || !has 1 || decide (r.count 0 ≠ r.count 1) || decide (2 ^ 32 ≤ r.count 0), 20)]
  | 2 => firstCause
    [(decide (4096 ≤ r.flags) || decide (r.stype ≠ 0) || decide (r.aux ≠ 0) || has 0 || has 2 || has 3 ||
        decide (r.opf 0 ≠ 0) || opfNonzero r 5 || decide (2 ^ typeWidth r.dtype ≤ fillValue r), 17),
     (decide (r.rnd ≠ 0) || r.sat || r.conj, 23), (!has 1 || decide (2 ^ 32 ≤ r.count 1), 20)]
  | 3 => firstCause
    [(decide (2 ≤ r.flags) || decide (r.aux ≠ 0) || has 2 || has 3 || opfNonzero r 0, 17),
     (!has 0 || !has 1 || decide (r.count 0 ≠ r.count 1) || decide (2 ^ 32 ≤ r.count 0), 20)]
  | 4 => firstCause
    [(decide (r.flags ≠ 0) || decide (r.aux ≠ 0) || has 0 || has 1 || has 2 || has 3 || opfNonzero r 0, 17), (r.ben, 20)]
  | _ =>
    let table := r.pattern (copyTable r.op)
    let data : Fin 4 := if r.op = 5 then 2 else 1
    firstCause
    [(decide (bits r.aux 1 0 = 3), 16),
     (decide (4096 ≤ r.flags) || decide (4 ≤ r.aux) || has 3 || opfNonzero r 1, 17),
     (decide (r.stype ≠ r.dtype) && !cvtPair r.dtype r.stype, 18), (badCopyModifier r, 23),
     (!has 0 || !has 1 || !has 2 || (match table with
        | some p => badTable p
        | none => false) || decide (r.count 0 ≠ r.count data) || decide (2 ^ 32 ≤ r.count 0), 20)]

/-! ## Elements and memory (R188 to R191, R211, R221) -/

/-- The places of an element's bytes, cut at lines of 128 bytes in the global and the domain window, or its first cause. -/
def copyPlaces (s : State) (t : Task) (acc : Access) (va : Word) (n : Nat) :
    Except Nat (List (Place × Nat)) :=
  if !windowOk va || decide (topByte va = 3) then .error 81
  else if (va.toNat + n - 1) / 2 ^ 56 ≠ topByte va then .error 82
  else
    match topByte va with
    | 2 =>
      let off := va.toNat % 2 ^ 56
      if inAlloc t off n then .ok [(.scratch off, n)] else .error 144
    | 1 => (piecesOf 128 va.toNat n).mapM fun p =>
        let a : Word := BitVec.ofNat 64 p.1
        if !inDomain s (domainDev a) then .error 84
        else if !keyed s t.vale then .error 145
        else .ok (.peer (domainDev a) (domainAddr a), p.2)
    | _ => (piecesOf 128 va.toNat n).mapM fun p =>
        match translate s t.vale p.1 acc with
        | .ok l => .ok (.dram l.pa l.cc, p.2)
        | .error e => .error (e.code 2)

/-- What a read or write of an element comes to: it goes on, it waits, the record faults, or it consumes a poisoned word. -/
inductive CopyRes (α : Type) where
  | ok (s : State) (x : α)
  | pause (s : State)
  | fault (s : State) (code : Nat)
  | poison (s : State) (va : Word)

/-- Go on with what has been obtained. -/
def CopyRes.bind {α β : Type} (r : CopyRes α) (f : State → α → CopyRes β) : CopyRes β :=
  match r with
  | .ok s x => f s x
  | .pause s => .pause s
  | .fault s code => .fault s code
  | .poison s va => .poison s va

/-- Change the active record numbered `num`. -/
def setActive (s : State) (c : Fin 256) (e : Fin 4) (num : Nat) (f : Active → Active) : State :=
  let k := s.core c
  s.setCore c (k.setEng e ((k.eng e).update num f))

/-- The active record numbered `num`. -/
def getActive (s : State) (c : Fin 256) (e : Fin 4) (num : Nat) : Option Active :=
  ((s.core c).eng e).active.find? fun a => decide (a.num = num)

/-- A peer's answer as bytes, or the record's cause. -/
def answerBytes (ans : PeerAnswer) : Except Nat (List Byte) :=
  match ans with
  | .data bs => .ok bs
  | .poison => .error 369
  | .unbound => .error 307
  | _ => .error 306

/-- Who a record's accesses are made for: its task, its core, its engine, its number, and the reservation under which the rows of
a CPYBULK do not wait (R224). -/
structure Agency where
  c    : Fin 256
  e    : Fin 4
  num  : Nat
  t    : Task
  own  : Option (Fin 256 × Fin 4)
  deriving DecidableEq, Repr

/-- The agency of an active record. -/
def agencyOf (c : Fin 256) (e : Fin 4) (t : Task) (a : Active) : Agency :=
  { c := c, e := e, num := a.num, t := t, own := if a.r.op = 3 then some (c, e) else none }

/-- A request of the record to a peer. -/
def Agency.ask (g : Agency) (d : BitVec 10) (addr : Word) (n part : Nat) (op : PeerOp) : Ask :=
  { core := g.c, who := .engine g.e, num := g.num, part := part, dev := d, addr := addr, len := n, op := op }

/-- A copy channel uses scratchpad banks (R135); the collective engine's accesses delay no store of the lanes. -/
def Agency.usesBanks (g : Agency) (s : State) (off n : Nat) : State := if g.e.val < 2 then useBanks s g.c off n else s

/-- The request that this device itself serves. -/
def Agency.peer (g : Agency) (d : BitVec 10) (addr : Word) (n : Nat) (op : PeerOp) : PeerRequest :=
  { dev := d, vale := BitVec.ofNat 4 g.t.vale.val, addr := addr, len := n, op := op, order := none }

/-- The first word of a range that a poisoned one meets, as an address in the window of `va` (R300, R312). -/
def poisonWord (s : State) (mem : Nat → ErrorAt) (at_ n : Nat) (va : Word) : Word :=
  let i := ((List.range (n / 8 + 2)).find? fun i => s.poison.contains (mem (at_ / 8 + i))).getD 0
  (va &&& ~~~ 7#64) + BitVec.ofNat 64 (8 * i)

/-- A peer's answer to the read of one piece (R190, R296). -/
def fromPeer (s : State) (va : Word) (ans : PeerAnswer) : CopyRes (List Byte) :=
  match answerBytes ans with
  | .ok bs => .ok s bs
  | .error code => if code = 369 then .poison s (va &&& ~~~ 7#64) else .fault s code

/-- Read one piece from a peer; its answer has number `i` in the record. -/
def fetchPeer (g : Agency) (d : BitVec 10) (addr va : Word) (n i : Nat) (s : State) : CopyRes (List Byte) :=
  match getActive s g.c g.e g.num with
  | none => .pause s
  | some a =>
    match a.inbox.find? fun p => decide (p.1 = i) with
    | some p => fromPeer s va p.2
    | none =>
      if i < a.asked then .pause s
      else match routeTo s d with
        | .none => .fault s 304
        | .later _ => .pause s
        | .up p =>
          if portServes s p.port g.t.vale then
            .pause (setActive (sendRead (noteServed s p.port g.t.vale g.c (.engine g.e)) p (g.ask d addr n i .read)) g.c g.e g.num
              fun a => { a with asked := i + 1 })
          else .pause (askPort s p.port g.t.vale g.c (.engine g.e))

/-- Read one piece; a peer's takes the next number of the record's answers. -/
def fetchPiece (g : Agency) (p : Place) (n : Nat) (va : Word) (i : Nat) (s : State) : CopyRes (List Byte × Nat) :=
  match p with
  | .dram pa _ =>
    if bankBlocks s g.t.vale g.own pa then .pause s
    else if poisonedAt s .dram pa n then .poison s (poisonWord s .dram pa n va)
    else let s := recallRange s none pa n; .ok s (valeRead s g.t.vale pa n, i)
  | .scratch off =>
    if poisonedAt s (.scratch g.c) off n then .poison s (poisonWord s (.scratch g.c) off n va)
    else .ok (g.usesBanks s off n) (memRead (s.core g.c).scratch off n, i)
  | .peer d addr =>
    if d = s.hub.index then
      if peerHeld s (g.peer d addr n .read) then .pause s
      else
      let r := servePeer s (g.peer d addr n .read)
      (fromPeer r.1 va r.2).bind fun s bs => .ok s (bs, i)
    else (fetchPeer g d addr va n i s).bind fun s bs => .ok s (bs, i + 1)
  | _ => .fault s 81

/-- Read pieces of an element from `va` on. -/
def fetchPieces (g : Agency) : List (Place × Nat) → Word → Nat → State → CopyRes (List Byte × Nat)
  | [], _, i, s => .ok s ([], i)
  | (p, n) :: rest, va, i, s =>
    (fetchPiece g p n va i s).bind fun s x =>
      (fetchPieces g rest (va + BitVec.ofNat 64 n) x.2 s).bind fun s y => .ok s (x.1 ++ y.1, y.2)

/-- Write bytes of a row or of an element at their home; a row that a CPYBULK writes leaves no line of it in a slice (R224). -/
def storeHome (g : Agency) (pa : Nat) (bs : List Byte) (s : State) : State :=
  let w := valeWrite s g.t.vale none pa bs
  if g.own.isSome && (s.bulk.any fun h => decide (h.bank = bankOf pa) && decide (g.own = some (h.core, h.eng))) then
    dropLines w fun _ x => decide (pa / 128 ≤ x.line) && decide (x.line * 128 < pa + bs.length)
  else w

/-- Write one piece. The core's own copies of the bytes are older now than a WPTR that counts them may leave (R223). -/
def storePiece (g : Agency) (p : Place) (bs : List Byte) (s : State) : CopyRes Unit :=
  let late (s : State) : CopyRes Unit := .ok (markLate s g.c g.e p bs.length) ()
  match p with
  | .dram pa _ =>
    if !keyed s g.t.vale then .fault s 145
    else if bankBlocks s g.t.vale g.own pa then .pause s
    else late (storeHome g pa bs s)
  | .scratch off =>
    let k := s.core g.c
    let s := clearPoison (s.setCore g.c { k with scratch := memWrite k.scratch off bs }) (.scratch g.c) off bs.length
    .ok (g.usesBanks s off bs.length) ()
  | .peer d addr =>
    if d = s.hub.index then
      if peerHeld s (g.peer d addr bs.length (.write bs)) then .pause s
      else
      let r := servePeer s (g.peer d addr bs.length (.write bs))
      match answerBytes r.2 with
      | .ok _ => late r.1
      | .error code => .fault s code
    else
      match routeTo s d with
      | .none => .fault s 304
      | .later _ => .pause s
      | .up p =>
        if portServes s p.port g.t.vale then
          match sendWrite (noteServed s p.port g.t.vale g.c (.engine g.e)) p (g.ask d addr bs.length 0 (.write bs)) with
          | none => .pause s
          | some s' => late (setActive s' g.c g.e g.num fun a => { a with acks := a.acks ++ [s.hub.reqSeq] })
        else .pause (askPort s p.port g.t.vale g.c (.engine g.e))
  | _ => .fault s 81

/-- Write pieces of an element, in address order. -/
def storePieces (g : Agency) : List (Place × Nat) → List Byte → State → CopyRes Unit
  | [], _, s => .ok s ()
  | (p, n) :: rest, bs, s => (storePiece g p (bs.take n) s).bind fun s _ => storePieces g rest (bs.drop n) s

/-- The translation of an element waits for a DRAM bank that a copy channel holds (R224). -/
def elemHeld (g : Agency) (s : State) (va : Word) (n : Nat) : Bool :=
  decide (topByte va = 0) && (piecesOf 128 va.toNat n).any fun p => walkHeld s g.t.vale g.own p.1

/-- The translation of an element has read its table entries (R269). -/
def elemWalked (g : Agency) (s : State) (va : Word) (n : Nat) : State :=
  if topByte va = 0 then (piecesOf 128 va.toNat n).foldl (fun s p => noteWalk s g.t.vale p.1) s else s

/-- Every piece lies in this device, which reads and writes its words one by one where the machine is to do so (log 52). -/
def inDevice (s : State) (ps : List (Place × Nat)) : Bool :=
  ps.all fun p => match p.1 with
    | .peer d _ => decide (d = s.hub.index)
    | _ => true

/-- Read the next word of an element's read number `tag`, any of those that are left; with the last the read is made. -/
def readWord (g : Agency) (s : State) (tag : Nat) (va : Word) (i : Nat) (run : WordRun) : CopyRes (List Byte × Nat) :=
  match run.todo[Config.choose s.ticks va.toNat % run.todo.length]? with
  | none => .ok s (run.bytes, i)
  | some x => (fetchPiece g x.2.1 x.2.2 (va + BitVec.ofNat 64 x.1) i s).bind fun s y =>
    let run : WordRun := { todo := run.todo.erase x, got := (x.1, y.1) :: run.got }
    .pause (setActive s g.c g.e g.num fun a =>
      if run.todo.isEmpty then { a with reads := a.reads ++ [(tag, run.bytes)], words := none } else { a with words := some run })

/-- Read number `tag` of an element, at a virtual address; `i` counts the record's answers used. Its words are read at once, or one by
one in any order (R344; log 52). -/
def fetchElem (g : Agency) (s : State) (tag : Nat) (va : Word) (n i : Nat) : CopyRes (List Byte × Nat) :=
  match (getActive s g.c g.e g.num).bind fun a => a.reads.find? fun r => decide (r.1 = tag),
      (getActive s g.c g.e g.num).bind Active.words with
  | some r, _ => .ok s (r.2, i)
  | none, some run => readWord g s tag va i run
  | none, none =>
    if elemHeld g s va n then .pause s
    else match copyPlaces s g.t .read va n with
    | .error code => .fault (elemWalked g s va n) code
    | .ok ps =>
      let s := elemWalked g s va n
      if s.split && inDevice s ps then readWord g s tag va i { todo := wordsOf 0 ps, got := [] } else fetchPieces g ps va i s

/-- Write the pieces of an element that are left: those in this device at once, or one by one in any order (log 52); each that leaves
takes its turn at its port (R47). What has been written or sent is not written again. -/
def writeRun (g : Agency) : Nat → List (Place × List Byte) → Bool → State → CopyRes Unit
  | 0, _, _, s => .pause s
  | fuel + 1, ws, begun, s =>
    let k := if s.split then Config.choose s.ticks ws.length % ws.length else 0
    match ws.drop k ++ ws.take k with
    | [] => .ok s ()
    | (p, bs) :: rest =>
      let keep (s : State) (ws : List (Place × List Byte)) : State := setActive s g.c g.e g.num fun a => { a with writes := ws }
      match storePiece g p bs s with
      | .ok s () =>
        if rest.isEmpty then .ok s () else if s.split then .pause (keep s rest) else writeRun g fuel rest true s
      | .pause s => .pause (if begun then keep s ((p, bs) :: rest) else s)
      | .fault s code => .fault s code
      | .poison s va => .poison s va

/-- Pieces of an element with their bytes. -/
def withBytes : List (Place × Nat) → List Byte → List (Place × List Byte)
  | [], _ => []
  | (p, n) :: rest, bs => (p, bs.take n) :: withBytes rest (bs.drop n)

/-- Write an element at a virtual address: an element that faults leaves no piece written (R221). Only where another device refuses a
part of it can the other part stay written; what this device's own index may refuse is written at once. -/
def storeElem (g : Agency) (s : State) (va : Word) (bs : List Byte) : CopyRes Unit :=
  match (getActive s g.c g.e g.num).map Active.writes with
  | none => .pause s
  | some (w :: ws) => writeRun g (ws.length + 2) (w :: ws) true s
  | some [] =>
    if elemHeld g s va bs.length then .pause s
    else match copyPlaces s g.t .write va bs.length with
    | .error code => .fault (elemWalked g s va bs.length) code
    | .ok ps =>
      let s := elemWalked g s va bs.length
      if !inDevice s ps then writeRun g (ps.length + 1) (withBytes ps bs) false s
      else if s.split && ps.all (fun p => match p.1 with | .peer .. => false | _ => true) then
        let ps := (wordsOf 0 ps).map Prod.snd
        writeRun g (ps.length + 1) (withBytes ps bs) false s
      else match storePieces g ps bs s with
        | .ok s () => .ok s ()
        | .pause _ => .pause s
        | .fault _ code => .fault s code
        | .poison _ va => .poison s va

/-! ## The element loop (R218, R221 to R223) -/

/-- The write pointer counts what the record has written (R223). -/
def advancePtr (s : State) (c : Fin 256) (e : Fin 4) (num : Nat) : State :=
  let k := s.core c
  let x := k.eng e
  match getActive s c e num with
  | none => s
  | some a =>
    let bytes := a.done * copyWidth a.r
    let x := if x.ptrStopped then x else { x with ptr := x.ptr + BitVec.ofNat 64 (bytes - a.landed) }
    s.setCore c (k.setEng e (x.update num fun a => { a with landed := bytes }))

/-- The record faults; what was written stays (R221). -/
def copyFault (s : State) (c : Fin 256) (e : Fin 4) (num code : Nat) : State :=
  match getActive s c e num with
  | none => s
  | some a => latchFault s c e num (BitVec.ofNat 9 code) a.r.tval

/-- The record has consumed a poisoned word, whose address is reported (R300, R312). -/
def copyPoison (s : State) (c : Fin 256) (e : Fin 4) (num : Nat) (va : Word) : State :=
  latchFault (logError s c 369) c e num 369 va

/-- Elements in order, each after the writes of the one before are performed, for as long as nothing waits. The pointer counts each
element before the next one begins, the last one at the record's completion (R215). -/
def copyLoop (c : Fin 256) (e : Fin 4) (num : Nat) (f : State → Active → CopyRes Unit) : Nat → State → State
  | 0, s =>
    match getActive s c e num with
    | some a =>
      if copyCount a.r ≤ a.done then setActive s c e num fun a => { a with ready := true }
      else if a.acks.isEmpty then advancePtr s c e num
      else s
    | none => s
  | fuel + 1, s =>
    match getActive s c e num with
    | none => s
    | some a =>
      if !a.acks.isEmpty then s
      else if copyCount a.r ≤ a.done then setActive s c e num fun a => { a with ready := true }
      else
          let s := advancePtr s c e num
          match f s a with
          | .pause s => s
          | .fault s code => copyFault s c e num code
          | .poison s va => copyPoison s c e num va
          | .ok s () => copyLoop c e num f fuel (setActive s c e num fun a =>
              { a with done := a.done + 1, asked := 0, inbox := [], reads := [], words := none, writes := [] })

/-- How many elements a step moves: those that are left, or as many as the machine is to move (log 52). -/
def copyFuel (s : State) (left : Nat) : Nat := if s.chunk = 0 then left + 1 else min (left + 1) s.chunk

/-- What runs a copy record: the engine in turn, its oldest record with the OP given. -/
def copyStep (op : Nat) (f : Agency → State → Active → CopyRes Unit) (s : State) : Out :=
  match engineInTurn s with
  | none => .next s
  | some (c, e) =>
    match ((s.core c).eng e).head, (s.core c).task with
    | some a, some t =>
      if a.r.op ≠ op ∨ a.ready = true then .next s
      else
        let s := copyLoop c e a.num (f (agencyOf c e t a)) (copyFuel s (copyCount a.r - a.done)) s
        .next { s with stalled := false }
    | _, _ => .next s

/-- Bytes of one element, converted and conjugated as FLAGS give (R217, R218). -/
def copyConvert (r : Record) (k : Nat) (bs : List Byte) : List Byte :=
  let st := r.stype
  let dt := r.dtype
  let n := ofBytes bs
  let q := partsOf dt
  let dw := typeWidth dt / q
  let sw := typeWidth st / q
  let mode (j : Nat) : Rnd := match r.rnd with
    | 0 => .rne
    | 1 => .rtz
    | 2 => .rto
    | _ => .rst (rstRecord r.addr (r.opf 0) k (2 * j))
  let v := if st = dt then n
    else packLanes dw ((List.range q).map fun j => convert dt st r.sat (mode j) (laneOfRow n sw j))
  let v := if r.conj then v ^^^ 2 ^ (typeWidth dt - 1) else v
  toBytes (typeBytes dt) v

/-- Pattern `k` of a record that has been checked. -/
def Record.side (r : Record) (k : Fin 4) : Pattern :=
  (r.pattern k).getD { base := 0, own := false, ext := Vector.replicate 4 0, count := Vector.replicate 4 0, stride := Vector.replicate 4 0 }

/-- CPY (R218). Of the faults of one element that of the source comes before that of the destination, as in GATHER and SCATTER that of the
index before both (log 72). -/
def execCpy (s : State) : Out :=
  copyStep 1 (fun g s a =>
    (fetchElem g s 1 ((a.r.side 0).elem a.done) (typeBytes a.r.stype) 0).bind fun s x =>
      storeElem g s ((a.r.side 1).elem a.done) (copyConvert a.r a.done x.1)) s

/-- CPYFILL (R220). -/
def execCpyfill (s : State) : Out :=
  copyStep 2 (fun g s a =>
    storeElem g s ((a.r.side 1).elem a.done) (toBytes (typeBytes a.r.dtype) (fillValue a.r))) s

/-! ## Gather and scatter (R219) -/

/-- Bytes of an ITYPE. -/
def indexBytes (r : Record) : Nat := if bits r.aux 1 0 = 1 then 2 else 4

/-- An index as a number. -/
def indexValue (r : Record) (bs : List Byte) : Int :=
  let n := ofBytes bs
  if bits r.aux 1 0 = 2 then signedOf 4 n else n

/-- t_k (R219). -/
def tableAddress (p : Pattern) (x : Int) : Word := BitVec.ofInt 64 ((p.base.toNat : Int) + x * p.stride[0].toInt)

/-- Read the k-th index, aligned to its width: its table address, and the answers used. -/
def fetchIndex (g : Agency) (s : State) (a : Active) : CopyRes (Word × Nat) :=
  let r := a.r
  let va := (r.side 0).elem a.done
  let n := indexBytes r
  if va.toNat % n ≠ 0 then match copyPlaces s g.t .read va n with
    | .error 81 => .fault s 81
    | .error 82 => .fault s 82
    | _ => .fault s 80
  else (fetchElem g s 0 va n 0).bind fun s x => .ok s (tableAddress (r.side (copyTable r.op)) (indexValue r x.1), x.2)

/-- GATHER (R219). -/
def execGather (s : State) : Out :=
  copyStep 5 (fun g s a =>
    (fetchIndex g s a).bind fun s tk =>
      (fetchElem g s 1 tk.1 (typeBytes a.r.stype) tk.2).bind fun s x =>
        storeElem g s ((a.r.side 2).elem a.done) (copyConvert a.r a.done x.1)) s

/-- SCATTER (R219). -/
def execScatter (s : State) : Out :=
  copyStep 6 (fun g s a =>
    (fetchIndex g s a).bind fun s tk =>
      (fetchElem g s 1 ((a.r.side 1).elem a.done) (typeBytes a.r.stype) tk.2).bind fun s x =>
        storeElem g s tk.1 (copyConvert a.r a.done x.1)) s

/-! ## Bulk rows (R224, R225) -/

/-- The bank that a copy channel has reserved (R224). -/
def heldBank (s : State) (c : Fin 256) (e : Fin 4) : Option Nat :=
  (s.bulk.find? fun h => decide (h.core = c) && decide (h.eng = e)).map (·.bank)

/-- The DRAM side's address of element `k`. -/
def bulkAddress (r : Record) (k : Nat) : Word := (r.side (if r.flags = 0 then 0 else 1)).elem k

/-- The bank of a bulk element, or its cause. -/
def bulkBank (s : State) (t : Task) (r : Record) (k : Nat) : Except Nat Nat :=
  let va := bulkAddress r k
  if topByte va ≠ 0 ∨ va.toNat % 1024 ≠ 0 then .error 80
  else match translate s t.vale va.toNat (if r.flags = 0 then .read else .write) with
    | .ok l => .ok (bankOf l.pa)
    | .error e => .error (e.code 2)

/-- The channel waits for a bank from now on, if it does not wait for it already. -/
def waitForBank (s : State) (c : Fin 256) (e : Fin 4) (b : Nat) : State :=
  let k := s.core c
  let x := k.eng e
  let since := match x.waiting with
    | some (b', t) => if b' = b then t else s.now.toNat
    | none => s.now.toNat
  s.setCore c (k.setEng e { x with waiting := some (b, since) })

/-- Change an engine. -/
def setEngine (s : State) (c : Fin 256) (e : Fin 4) (f : Engine → Engine) : State :=
  let k := s.core c
  s.setCore c (k.setEng e (f (k.eng e)))

/-- The translation of a bulk element waits for a DRAM bank that another channel holds (R224). -/
def bulkHeld (s : State) (c : Fin 256) (e : Fin 4) (t : Task) (r : Record) (k : Nat) : Bool :=
  let va := bulkAddress r k
  decide (topByte va = 0) && walkHeld s t.vale (some (c, e)) va.toNat

/-- The walk of a bulk element (R269). -/
def bulkWalked (s : State) (t : Task) (r : Record) (k : Nat) : State :=
  let va := bulkAddress r k
  if topByte va = 0 ∧ va.toNat % 1024 = 0 then noteWalk s t.vale va.toNat else s

/-- What a CPYBULK at the head of its queue meets: it begins, it waits for its translation, or for its bank, which it has asked for,
or it faults (R118, R224). -/
inductive BulkStart where
  | go
  | hold
  | wait (bank : Nat)
  | fault (code : Nat)
  deriving DecidableEq, Repr

/-- Before the first row the channel reserves the row's bank (R224). -/
def bulkStart (s : State) (c : Fin 256) (e : Fin 4) (t : Task) (r : Record) : BulkStart :=
  if copyCount r = 0 then .go
  else if bulkHeld s c e t r 0 then .hold
  else match bulkBank s t r 0, heldBank s c e with
    | .error code, _ => .fault code
    | .ok b, none => .wait b
    | .ok b, some held => if held = b then .go else .fault 209

/-- CPYBULK: rows, each in the bank that the channel holds (R224). -/
def execCpybulk (s : State) : Out :=
  copyStep 3 (fun g s a =>
    if bulkHeld s g.c g.e g.t a.r a.done then .pause s
    else match bulkBank s g.t a.r a.done, heldBank s g.c g.e with
    | .error code, _ => .fault (bulkWalked s g.t a.r a.done) code
    | .ok _, none => .pause s
    | .ok b, some held =>
      if held ≠ b then .fault (bulkWalked s g.t a.r a.done) 20
      else (fetchElem g s 1 ((a.r.side 0).elem a.done) 1024 0).bind fun s x => storeElem g s ((a.r.side 1).elem a.done) x.1) s

/-- Every copy channel of the device. -/
def copyChannels : List (Fin 256 × Fin 4) := (List.finRange 256).flatMap fun c => [(c, 0), (c, 1)]

/-- Some channel has waited longer for the bank. -/
def bankAwaited (s : State) (b since : Nat) : Bool :=
  copyChannels.any fun p => match ((s.core p.1).eng p.2).waiting with
    | some (b', t) => decide (b' = b) && decide (t < since)
    | none => false

/-- BULK_BANK_RESERVED: the channel in turn obtains the bank it waits for, in arrival order (R224). -/
def execBulkBankReserved (s : State) : Out :=
  match engineInTurn s with
  | none => .next s
  | some (c, e) =>
    match ((s.core c).eng e).waiting with
    | some (b, since) =>
      if bankHeld s none b || bankAwaited s b since then .next s
      else
        let s := setEngine s c e fun x => { x with waiting := none, withdrawn := false, lastBulk := s.now.toNat }
        .next { s with bulk := s.bulk ++ [{ bank := b, core := c, eng := e }], stalled := false }
    | none => .next s

/-- The channel holds no bank any more. -/
def releaseBank (s : State) (c : Fin 256) (e : Fin 4) : State :=
  { s with bulk := s.bulk.filter fun h => !(decide (h.core = c) && decide (h.eng = e)) }

/-- BULK_RESERVATION_TIMEOUT: 50 µs without a CPYBULK in progress (R225). -/
def execBulkReservationTimeout (s : State) : Out :=
  match engineInTurn s with
  | none => .next s
  | some (c, e) =>
    let x := (s.core c).eng e
    let busy := x.active.any fun a => decide (a.r.op = 3)
    if (heldBank s c e).isSome && !busy && decide (x.lastBulk + 50000 ≤ s.now.toNat) then
      .next (releaseBank (setEngine s c e fun x => { x with withdrawn := true }) c e)
    else .next s

/-- CPYCLOSE (R225). -/
def execCpyclose (s : State) : Out :=
  match engineInTurn s with
  | none => .next s
  | some (c, e) =>
    let x := (s.core c).eng e
    match x.head with
    | some a =>
      if a.r.op ≠ 4 ∨ a.ready = true then .next s
      else if (heldBank s c e).isNone && !x.withdrawn then .next (copyFault s c e a.num 210)
      else
        let s := releaseBank (setActive s c e a.num fun a => { a with ready := true }) c e
        .next { s with stalled := false }
    | none => .next s

/-! ## Completion (R215, R222, R223, R227) -/

/-- A record completes: its barrier add, with an overrun latched against it; a copy channel's write pointer's final advance; DONE; it
leaves the engine, and a CPYBULK is in progress no more (R215, R225). -/
def completeRecord (s : State) (c : Fin 256) (e : Fin 4) (num bytes overrun : Nat) : State :=
  match getActive s c e num, (s.core c).task with
  | some a, some t =>
    let r := if a.r.ben then barAdd (s.core c) (t.alloc + a.r.bar) bytes else (s.core c, false)
    let s := s.setCore c r.1
    let s := if e.val < 2 then advancePtr s c e num else s
    let k := s.core c
    let x := k.eng e
    let x := if r.2 && x.latch.isNone then
        { x with latch := some (BitVec.ofNat 9 overrun), undelivered := some a.r.tval }
      else x
    let x := { x with active := x.active.filter fun b => !decide (b.num = num), completed := x.completed + 1
                      lastBulk := if a.r.op = 3 then s.now.toNat else x.lastBulk }
    { s.setCore c (noteStarved (k.setEng e x)) with stalled := false }
  | _, _ => s

/-- Destination bytes of a copy record (R222). -/
def copyBytes (r : Record) : Nat := if r.op = 4 then 0 else copyCount r * copyWidth r

/-- COPY_RECORD_COMPLETE: every write of the oldest record of the channel in turn has been performed. -/
def execCopyRecordComplete (s : State) : Out :=
  match engineInTurn s with
  | none => .next s
  | some (c, e) =>
    match ((s.core c).eng e).head with
    | some a =>
      if decide (e.val < 2) && a.ready && a.acks.isEmpty then
        .next (completeRecord s c e a.num (copyBytes a.r) 208)
      else .next s
    | none => .next s

end Sys2Proof.Machine
end

