-- ==== Sys2Proof/Machine/Matrix.lean ====
section
/-! DEFINITION. Machine/Matrix.lean: the matrix engine (R232 to R235, R245 to R256): the checks of its records, products, rows. -/
namespace Sys2Proof.Machine

/-! ## Fields (R248, R252, R253) -/

/-- ATYPE, OTYPE. -/
def mATYPE (r : Record) : Nat := bits r.flags 4 0
def mOTYPE (r : Record) : Nat := bits r.flags 8 5
/-- RND, SAT, ACC, CA, CB, ACT, BIAS, POOL, COLOFF. -/
def mRND (r : Record) : Nat := bits r.flags 10 9
def mSAT (r : Record) : Bool := bit r.flags 11
def mACC (r : Record) : Bool := bit r.flags 12
def mCA (r : Record) : Bool := bit r.flags 13
def mCB (r : Record) : Bool := bit r.flags 14
def mACT (r : Record) : Nat := bits r.flags 16 15
def mBIAS (r : Record) : Bool := bit r.flags 17
def mPOOL (r : Record) : Bool := bit r.flags 18
def mCOLOFF (r : Record) : Bool := bit r.flags 21
/-- Replicas asked for (R244). -/
def replicas (r : Record) : Nat := bits r.flags 20 19 + 1
/-- T (R248). -/
def mT (r : Record) : Nat := 16 * bits r.aux 20 20 + bits r.aux 3 0
/-- DROW, ROWSTEP. -/
def mDROW (r : Record) : Nat := bits r.aux 11 4
def mSTEP (r : Record) : Nat := bits r.aux 19 12
/-- The header address, HREL applied (R248). -/
def headerAddress (r : Record) : Word :=
  let w : Word := BitVec.ofNat 64 (r.opf 0 + 2 ^ 32 * r.opf 1)
  if bit r.flags 22 then r.addr + w else w
/-- NOUT (R248). -/
def nout (otype : Nat) : Nat := if complexTile otype then 32 else 64
/-- The set of OTYPE codes (R248). -/
def otypeOk (t : Nat) : Bool := [2, 3, 8, 9, 10, 11, 12, 13].contains t
/-- LO, HI as whole numbers. -/
def mLO (r : Record) : Int := signedOf 4 (r.opf 4)
def mHI (r : Record) : Int := signedOf 4 (r.opf 5)
/-- The slices that a WFILL names (R253). -/
def wfillSlices (r : Record) (S : Nat) : List Nat := if bit r.aux 3 then [bits r.aux 2 0] else List.range S

/-- The BASE of every present pattern lies in the own-scratchpad window (R249). -/
def ownPatterns (r : Record) : Bool := r.pat.toList.all fun p => match p with
  | some q => q.own
  | none => true

/-- Extents and rows that break R248, as the record alone shows it. -/
def badMmaExtent (r : Record) : Bool :=
  let M : Nat := match r.pattern 0 with
    | some p => mmaRows p
    | none => 0
  let k : Nat := match r.pattern 0 with
    | some p => p.count[0]
    | none => 0
  let out := if mPOOL r then M / 2 else M
  !r.has 0 || decide (r.has 1 ≠ mBIAS r) || (r.has 2 && decide (mATYPE r ≠ 16)) ||
  (mBIAS r && decide (r.count 1 ≠ nout (mOTYPE r))) ||
  (r.has 2 && (decide (r.opf 3 < 1) || decide (256 < r.opf 3) || decide (r.count 2 ≠ 4 * r.opf 3))) ||
  decide (M < 1) || decide (256 < M) || decide (k < 1) || decide (128 < k) || decide (mSTEP r < rho (mOTYPE r)) ||
  (mCOLOFF r && decide (mOTYPE r ≠ 8 ∧ mOTYPE r ≠ 9)) || (mPOOL r && decide (M % 2 = 1)) ||
  (decide (mACT r = 2) && decide (mHI r < mLO r)) ||
  decide (256 < mDROW r + (out - 1) * mSTEP r + rho (mOTYPE r))

/-- The first cause of a matrix record, before its header is known (R249, R252, R253); a pattern that MTHR or WFILL does not use is 28,
PAT3 25 (log 88). -/
def checkMatrix (r : Record) : Option Nat :=
  match r.op with
  | 0x10 => firstCause
    [(decide (r.flags / 2 ^ 23 ≠ 0) || decide (bits r.flags 21 21 ≠ 0) || decide (bits r.flags 18 0 ≠ 0) ||
        decide (16 ≤ r.aux) || opfNonzero r 2 || r.has 3, 25),
     (r.has 0 || r.has 1 || r.has 2, 28)]
  | 0x12 => firstCause
    [(decide (mATYPE r ≠ 17), 24),
     (decide (r.flags / 2 ^ 23 ≠ 0) || decide (bits r.flags 21 21 ≠ 0) || decide (bits r.flags 18 5 ≠ 0) ||
        decide (r.aux / 2 ^ 12 ≠ 0) || decide (bits r.aux 3 0 ≠ 0) || opfNonzero r 3 || r.has 3, 25),
     (!r.has 0 || r.has 1 || r.has 2 || decide (r.count 0 < 1) || decide (256 < r.count 0) ||
        decide (256 < mDROW r + (r.count 0 + 3) / 4), 28),
     (!ownPatterns r, 89)]
  | _ =>
    let float := decide (8 ≤ mOTYPE r)
    firstCause
    [(decide (17 ≤ mATYPE r) || decide (mACT r = 3), 24),
     (decide (r.flags / 2 ^ 23 ≠ 0) || decide (r.aux / 2 ^ 21 ≠ 0) || opfNonzero r 6 || r.has 3 ||
        (!r.has 2 && decide (r.opf 3 ≠ 0)) || (decide (mACT r ≠ 2) && decide (r.opf 4 ≠ 0 ∨ r.opf 5 ≠ 0)), 25),
     (!otypeOk (mOTYPE r), 26),
     (((mCA r || mCB r) && !complexTile (mOTYPE r)) || (mSAT r && float) || (decide (mRND r ≠ 0) && !float) ||
        (mPOOL r && mACC r) || (complexTile (mOTYPE r) && (decide (mACT r ≠ 0) || mPOOL r)), 31),
     (badMmaExtent r, 28), (!ownPatterns r, 89)]

/-! ## Once the header is known (R249) -/

/-- ATYPE suits FMT. -/
def atypeFits (fmt atype : Nat) : Bool :=
  match fmt with
  | 0 | 4 => atype == 0 || atype == 4
  | 14 | 15 => atype == 14 || atype == 15
  | 8 | 9 => atype == 8 || atype == 9
  | 17 => false
  | f => atype == f

/-- OTYPE suits FMT. -/
def otypeFits (fmt otype : Nat) : Bool :=
  match fmt with
  | 0 | 4 => otype == 2 || otype == 3
  | 12 | 13 => otype == 12 || otype == 13
  | 17 => false
  | _ => [8, 9, 10, 11].contains otype

/-- T lies in the range for FMT (R248); for a b1 tile, of which R248 says nothing, T is 0, judged before its types (log 73). -/
def tFits (h : Header) (T : Nat) : Bool :=
  if 8 ≤ h.fmt ∧ h.fmt ≤ 15 then decide (h.s < T) && decide (T ≤ 2 * h.s) else decide (T = 0)

/-- The first cause of an MMA against its header. -/
def checkMma (r : Record) (h : Header) : Option Nat :=
  let k : Nat := match r.pattern 0 with
    | some p => p.count[0]
    | none => 0
  firstCause
    [(!tFits h (mT r), 28), (!atypeFits h.fmt (mATYPE r) || !otypeFits h.fmt (mOTYPE r), 189),
     (decide (k ≠ (if h.fmt = 16 then h.k / 2 else h.k)), 28)]

/-! ## Reads of the own scratchpad (R249, R254) -/

/-- `n` bytes at an address that must be aligned to `align`, or the record's cause; LS_TVAL counts for a poisoned word only (R300). -/
def engRead (s : State) (c : Fin 256) (t : Task) (va : Word) (n align : Nat) : Except TileFault (List Byte) :=
  let off := va.toNat % 2 ^ 56
  if topByte va ≠ 2 ∨ 2 ^ 21 ≤ off then .error ⟨89, va⟩
  else if va.toNat % align ≠ 0 then .error ⟨88, va⟩
  else if !inAlloc t off n then .error ⟨152, va⟩
  else if poisonedAt s (.scratch c) off n then .error ⟨377, poisonWord s (.scratch c) off n va⟩
  else .ok (memRead (s.core c).scratch off n)

/-- Elements of a pattern in visit order, from number `i` on, `k` of them. -/
def engElems (s : State) (c : Fin 256) (t : Task) (p : Pattern) (n align i k : Nat) : Except TileFault (List (List Byte)) :=
  (List.range k).mapM fun j => engRead s c t (p.elem (i + j)) n align

/-! ## Products (R183 to R186, R233, R245) -/

/-- A digit of a basin; those of n8 are unsigned (R232). -/
def Basin.digit (b : Basin) (k : Fin 128) (col : Nat) : Int :=
  let n := (b.data[k]).toNat / 2 ^ (8 * col) % 256
  if b.header.fmt = 4 then n else signedOf 1 n

/-- A digit column over all rows. -/
def Basin.column (b : Basin) (col : Nat) : List Int := (List.finRange 128).map fun k => b.digit k col

/-- Σ of products. -/
def dot (a b : List Int) : Int := (List.zipWith (· * ·) a b).foldl (· + ·) 0

/-- The sum over the included digit pairs of one real product, A slices `a` and B slices `w` (R181, R183). -/
def pairSum (S T : Nat) (a w : List (List Int)) : Int :=
  (List.range S).foldl (fun p i => (List.range S).foldl (fun p j =>
    if i + j + 2 ≤ T then p + dot (a.getD i []) (w.getD j []) * 128 ^ (2 * S - 2 - i - j) else p) p) 0

/-- A row block: digits by slice, for the real and the imaginary parts, with its exponent (R182, R184). -/
structure RowBlock where
  re      : List (List Int)
  im      : List (List Int)
  exp     : Int
  special : Bool

/-- The block of one A row of a format that is sliced. -/
def sliceRow (S atype : Nat) (ca : Bool) (els : List (List Byte)) : RowBlock :=
  let F := fmtOf atype
  let part (j : Nat) : List FVal := els.map fun e => F.value (ofBytes ((e.drop (j * (F.width / 8))).take (F.width / 8)))
  let re := part 0
  let im := if complexTile atype then part 1 else []
  let ea := blockExp (re ++ im)
  let digits (vs : List FVal) (neg : Bool) : List (List Int) :=
    (List.range S).map fun x => vs.map fun v => if neg then - digitOf S x ea v else digitOf S x ea v
  { re := digits re false, im := digits im ca, exp := ea, special := (re ++ im).any isSpecial }

/-- Round a value of output element `e` into OTYPE's part under the record's modes; `step` as R180 (R150, R183). -/
def mmaRound (r : Record) (e step : Nat) (v : FVal) : Nat :=
  let ot := mOTYPE r
  let mode : Rnd := match mRND r with
    | 0 => .rne
    | 1 => .rtz
    | 2 => .rto
    | _ => .rst (rstRecord r.addr (r.opf 2) e step)
  if ot < 8 then toIntBits ot (mSAT r) mode v else (fmtOf ot).round mode v

/-- Two parts of an element, the real one lower. -/
def joinParts (ot re im : Nat) : Nat := re + im * 2 ^ (typeWidth ot / 2)

/-- The canonical NaN of OTYPE, in both parts of a complex one (R185). -/
def mmaNan (ot : Nat) : Nat := if complexTile ot then joinParts ot (fmtOf ot).nan (fmtOf ot).nan else (fmtOf ot).nan

/-- An exact zero has no sign of its own (R183). -/
def plusZero (v : FVal) : FVal := if v.isZero then .fin false 0 0 else v

/-- Element (m, n) of a sliced or integer product, from the row block and the digit columns of the tile (R183, R184). -/
def mmaElement (r : Record) (h : Header) (b : Basin) (a : RowBlock) (cols : List (List (List Int))) (m n : Nat) : Nat :=
  let S := h.s
  let T := if mT r = 0 then 2 * S else mT r
  let e := 64 * m + n
  let col := if complexTile h.fmt then 2 * n else n
  if a.special || b.special.getLsbD col then mmaNan (mOTYPE r)
  else
    let ev : Int := if h.fmt < 8 then 0 else a.exp + b.exps[(BitVec.ofNat 6 col).toFin] - 14 * S + 2
    let w := cols.getD n []
    let val (p : Int) : FVal := (FVal.ofInt p).scale ev
    if complexTile h.fmt then
      let wr := w.take S
      let wi := (w.drop S).map fun c => if mCB r then c.map (- ·) else c
      let pr := pairSum S T a.re wr - pairSum S T a.im wi
      let pi := pairSum S T a.re wi + pairSum S T a.im wr
      joinParts (mOTYPE r) (mmaRound r e 0 (val pr)) (mmaRound r e 2 (val pi))
    else mmaRound r e 0 (val (pairSum S T a.re w))

/-- The digit columns of output column `n`: one for each slice, for a complex tile the imaginary ones after (R232). -/
def tileColumns (h : Header) (bs : List Basin) (n : Nat) : List (List Int) :=
  if complexTile h.fmt then bs.map (·.column (2 * n)) ++ bs.map (·.column (2 * n + 1)) else bs.map (·.column n)

/-- Element (m, n) of a block-scaled product (R186): `a` the doubled A values, `sc` the row's four scales. -/
def scaledElement (r : Record) (h : Header) (b : Basin) (a : List Int) (sc : List Byte) (m n : Nat) : Nat :=
  match fmtBf16.value h.tau.toNat with
  | .fin tn tm te =>
    let w := b.column n
    let term (q : Nat) : FVal :=
      let p := dot ((a.drop (32 * q)).take 32) ((w.drop (32 * q)).take 32)
      ((FVal.ofInt p).mul (fmtE3m5.value (sc.getD q 0).toNat)).mul (fmtE3m5.value (b.scales.getD (64 * q + n) 0).toNat)
    let sum := FVal.add (FVal.add (FVal.add (term 0) (term 1)) (term 2)) (term 3)
    mmaRound r (64 * m + n) 0 (plusZero ((sum.mul (.fin tn tm te)).scale (-2)))
  | _ => mmaNan (mOTYPE r)

/-- The products of a record as far as they have been formed: one list of N elements for each A row, the entries that are left in the
scale queue, and the fault that ended them (R245, R246, R250). -/
structure Products where
  rows   : List (List (BitVec 128))
  scales : List (BitVec 32)
  fault  : Option TileFault

/-- The digit rows of one A row of a format that is not scaled. -/
def aRow (r : Record) (h : Header) (els : List (List Byte)) : RowBlock :=
  if h.fmt < 8 then
    { re := [els.map fun x => let v := ofBytes x; if mATYPE r = 0 then signedOf 1 v else (v : Int)], im := [], exp := 0,
      special := false }
  else sliceRow h.s (mATYPE r) (mCA r) els

/-- The digits of one A row of e2m1 elements. -/
def scaledRow (els : List (List Byte)) : List Int :=
  els.flatten.flatMap fun x => [e2m1Digit (x.toNat % 16), e2m1Digit (x.toNat / 16)]

/-- The product row of A row `m`, in the basins `bs` of one replica. -/
def productRow (r : Record) (h : Header) (bs : List Basin) (els : List (List Byte)) (sc : BitVec 32) (m : Nat) :
    List (BitVec 128) :=
  match bs with
  | [] => []
  | b :: _ =>
    let f : Nat → Nat :=
      if h.fmt = 16 then scaledElement r h b (scaledRow els) (toBytes 4 sc.toNat) m
      else mmaElement r h b (aRow r h els) ((List.range h.n).map (tileColumns h bs)) m
    (List.range h.n).map fun j => BitVec.ofNat 128 (f j)

/-- A rows `ms` one after another, row m in replica m mod g (R244, R265). A row takes its entry of the scale queue when its elements
are there; what earlier rows took stays taken when a later one faults (R246). -/
def productRows (s : State) (c : Fin 256) (t : Task) (r : Record) (h : Header) (reps : List (List Basin)) (p : Pattern) :
    List Nat → List (BitVec 32) → Products
  | [], q => ⟨[], q, none⟩
  | m :: ms, q =>
    let K := p.count[0]
    let n := if h.fmt = 16 then 1 else typeBytes (mATYPE r)
    match engElems s c t p n n (m * K) K with
    | .error e => ⟨[], q, some e⟩
    | .ok els =>
      match h.fmt, q with
      | 16, [] => ⟨[], [], some ⟨220, 0⟩⟩
      | fmt, q =>
        let rest := if fmt = 16 then q.tail else q
        let x := productRows s c t r h reps p ms rest
        { x with rows := productRow r h (reps.getD (m % reps.length) []) els (q.headD 0) m :: x.rows }

/-- The bias elements of the record (R248, R250). -/
def mmaBias (s : State) (c : Fin 256) (t : Task) (r : Record) : Except TileFault (List (BitVec 128)) :=
  match r.pattern 1 with
  | some p =>
    let w := typeBytes (mOTYPE r)
    (engElems s c t p w w 0 (nout (mOTYPE r))).map fun l => l.map fun e => BitVec.ofNat 128 (ofBytes e)
  | none => .ok []

/-- The rows of an MTHR, 2,048 bits each as sixteen pieces (R252); input row m is counted in replica m mod g (R265). -/
def mthrRows (s : State) (c : Fin 256) (t : Task) (r : Record) (h : Header) (reps : List (List Basin)) :
    Except TileFault (List (List (BitVec 128))) :=
  match r.pattern 0 with
  | none => .error ⟨28, 0⟩
  | some p => do
    if t.size < r.opf 2 + 512 then throw ⟨152, 0⟩
    let th ← engRead s c t (0x0200000000000000 + BitVec.ofNat 64 (t.alloc + r.opf 2)) 512 1
    let M := p.size
    let quarters ← (List.range M).mapM fun m => do
      let a := ofBytes (← engRead s c t (p.elem m) 16 16)
      let b := ((reps.getD (m % reps.length) []).head?).getD Basin.zero
      let count (n : Nat) : Nat := ((List.finRange 128).filter fun k => a.testBit k.val && (b.data[k]).getLsbD n).length
      return packLanes 1 ((List.range 512).map fun n =>
        if n < h.n ∧ (th.getD n 0).toNat ≤ count n then 1 else 0)
    return (List.range ((M + 3) / 4)).map fun i =>
      let row := packLanes 512 ((quarters.drop (4 * i)).take 4)
      (List.range 16).map fun j => BitVec.ofNat 128 (row / 2 ^ (128 * j))

/-! ## The run of a record (R254) -/

/-- A matrix record faults; LS_TVAL is the poisoned word's address for POISON, else the record's (R300). -/
def matrixFault (s : State) (c : Fin 256) (num : Nat) (f : TileFault) : State :=
  let s := if f.code = 377 then logError s c 377 else s
  match getActive s c 2 num with
  | some a => startFills c 2 (latchFault s c 2 num (BitVec.ofNat 9 f.code) (if f.code = 377 then f.tval else a.r.tval))
  | none => s

/-- Change an active matrix record. -/
def setMatrix (s : State) (c : Fin 256) (num : Nat) (f : Active → Active) : State :=
  { setActive s c 2 num f with stalled := false }

/-- What a record's tile has to meet once its header is known (R249, R252, R253), and the slices that it uses. -/
def tileChecks (r : Record) (h : Header) : Except Nat (List Nat) :=
  match r.op with
  | 0x10 => let xs := wfillSlices r h.s; if xs.any fun x => decide (h.s ≤ x) then .error 187 else .ok xs
  | 0x11 => match checkMma r h with
    | some code => .error code
    | none => .ok (List.range h.s)
  | _ => if h.fmt = 17 then .ok (List.range h.s) else .error 189

/-- The tile of a record as it begins. -/
structure TileStart where
  header : Header
  basins : List (Nat × Fin 32)
  into   : List (Nat × Fin 32)
  deriving DecidableEq, Repr

/-- What the first access of a matrix record comes to: its header is known and its basins are its own from now on, it waits for
basins and has not begun, or it faults (R242, R249, R254). -/
inductive TileBegin where
  | got (s : State) (x : TileStart)
  | wait
  | fault (s : State) (e : TileFault)

/-- Header and basins of a record that begins, as record number `num`. One whose fill has to read its tile begins once no store of the
core that writes the tile is out at a peer: such a store is performed before the record begins, and the fill reads it (R262, R266). -/
def beginTile (s : State) (c : Fin 256) (t : Task) (r : Record) (num : Nat) : TileBegin :=
  let hdr := headerAddress r
  let read := (residentHeader s c t hdr).isNone
  let headerRead (s : State) : State :=
    if read && decide (hdr.toNat % 64 = 0) && decide (topByte hdr = 0) then noteHeader s t hdr else s
  if read && headerWaits s t hdr then .wait
  else match tileHeader s c t 3 hdr with
    | .error e => .fault (headerRead s) e
    | .ok h =>
      let s := headerRead s
      match tileChecks r h with
      | .error code => .fault s ⟨code, hdr⟩
      | .ok xs =>
        match acquireBasins s c t hdr h num (replicas r) xs with
        | none => .wait
        | some q =>
          if !q.2.2.isEmpty && sentMeets (s.core c) ((hdr, 64) :: h.ranges) then .wait
          else .got q.1 { header := h, basins := q.2.1, into := q.2.2 }

/-- The active record that its tile makes: its fills hold back stores to the ranges of R241 until they have completed (R266). -/
def startActive (num : Nat) (r : Record) (x : TileStart) (fills : Bool) : Active :=
  let hdr := headerAddress r
  { Active.start num r with
    header := some x.header, basins := x.basins
    tile := if x.into.isEmpty then none else some (TileRead.start num hdr x.header x.into)
    fills := if fills then (hdr, 64) :: x.header.ranges else [] }

/-- What has been read is in the basins that waited for it. -/
def placeTile (s : State) (c : Fin 256) (t : Task) (num : Nat) (x : TileRead) (tile : Tile) : State :=
  let s := x.into.foldl (fun s p =>
    setBasin s c p.2 (filledBasin s t.vale x.hdr x.header p.1 tile .reserved [num])) s
  startFills c 2 (setMatrix s c num fun a => { a with tile := none })

/-- The fills of a record go on: its tile is read, basins whose contents are there are filled (R242). -/
def fillOn (s : State) (c : Fin 256) (t : Task) (a : Active) : State :=
  match a.tile with
  | none => startFills c 2 s
  | some x =>
    match tileRun s c t 3 x with
    | .fault s e => matrixFault s c a.num e
    | .on s x =>
      if !x.words.isEmpty then setMatrix s c a.num fun a => { a with tile := some x }
      else match x.tile 3 with
        | .error e => matrixFault s c a.num e
        | .ok tile => placeTile s c t a.num x tile

/-- The basins of replica `j`, in slice order (R265). -/
def replicaBasins (k : Core) (a : Active) (S j : Nat) : List Basin :=
  (List.range S).filterMap fun x => (((a.basins.filter fun p => decide (p.1 = x)).map Prod.snd)[j]?).map fun b => k.basins[b]

/-- The replicas that a record uses. -/
def replicaList (k : Core) (a : Active) (S : Nat) : List (List Basin) :=
  (List.range (a.basins.filter fun p => decide (p.1 = 0)).length).map (replicaBasins k a S)

/-- An earlier record of the engine has still to compute its products: products are formed in enqueue order (R246). -/
def computesBefore (k : Core) (num : Nat) : Bool :=
  (k.eng 2).active.any fun a => decide (a.num < num) && decide (a.r.op = 0x11) && a.outs.isEmpty

/-- An active matrix record of the OP given, of a core with a task: its fills go on, then it does its own work. -/
def matrixStep (c : Fin 256) (n op : Nat) (f : State → Task → Active → Header → State) (s : State) : Out :=
  match getActive s c 2 n, (s.core c).task with
  | some a, some t =>
    .next (if a.r.op ≠ op ∨ a.ready = true then s
      else match a.header with
        | none => s
        | some h => if stillFilling (s.core c) n then fillOn s c t a else f s t a h)
  | _, _ => .next s

/-- WFILL (R253): its tile is resident. -/
def execWfill (c : Fin 256) (n : Nat) (s : State) : Out :=
  matrixStep c n 0x10 (fun s _ _ _ => setMatrix s c n fun a => { a with ready := true }) s

/-- MMA (R250): once its basins are filled, its products, all before its first row lands: where a row of A faults, none lands (log
74); the rows of A, with the scales they consume, are judged before the bias (log 87). -/
def execMma (c : Fin 256) (n : Nat) (s : State) : Out :=
  matrixStep c n 0x11 (fun s t a h =>
    match a.r.pattern 0 with
    | none => s
    | some p =>
      if !a.outs.isEmpty || computesBefore (s.core c) n then s
      else
        let q := productRows s c t a.r h (replicaList (s.core c) a h.s) p (List.range (mmaRows p)) (s.core c).scales
        let s := s.setCore c { s.core c with scales := q.scales }
        match q.fault, mmaBias s c t a.r with
        | some e, _ => matrixFault s c n e
        | none, .error e => matrixFault s c n e
        | none, .ok bias => setMatrix s c n fun a => { a with outs := q.rows, bias := bias }) s

/-- MTHR (R252). -/
def execMthr (c : Fin 256) (n : Nat) (s : State) : Out :=
  matrixStep c n 0x12 (fun s t a h =>
    if !a.outs.isEmpty then s
    else match mthrRows s c t a.r h (replicaList (s.core c) a 1) with
      | .error e => matrixFault s c n e
      | .ok rows => setMatrix s c n fun a => { a with outs := rows }) s

/-- FILL_COMPLETE: the basin is valid, and the next fill of the core may start; a record whose last fill this was holds back no store
any more (R242, R266). -/
def execFillComplete (c : Fin 256) (b : Fin 32) (s : State) : Out :=
  let x : Basin := (s.core c).basins[b]
  if x.st = .filling then
    let s := startFills c 2 { becomeValid s c b with stalled := false }
    .next (x.holder.foldl (fun s num =>
      if stillFilling (s.core c) num then s else setMatrix s c num fun a => { a with fills := [] }) s)
  else .next s

/-! ## Landing (R250, R251) -/

/-- Rounding 2, on one part `j` of an element (R250). -/
def accumulate (r : Record) (m n j w : Nat) (y old bias : Nat) : Nat :=
  let ot := mOTYPE r
  let val (x : Nat) : FVal := if ot < 8 then FVal.ofInt (intVal ot x) else (fmtOf ot).value x
  let part (x : Nat) : Nat := x / 2 ^ (w * j) % 2 ^ w
  let v := val (part y)
  let v := if mACC r then FVal.add v (val (part old)) else v
  let v := if mBIAS r then FVal.add v (val (part bias)) else v
  mmaRound r (64 * m + n) (2 * j + 1) v

/-- The greater of two elements (R147, R153). -/
def elementMax (ot a b : Nat) : Nat :=
  if ot < 8 then (if intVal ot a ≤ intVal ot b then b else a)
  else (fmtOf ot).round .rne (FVal.max ((fmtOf ot).value a) ((fmtOf ot).value b))

/-- The lesser of two elements. -/
def elementMin (ot a b : Nat) : Nat :=
  if ot < 8 then (if intVal ot a ≤ intVal ot b then a else b)
  else (fmtOf ot).round .rne (FVal.min ((fmtOf ot).value a) ((fmtOf ot).value b))

/-- The element is NaN. -/
def elementNan (ot x : Nat) : Bool := decide (8 ≤ ot) && ((fmtOf ot).value x).isNan

/-- LO or HI in OTYPE (R250). -/
def bound (ot : Nat) (i : Int) : Nat := if ot < 8 then intBits ot false i else (fmtOf ot).round .rne (FVal.ofInt i)

/-- Row m's element n after ACC, BIAS and ACT. -/
def finishElement (r : Record) (m n y old bias : Nat) : Nat :=
  let ot := mOTYPE r
  let y := if !mACC r && !mBIAS r then y
    else if complexTile ot then
      let w := typeWidth ot / 2
      joinParts ot (accumulate r m n 0 w y old bias) (accumulate r m n 1 w y old bias)
    else accumulate r m n 0 (typeWidth ot) y old bias
  if mACT r = 0 || elementNan ot y then y
  else if mACT r = 1 then elementMax ot y 0
  else elementMin ot (elementMax ot y (bound ot (mLO r))) (bound ot (mHI r))

/-- The ρ rows from `row` on as one number (R251). -/
def rowString (l : LaneSlice) (row n : Nat) : Nat :=
  packLanes 2048 ((List.range n).map fun i => (l.rows[(BitVec.ofNat 8 (row + i)).toFin]).toNat)

/-- Write the ρ rows whole; they are full (R134, R251). -/
def putRows (l : LaneSlice) (row n v : Nat) : LaneSlice :=
  (List.range n).foldl (fun l i =>
    let k := (BitVec.ofNat 8 (row + i)).toFin
    { l with rows := l.rows.set k (BitVec.ofNat 2048 (v / 2 ^ (2048 * i)))
             full := l.full ||| BitVec.ofNat 256 (2 ^ k.val) }) l

/-- Output row `p` of an MMA in its accumulator rows. -/
def landMma (l : LaneSlice) (a : Active) (p : Nat) : LaneSlice :=
  let r := a.r
  let ot := mOTYPE r
  let w := typeWidth ot
  let n := rho ot
  let row := outRow r p
  let first := if mCOLOFF r then nout ot else 0
  let str := rowString l row n
  let el (m j : Nat) : Nat :=
    finishElement r m j ((a.outs.getD m []).getD j 0).toNat (str / 2 ^ (w * (first + j)) % 2 ^ w) ((a.bias.getD j 0).toNat)
  let N := (a.outs.headD []).length
  let new := (List.range N).foldl (fun v j =>
    let x := if mPOOL r then elementMax ot (el (2 * p) j) (el (2 * p + 1) j) else el p j
    let at_ := 2 ^ (w * (first + j))
    v - v / at_ % 2 ^ w * at_ + x * at_) str
  putRows l row n new

/-- ROW_LANDING: the next row of the oldest record of the engine in turn that has rows to land (R254); one whose basin is being filled
again after an error waits for that (R312). -/
def execRowLanding (s : State) : Out :=
  match engineInTurn s with
  | none => .next s
  | some (c, e) =>
    let k := s.core c
    match (k.eng e).active.find? fun a => decide (a.r.op ≠ 0x10) && !a.ready with
    | none => .next s
    | some a =>
      if e ≠ 2 ∨ a.outs.isEmpty = true ∨ outCount a.r ≤ a.landed ∨ stillFilling k a.num then .next s
      else
        let l := if a.r.op = 0x11 then landMma k.lane a a.landed
          else putRows k.lane (bits a.r.aux 11 4 + a.landed) 1
            (packLanes 128 ((a.outs.getD a.landed []).map BitVec.toNat))
        let s := s.setCore c { k with lane := l }
        .next (setMatrix s c a.num fun a =>
          { a with landed := a.landed + 1, ready := decide (outCount a.r ≤ a.landed + 1) })

/-! ## Completion (R241, R254) -/

/-- A record gives up its basins; a stale one that nobody holds becomes invalid. -/
def releaseBasins (s : State) (c : Fin 256) (num : Nat) : State :=
  let k := s.core c
  let s := s.setCore c { k with basins := k.basins.map fun b => { b with holder := b.holder.filter fun h => !decide (h = num) } }
  (List.finRange 32).foldl (fun s b =>
    let x : Basin := (s.core c).basins[b]
    if x.st = .stale && x.holder.isEmpty then invalidate s c b else s) s

/-- The bytes that a matrix record adds to its barrier (R254). -/
def matrixBytes (a : Active) : Nat :=
  match a.r.op, a.header with
  | 0x10, some h => 8192 * (wfillSlices a.r h.s).length
  | 0x11, _ => 256 * rho (mOTYPE a.r) * outCount a.r
  | _, _ => 256 * outCount a.r

/-- MATRIX_RECORD_COMPLETE: the oldest record of the engine in turn whose rows have landed, or whose tile is resident. -/
def execMatrixRecordComplete (s : State) : Out :=
  match engineInTurn s with
  | none => .next s
  | some (c, e) =>
    match ((s.core c).eng e).active.find? (·.ready) with
    | some a =>
      if e = 2 && !stillFilling (s.core c) a.num then
        .next (completeRecord (releaseBasins s c a.num) c e a.num (matrixBytes a) 216)
      else .next s
    | none => .next s

/-! ## Parity (R312) -/

/-- The basins that can fill again basin `x` of a record: the record's own replicas, stale ones as well, then any valid one, unless the
record's basins of the tile have turned stale (R262). -/
def refillFrom (k : Core) (num : Nat) (x : Basin) : List (Fin 32) :=
  ((List.finRange 32).filter fun o =>
    let y := k.basins[o]
    y.tagged && y.holder.contains num && decide (y.asid = x.asid) && decide (y.hdr = x.hdr) && decide (y.slice = x.slice)) ++
  (if oldVersion k x then [] else validBasins k x.asid x.hdr x.slice)

/-- The basin is filled again for the record that holds it: from another replica, or from memory (R312). -/
def refillBasin (s : State) (c : Fin 256) (num : Nat) (b : Fin 32) (x : Basin) : State :=
  let fills := (x.hdr, 64) :: x.header.ranges
  match (refillFrom (s.core c) num x).head? with
  | some o =>
    let s := setBasin s c b (replicaOf (s.core c).basins[o] [num])
    startFills c 2 (setMatrix s c num fun a => { a with retried := true, fills := fills })
  | none =>
    let s := setBasin s c b (blankBasin x.asid x.hdr x.header x.slice [num])
    setMatrix s c num fun a =>
      { a with retried := true, fills := fills, tile := some (TileRead.start num x.hdr x.header [(x.slice, b)]) }

/-- BASIN_PARITY_ERROR: a basin that a record drives. The basin is invalid; the record refills it once, and a second error is raised
against the record. So is the first where the tile has been written since the record began and no replica is left: what memory holds is
of another version, which R262 forbids to the record (log 79). While a store to the tile is out at a peer the refill of one without a
replica is not due (R262). -/
def execBasinParityError (c : Fin 256) (b : Fin 32) (s : State) : Out :=
  let x : Basin := (s.core c).basins[b]
  match x.holder with
  | num :: _ =>
    match getActive s c 2 num with
    | some a =>
      if !x.tagged || a.r.op = 0x10 || a.ready || a.tile.isSome then .next s
      else
        let lost (s : State) : State := noteShadow (setBasin s c b Basin.zero) c b none
        let alone := (refillFrom ((lost s).core c) num x).isEmpty
        if !a.retried && alone && sentMeets (s.core c) ((x.hdr, 64) :: x.header.ranges) then .next s
        else if a.retried || alone && (decide (x.st = .stale) || oldVersion ((lost s).core c) x) then
          .next (matrixFault (lost s) c num ⟨377, a.r.tval⟩)
        else .next (refillBasin (lost (logError s c 376)) c num b x)
    | none => .next s
  | [] => .next s

end Sys2Proof.Machine
end

