-- ==== Sys2Proof/Machine/Collectives.lean ====
section
/-! DEFINITION. Machine/Collectives.lean: collectives (R325 to R327), and how an engine begins a record (R75, R215, R246, R254). -/
namespace Sys2Proof.Machine

/-! ## Fields (R325) -/

/-- KIND, TYPE, ROP, GROUP, ROOT of a record's FLAGS and AUX. -/
def collKind (flags : Nat) : Nat := bits flags 3 0
def collType (flags : Nat) : Nat := bits flags 7 4
def collRop (flags : Nat) : Nat := bits flags 9 8
def collGroup (aux : Nat) : Fin 64 := (BitVec.ofNat 6 aux).toFin
def collRoot (aux : Nat) : Nat := bits aux 15 6

/-- SIZE, RANK of GRP_CFG (R323). -/
def grpSize (cfg : Word) : Nat := (cfg.extractLsb' 32 11).toNat
def grpRank (cfg : Word) : Nat := (cfg.extractLsb' 0 10).toNat

/-- The first cause of a COLL that its fields alone show (R325). -/
def checkColl (r : Record) : Option Nat :=
  let kind := collKind r.flags
  let ty := collType r.flags
  let window (k : Fin 4) : Bool := match r.pattern k with
    | some p => decide (topByte p.base = 0) || decide (topByte p.base = 2)
    | none => true
  firstCause
    [(decide (3 ≤ kind), 16),
     (decide (1024 ≤ r.flags) || decide (r.aux / 2 ^ 16 ≠ 0) || (decide (kind ≠ 1) && decide (collRoot r.aux ≠ 0)) ||
        r.has 2 || r.has 3 || opfNonzero r 1, 17),
     (decide (kind = 0) && !([2, 3, 6, 7, 9, 10, 11].contains ty), 18),
     ((decide (kind = 0) && decide (collRop r.flags = 3) && decide (8 ≤ ty)) ||
        (decide (kind ≠ 0) && decide (collRop r.flags ≠ 0)), 23),
     (!window 0 || !window 1 || !r.has 1 || (decide (kind ≠ 1) && !r.has 0) || decide (2 ^ 32 ≤ r.count 0) ||
        (decide (kind ≠ 2) && decide (2 ^ 32 ≤ r.count 1)), 20)]

/-- What the group's registers still show: the vale, the root, the counts (R325). -/
def checkGroup (r : Record) (v : Fin 16) (cfg : Word) : Option Nat :=
  let kind := collKind r.flags
  let root := decide (collRoot r.aux = grpRank cfg)
  let n := r.count 0
  firstCause
    [(!cfg.getLsbD 63 || decide ((cfg.extractLsb' 56 4).toFin ≠ v) || decide (grpSize cfg < 1) || decide (1024 < grpSize cfg) ||
        decide (grpSize cfg ≤ grpRank cfg), 308),
     ((decide (kind = 0) && decide (r.count 1 ≠ n)) ||
        (decide (kind = 1) && (decide (grpSize cfg ≤ collRoot r.aux) || decide (r.has 0 ≠ root) || (root && decide (r.count 1 ≠ n)))) ||
        (decide (kind = 2) && decide (r.count 1 ≠ grpSize cfg * n)), 20)]

/-! ## Data -/

/-- The elements of a collective record are read, or written, at once (log 52). -/
def atOnce {α : Type} (f : State → CopyRes α) (s : State) : CopyRes α :=
  let back (t : State) : State := { t with split := s.split }
  match f { s with split := false } with
  | .ok t x => .ok (back t) x
  | .pause t => .pause (back t)
  | .fault t code => .fault (back t) code
  | .poison t va => .poison (back t) va

/-- Read the elements of a pattern in visit order, from number `i` on. -/
def collRead (g : Agency) (p : Pattern) (w : Nat) : Nat → Nat → State → CopyRes (List Byte)
  | _, 0, s => .ok s []
  | i, k + 1, s =>
    if topByte (p.elem i) = 1 then .fault s 20
    else
      (fetchElem g s 1 (p.elem i) w 0).bind fun s x =>
        (collRead g p w (i + 1) k s).bind fun s bs => .ok s (x.1 ++ bs)

/-- Write the elements of a pattern in visit order. -/
def collWrite (g : Agency) (p : Pattern) : Nat → List (List Byte) → State → CopyRes Unit
  | _, [], s => .ok s ()
  | i, bs :: rest, s =>
    if topByte (p.elem i) = 1 then .fault s 20
    else (storeElem g s (p.elem i) bs).bind fun s _ => collWrite g p (i + 1) rest s

/-- Combine two elements of an ALLREDUCE (R325, R326): each float add rounds once under RNE. -/
def collCombine (flags a b : Nat) : Nat :=
  let ty := collType flags
  match collRop flags with
  | 0 =>
    if ty < 8 then (a + b) % 2 ^ typeWidth ty
    else (fmtOf ty).round .rne (FVal.add ((fmtOf ty).value a) ((fmtOf ty).value b))
  | 1 => elementMin ty a b
  | 2 => elementMax ty a b
  | _ => a ||| b

/-- Combine values by a binary tree; `pick` chooses which two values meet at node `j` (R326). -/
def combineTree (f : Nat → Nat → Nat) (pick : Nat → Nat) : Nat → Nat → List Nat → Nat
  | 0, _, l => l.headD 0
  | fuel + 1, j, l =>
    if l.length ≤ 1 then l.headD 0
    else
      let i := pick (2 * j) % l.length
      let rest := l.eraseIdx i
      let i' := pick (2 * j + 1) % rest.length
      combineTree f pick fuel (j + 1) (f (l.getD i 0) (rest.getD i' 0) :: rest.eraseIdx i')

/-- Bytes as elements of `w` bytes. -/
def elementsOf (w : Nat) (bs : List Byte) : List (List Byte) := chunks w (bs.length / w) bs

/-- What a member's destination receives, from every member's bytes in rank order (R326); the n-th step chooses the trees. -/
def collResult (n flags aux : Nat) (all : List (List Byte)) : List Byte :=
  let w := typeBytes (collType flags)
  match collKind flags with
  | 0 =>
    let cols := all.map fun bs => (elementsOf w bs).map ofBytes
    ((List.range ((all.headD []).length / w)).map fun k =>
      toBytes w (combineTree (collCombine flags) (fun j => Config.choose n (j * 2 ^ 32 + k)) all.length 0
        (cols.map fun l => l.getD k 0))).flatten
  | 1 => all.getD (collRoot aux) []
  | _ => all.flatten

/-- The result reaches the record's destination and the record completes, or it faults (R327). -/
def collDeliver (s : State) (c : Fin 256) (num : Nat) (res : List Byte) : State :=
  match getActive s c 3 num, (s.core c).task with
  | some a, some t =>
    let w := typeBytes (collType a.r.flags)
    match atOnce (collWrite (agencyOf c 3 t a) (a.r.side 1) 0 (elementsOf w res)) s with
    | .ok s () => completeRecord s c 3 num (a.r.count 1 * w) 208
    | .pause s => s
    | .fault s code => copyFault s c 3 num code
    | .poison s va => copyPoison s c 3 num va
  | _, _ => s

/-- Change a group. -/
def setColl (s : State) (g : Fin 64) (x : Coll) : State := setHub s { s.hub with colls := s.hub.colls.set g x }

/-- The record joins the exchange with its source bytes (R326); its vale is the one that the collective engine served last. -/
def collJoin (s : State) (c : Fin 256) (t : Task) (a : Active) (seq : BitVec 32) : State :=
  let w := typeBytes (collType a.r.flags)
  let g := collGroup a.r.aux
  match (match a.r.pattern 0 with
    | some p => atOnce (collRead (agencyOf c 3 t a) p w 0 p.size) s
    | none => .ok s []) with
  | .ok s data =>
    let j : Joined := { seq := seq, core := c, num := a.num, flags := a.r.flags, aux := a.r.aux, data := data }
    let s := setColl s g { s.hub.colls[g] with pend := some j }
    { s with stalled := false, hub := { s.hub with lastColl := t.vale } }
  | .pause s => s
  | .fault s code => copyFault s c 3 a.num code
  | .poison s va => copyPoison s c 3 a.num va

/-- SEQ of a record. -/
def collSeq (r : Record) : BitVec 32 := BitVec.ofNat 32 (r.opf 0)

/-- A core of vale `v` has a begun COLL whose group has no record of this device in its exchange (R47). -/
def collAsks (s : State) (v : Fin 16) : Bool :=
  s.cores.toList.any fun k => (match k.task with
    | some t => decide (t.vale = v)
    | none => false) &&
    (k.eng 3).active.any fun a => decide (a.r.op = 0x20) && (s.hub.colls[collGroup a.r.aux]).pend.isNone

/-- What a COLL meets in its group: it joins, receives the last result again, waits for the exchange, or its SEQ does not fit
(R326). -/
inductive CollTurn where
  | join
  | again (res : List Byte)
  | wait
  | wrong
  deriving DecidableEq, Repr

/-- SEQ against the group's last one, this member's record in the exchange and another member's (R326). -/
def collTurn (x : Coll) (seq : BitVec 32) : CollTurn :=
  let fresh : CollTurn := match x.pend with
    | some p => if p.seq = seq then .wait else .wrong
    | none => match x.other with
      | some q => if q = seq then .join else .wrong
      | none => .join
  match x.last with
  | some (last, res) => if seq = last then .again res else if seq ≠ last + 1 then .wrong else fresh
  | none => fresh

/-- COLL: the record joins the exchange of its group and SEQ when the collective engine serves its vale (R47), receives its last
result again, or raises 308 (R326). -/
def execColl (s : State) : Out :=
  match engineInTurn s with
  | none => .next s
  | some (c, e) =>
    match ((s.core c).eng e).head, (s.core c).task with
    | some a, some t =>
      if a.r.op ≠ 0x20 ∨ e ≠ 3 then .next s
      else
        let g := collGroup a.r.aux
        match checkGroup a.r t.vale s.hub.grpCfg[g] with
        | some code => .next (copyFault s c 3 a.num code)
        | none => .next (match collTurn s.hub.colls[g] (collSeq a.r) with
          | .again res => collDeliver s c a.num res
          | .wrong => copyFault s c 3 a.num 308
          | .wait => s
          | .join => if arbitrates s (collAsks s) s.hub.lastColl t.vale then collJoin s c t a (collSeq a.r) else s)
    | _, _ => .next s

/-- Another member's record joins the exchange of a group, if its SEQ fits there (R326). -/
def otherJoins (s : State) (g : Fin 64) (seq : BitVec 32) : State :=
  let x := s.hub.colls[g]
  match collTurn { x with pend := none } seq, x.pend with
  | .join, none => setColl s g { x with other := some seq }
  | .join, some p => if p.seq = seq then setColl s g { x with other := some seq } else s
  | _, _ => s

/-- COLL_EXCHANGE_COMPLETE of group `g`, which a record of this device has joined: `others` are the bytes that the other members
bring, in rank order (R326, R327). A discarded member's exchange completes as well; its writes are dropped (R307). -/
def execCollExchangeComplete (g : Fin 64) (others : List (List Byte)) (s : State) : Out :=
  match (s.hub.colls[g]).pend with
  | none => .next s
  | some p =>
    let cfg := s.hub.grpCfg[g]
    let all := others.take (grpRank cfg) ++ [p.data] ++ others.drop (grpRank cfg)
    let root := all.getD (collRoot p.aux) []
    let fits := if collKind p.flags = 1 then decide (root.length % typeBytes (collType p.flags) = 0)
      else others.all fun o => decide (o.length = p.data.length)
    if others.length + 1 ≠ grpSize cfg ∨ fits = false then .next s
    else
      let res := collResult s.ticks p.flags p.aux all
      let s := setColl s g { last := some (p.seq, res), pend := none, other := none }
      .next (collDeliver { s with stalled := false } p.core p.num res)

/-! ## Beginning a record (R75, R215, R246, R254) -/

/-- How many records an engine has active at once: the matrix engine 8, the others one (R254); a copy channel begins no record before
its previous one has completed (log 71). -/
def engineRoom (e : Fin 4) : Nat := if e = 2 then 8 else 1

/-- The stores that precede the record's ENQ in program order have been performed (R215, R254). -/
def storesBefore (k : Core) (r : Record) : Bool := !(k.ls.sq.any fun e => decide (e.id < r.after) && (match e.kind with
  | .store .. | .amo .. | .cas .. => true
  | _ => false))

/-- Records begin unless a capture is in progress (R310). -/
def mayBegin (k : Core) : Bool :=
  decide (k.stop ≠ some .capture) && (match k.run with
    | .running | .trapped | .stopping => true
    | _ => false)

/-- The first cause of a record at the head of its queue (R75). -/
def checkRecord (r : Record) : Option Nat :=
  if r.op ≤ 6 then checkCopy r else if r.op = 0x20 then checkColl r else checkMatrix r

/-- The scales that a record loads at its begin: 221 where they do not fit, and nothing is loaded (R246). -/
def loadScales (s : State) (c : Fin 256) (t : Task) (r : Record) : Except TileFault (List (BitVec 32)) :=
  let have_ := (s.core c).scales
  if r.op = 0x11 then
    match r.pattern 2 with
    | some p =>
      if 256 < have_.length + r.opf 3 then .error ⟨221, 0⟩
      else (engElems s c t p 1 1 0 (4 * r.opf 3)).map fun bs =>
        have_ ++ (chunks 4 (r.opf 3) bs.flatten).map fun e => BitVec.ofNat 32 (ofBytes e)
    | none => .ok have_
  else .ok have_

/-- The head of the queue of engine `e` is active from now on, as `a`. -/
def beginAs (s : State) (c : Fin 256) (e : Fin 4) (rest : List Record) (a : Active) : State :=
  let k := s.core c
  let x := k.eng e
  let k := k.setEng e { x with queue := rest, active := x.active ++ [a], waiting := none }
  { s.setCore c { k with recSeq := a.num + 1 } with stalled := false }

/-- From the begin of a CPYBULK on no reservation has been withdrawn since the last one, whether or not it faults (R225). -/
def newBulk (s : State) (c : Fin 256) (e : Fin 4) (r : Record) : State :=
  if r.op = 3 then setEngine s c e fun x => { x with withdrawn := false } else s

/-- A CPYBULK begins once its channel holds the bank of its first row; until then it waits in the queue (R118, R224). -/
def beginBulk (s : State) (c : Fin 256) (e : Fin 4) (t : Task) (r : Record) (rest : List Record) (num : Nat) : State :=
  let begun := beginAs s c e rest (Active.start num r)
  match bulkStart s c e t r with
  | .hold => s
  | .wait b => waitForBank s c e b
  | .fault code => copyFault (bulkWalked (newBulk begun c e r) t r 0) c e num code
  | .go => setEngine (newBulk begun c e r) c e fun x => { x with lastBulk := s.now.toNat }

/-- A matrix record begins: its scales are loaded, its header is read and its basins are held, all at this instant, and a cause of the
scales comes before one of the header (log 86); while its basins are not available it waits in the queue (R118, R242 to R246, R254). -/
def beginMatrix (s : State) (c : Fin 256) (t : Task) (r : Record) (rest : List Record) (num : Nat) : State :=
  let plain := Active.start num r
  match loadScales s c t r with
  | .error e => matrixFault (beginAs s c 2 rest plain) c num e
  | .ok q =>
    let load (s : State) : State := s.setCore c { s.core c with scales := q }
    match beginTile s c t r num with
    | .wait => s
    | .fault s e => matrixFault (load (beginAs s c 2 rest plain)) c num e
    | .got s x => startFills c 2 (load (beginAs s c 2 rest (startActive num r x (stillFilling (s.core c) num))))

/-- RECORD_BEGIN: the record at the head of the queue of the engine in turn begins: its fields are checked, and it makes its first
access (R75, R118). -/
def execRecordBegin (s : State) : Out :=
  match engineInTurn s with
  | none => .next s
  | some (c, e) =>
    let k := s.core c
    let x := k.eng e
    match x.queue, k.task with
    | r :: rest, some t =>
      if engineRoom e ≤ x.active.length ∨ storesBefore k r = false ∨ mayBegin k = false then .next s
      else
        let num := k.recSeq
        let begun := beginAs s c e rest (Active.start num r)
        .next (match checkRecord r with
          | some code => latchFault (newBulk begun c e r) c e num (BitVec.ofNat 9 code) r.tval
          | none =>
            if r.op = 3 then beginBulk s c e t r rest num
            else if 0x10 ≤ r.op ∧ r.op ≤ 0x12 then beginMatrix s c t r rest num
            else begun)
    | _, _ => .next s

end Sys2Proof.Machine
end

