-- ==== Sys2Proof/Machine/BankUnits.lean ====
section
/-! DEFINITION. Machine/BankUnits.lean: the bank units (R280 to R291): commands, runs, bank operations, completion. -/
namespace Sys2Proof.Machine

/-! ## Commands (R281, R283) -/

/-- Fields of W0, W2 and W5. -/
def BankCmd.w (x : BankCmd) (i : Fin 6) : Nat := (x.words[i]).toNat
def BankCmd.cmd (x : BankCmd) : Nat := bits (x.w 0) 7 0
def BankCmd.h (x : BankCmd) : Fin 16 := (BitVec.ofNat 4 (bits (x.w 0) 11 8)).toFin
def BankCmd.mask (x : BankCmd) : Nat := bits (x.w 0) 63 32
def BankCmd.base (x : BankCmd) : Nat := x.w 1
def BankCmd.len (x : BankCmd) : Nat := bits (x.w 2) 31 0
def BankCmd.ctype (x : BankCmd) : Nat := bits (x.w 2) 35 32
def BankCmd.cop (x : BankCmd) : Nat := bits (x.w 2) 37 36
def BankCmd.bar (x : BankCmd) : Nat := bits (x.w 5) 20 0
def BankCmd.ben (x : BankCmd) : Bool := bit (x.w 5) 31
def BankCmd.stat (x : BankCmd) : Nat := bits (x.w 5) 52 32

/-- 258: the packet breaks R281. -/
def badFormat (x : BankCmd) : Bool :=
  decide (x.cmd ≠ 1 ∧ x.cmd ≠ 2) || decide (bits (x.w 0) 31 12 ≠ 0) || decide (bits (x.w 2) 63 38 ≠ 0) ||
  decide (bits (x.w 5) 30 21 ≠ 0) || decide (bits (x.w 5) 63 53 ≠ 0) ||
  (if x.cmd = 2 then decide (x.mask ≠ 0) || decide (x.w 2 ≠ 0) || decide (x.w 3 ≠ 0) || decide (x.w 4 ≠ 0)
   else decide (x.mask = 0) || decide (x.len = 0) || decide (2 ^ 21 < x.len) ||
     !([3, 7, 10, 11].contains x.ctype) || (decide (x.cop = 3) && decide (8 ≤ x.ctype)))

/-- 256: the operand or the slot cannot be reached (R283, R342), or the vale no longer owns the channel (R57). -/
def badRange (s : State) (ch : Fin 512) (x : BankCmd) : Bool :=
  !keyed s x.vale || !(s.vale x.vale).channels.getLsbD ch || (match x.pa with
    | none => true
    | some (pa, cc) =>
      if x.cmd = 2 then decide (x.base % 256 ≠ 0) || !ownsPa s x.vale pa
      else !cc || decide (channelOf pa ≠ ch.val) || decide (x.base / 2 ^ 21 ≠ (x.base + x.len - 1) / 2 ^ 21))

/-- The status with which the channel rejects a command before it runs, or 0 (R283). -/
def rejectStatus (s : State) (ch : Fin 512) (x : BankCmd) : Nat :=
  if badFormat x then 258
  else if badRange s ch x then 256
  else if x.cmd = 1 ∧ ((s.chan ch).handlers[x.h]).isNone = true then 257
  else 0

/-- The run of one bank at its start (R284). -/
def startRun (x : BankCmd) (b : Fin 32) : BankRun :=
  { bank := b, pc := 0, belt := Vector.replicate 16 0,
    n := Vector.ofFn fun k : Fin 16 => match k.val with
      | 0 => x.words[3]
      | 1 => x.words[4]
      | 2 => BitVec.ofNat 64 b.val
      | 3 => BitVec.ofNat 64 (x.base % 2 ^ 21)
      | 4 => BitVec.ofNat 64 x.len
      | _ => 0
    finished := false }

/-- The runs of a command, lowest bank first. -/
def startRuns (x : BankCmd) : List BankRun := ((List.finRange 32).filter fun b => x.mask.testBit b.val).map (startRun x)

/-- The command at the head of the channel's FIFO, if the channel serves none (R283). -/
def nextBank (s : State) (ch : Fin 512) : Option (BankCmd × List BankCmd) :=
  match (s.chan ch).serving, (s.chan ch).fifo with
  | none, x :: rest => some (x, rest)
  | _, _ => none

/-- The channel serves a command from now on; its runs issue the words that the entry holds now (R284). -/
def serveBank (s : State) (ch : Fin 512) (x : BankCmd) (rest : List BankCmd) (status : Nat) (runs : List BankRun) : State :=
  let code := ((s.chan ch).handlers[x.h]).getD []
  { s.setChan ch { s.chan ch with
      fifo := rest
      serving := some
        { cmd := x, code := code, status := BitVec.ofNat 32 status, runs := runs, combiner := none, ended := 0 } } with
    stalled := false }

/-- RUN: rejected, or a run in every named bank (R283, R284). A packet of no CMD is rejected here. -/
def execRun (ch : Fin 512) (s : State) : Out :=
  match nextBank s ch with
  | some (x, rest) =>
    if x.cmd = 2 then .next s
    else
      let status := rejectStatus s ch x
      .next (serveBank s ch x rest status (if status = 0 then startRuns x else []))
  | none => .next s

/-- INSTALL (R285): it reads its slot as a `.nc` load does, and is not due while a copy channel holds the slot's bank (R224). -/
def execInstall (ch : Fin 512) (s : State) : Out :=
  match nextBank s ch with
  | some (x, rest) =>
    if x.cmd ≠ 2 then .next s
    else
      let status := rejectStatus s ch x
      if status ≠ 0 then .next (serveBank s ch x rest status [])
      else
        let pa := (x.pa.getD (0, false)).1
        if bankBlocks s x.vale none pa || bankBlocks s x.vale none (pa + 128) then .next s
        else
        let s := recallRange s none pa 256
        let ws := slotWords (valeRead s x.vale pa 256)
        let entry := if ws.all fun w => decide (w = 0) then some none
          else if handlerSlotOk ws then some (some ws) else none
        match entry with
        | none => .next (serveBank s ch x rest 5 [])
        | some h =>
          let y := s.chan ch
          .next (serveBank (s.setChan ch { y with handlers := y.handlers.set x.h h }) ch x rest 0 [])
  | none => .next s

/-! ## Bank operations (R280, R286) -/

/-- The page offset of a bank-local offset (R280). -/
def pageOffset (b : Fin 32) (o : Nat) : Nat := o / 2 ^ 10 % 2 ^ 6 * 2 ^ 15 + b.val * 2 ^ 10 + o % 2 ^ 10

/-- The check of R286 for `n` bytes at offset `off`: the page offset, or nothing for a run fault. -/
def bankCheck (x : BankCmd) (b : Fin 32) (off n : Nat) : Option Nat :=
  let p := pageOffset b off
  let lo := x.base % 2 ^ 21
  if off < 2 ^ 16 ∧ off % n = 0 ∧ lo ≤ p ∧ p + n ≤ lo + x.len then some p else none

/-- The physical address of a page offset of the command's page. -/
def bankAddress (x : BankCmd) (p : Nat) : Nat := (x.pa.getD (0, false)).1 / 2 ^ 21 * 2 ^ 21 + p

/-- The handler word that a run is to issue. -/
def handlerWord (sv : Serve) (run : BankRun) : BitVec 32 := sv.code.getD run.pc 0

/-- A run ends, with a status where it faulted: the first fault in time is the command's status (R286, R288). -/
def endRun (s : State) (ch : Fin 512) (r : Nat) (sv : Serve) (run : BankRun) (fault : Bool) : State :=
  let sv := { sv with ended := sv.ended + 1, status := if fault && decide (sv.status = 0) then 260 else sv.status }
  setRun s ch r sv { run with finished := true }

/-- What a bank operation comes to: a result or none, a run fault, or a wait for a bulk reservation (R290). -/
inductive BankRes where
  | value (s : State) (v : Word)
  | done (s : State)
  | fault
  | wait

/-- A bank operation of the run in turn: its word issues, and a result is written as R77 gives. -/
def bankStep (d : BitVec 5) (f : State → Fin 512 → Serve → BankRun → BankRes) (s : State) : Out :=
  match runInTurn s with
  | none => .next s
  | some (ch, r, sv, run) =>
    let put (s : State) (run : BankRun) : State :=
      match (s.chan ch).serving with
      | some sv => { setRun s ch r sv { run with pc := run.pc + 1 } with stalled := false }
      | none => s
    match f s ch sv run with
    | .value s v => .next (put s (runWrite run d v))
    | .done s => .next (put s run)
    | .fault => .next { endRun s ch r sv run true with stalled := false }
    | .wait => .next s.waiting

/-- A write of a run to a page of an image that is loaded or loading is a run fault (R15, R17; log 39). -/
def bankDenied (s : State) (x : BankCmd) (p : Nat) : Bool := inImage (s.vale x.vale) (x.base / 2 ^ 21 * 2 ^ 21 + p)

/-- The channel controller serves the accesses of the command's vale: the vale is keyed and owns the channel (R57, R68, R342). -/
def bankServed (s : State) (x : BankCmd) : Bool := keyed s x.vale && ownsPa s x.vale (bankAddress x 0)

/-- An access of `n` bytes at the offset in a source (R286, R290, R342). -/
def bankAccess (s : State) (sv : Serve) (run : BankRun) (off n : Nat) (write : Bool) (f : Nat → BankRes) : BankRes :=
  match bankCheck sv.cmd run.bank off n with
  | none => .fault
  | some p =>
    let pa := bankAddress sv.cmd p
    if !bankServed s sv.cmd || (write && bankDenied s sv.cmd p) then .fault
    else if bankHeld s none (bankOf pa) then .wait
    else f pa

/-- BKRD (R286). -/
def execBkrd (d a : BitVec 5) (s : State) : Out :=
  bankStep d (fun s _ sv run =>
    bankAccess s sv run (runSrc run a).toNat 8 false fun pa =>
      .value s (BitVec.ofNat 64 (ofBytes (valeRead s sv.cmd.vale pa 8)))) s

/-- BKWR (R286). -/
def execBkwr (a b : BitVec 5) (s : State) : Out :=
  bankStep 0 (fun s _ sv run =>
    bankAccess s sv run (runSrc run a).toNat 8 true fun pa =>
      .done (valeWrite s sv.cmd.vale none pa (toBytes 8 (runSrc run b).toNat))) s

/-- BKAMO (R286). -/
def execBkamo (d a b : BitVec 5) (op : BitVec 4) (wide : Bool) (s : State) : Out :=
  bankStep d (fun s _ sv run =>
    let n := if wide then 8 else 4
    bankAccess s sv run (runSrc run a).toNat n true fun pa =>
      let r := homeAtomic s sv.cmd.vale none pa n (.amo op (runSrc run b))
      .value r.1 (BitVec.ofNat 64 r.2)) s

/-- An element extended to a register: signed integers by sign, all else by zeros (R286). -/
def elementWord (ty n : Nat) : Word := if ty < 8 then BitVec.ofInt 64 (intVal ty n) else BitVec.ofNat 64 n

/-- The reduction of elements (R286): the float sum is exact before its one rounding; min and max of one element are that element, a
NaN with its bits (log 75). -/
def reduceElements (op ty : Nat) (els : List Nat) : Word :=
  match els with
  | [] => 0
  | x :: rest =>
    match op with
    | 0 =>
      if ty < 8 then rest.foldl (fun s e => s + elementWord ty e) (elementWord ty x)
      else BitVec.ofNat 64 ((fmtOf ty).round .rne (rest.foldl (fun v e => FVal.add v ((fmtOf ty).value e)) ((fmtOf ty).value x)))
    | 1 => elementWord ty (rest.foldl (elementMin ty) x)
    | 2 => elementWord ty (rest.foldl (elementMax ty) x)
    | _ => BitVec.ofNat 64 (rest.foldl (· ||| ·) x)

/-- BKRED: every element is checked before any is read (R286). -/
def execBkred (d a b : BitVec 5) (op : BitVec 2) (ty : BitVec 4) (s : State) : Out :=
  bankStep d (fun s _ sv run =>
    let w := typeBytes ty.toNat
    let cnt := (runSrc run b).toNat
    let off := (runSrc run a).toNat
    if cnt = 0 then .value s 0
    else if 1024 < cnt then .fault
    else
      match (List.range cnt).mapM fun e => bankCheck sv.cmd run.bank (off + e * w) w with
      | none => .fault
      | some ps =>
        let pas := ps.map (bankAddress sv.cmd)
        if !bankServed s sv.cmd then .fault
        else if pas.any fun pa => bankHeld s none (bankOf pa) then .wait
        else .value s (reduceElements op.toNat ty.toNat (pas.map fun pa => ofBytes (valeRead s sv.cmd.vale pa w)))) s

/-- combine(x, p) of a command (R291). -/
def combinePartial (x : BankCmd) (a p : Word) : Word :=
  let ty := x.ctype
  if ty < 8 then
    match x.cop with
    | 0 => a + p
    | 1 => BitVec.ofNat 64 (elementMin ty a.toNat p.toNat)
    | 2 => BitVec.ofNat 64 (elementMax ty a.toNat p.toNat)
    | _ => a ||| p
  else
    let F := fmtOf ty
    let u := a.toNat % 2 ^ F.width
    let v := p.toNat % 2 ^ F.width
    match x.cop with
    | 0 => BitVec.ofNat 64 (F.round .rne (FVal.add (F.value u) (F.value v)))
    | 1 => BitVec.ofNat 64 (elementMin ty u v)
    | _ => BitVec.ofNat 64 (elementMax ty u v)

/-- The partial that a sent word is: an f32 command reads bits [31:0] (R291). -/
def partialOf (x : BankCmd) (p : Word) : Word := if x.ctype = 10 then (p.setWidth 32).setWidth 64 else p

/-- BKSEND: the partial reaches the combiner when it is sent (R291). -/
def execBksend (a : BitVec 5) (s : State) : Out :=
  bankStep 0 (fun s ch sv run =>
    let p := partialOf sv.cmd (runSrc run a)
    let v := match sv.combiner with
      | some x => combinePartial sv.cmd x p
      | none => p
    .done (s.setChan ch { s.chan ch with serving := some { sv with combiner := some v } })) s

/-- BKEND: the run ends (R286). -/
def execBkend (s : State) : Out :=
  match runInTurn s with
  | none => .next s
  | some (ch, r, sv, run) => .next { endRun s ch r sv run false with stalled := false }

/-! ## Completion (R288, R289) -/

/-- Bytes that a command adds to its barrier (R288). -/
def bankBytes (x : BankCmd) : Nat := if x.cmd = 2 then 256 else 1024 * popCount x.mask 32

/-- The status record: STATUS, RUNS, RESULT (R288). -/
def statusRecord (sv : Serve) (status : Nat) : BitVec 128 :=
  let rejected := sv.runs.isEmpty
  let v := if rejected then 0#64 else sv.combiner.getD 0
  (v ++ BitVec.ofNat 32 sv.ended ++ BitVec.ofNat 32 status : BitVec 128)

/-- The core writes the status record, then makes the add; one that overruns makes STATUS 259 in the same step (R288). -/
def finishBank (k : Core) (t : Task) (sv : Serve) : Core :=
  let x := sv.cmd
  let stat := t.alloc + x.stat
  let k := { k with scratch := memPut k.scratch stat 16 (statusRecord sv sv.status.toNat).toNat, bankOut := k.bankOut - 1 }
  let r := if x.ben then barAdd k (t.alloc + x.bar) (bankBytes x) else (k, false)
  let k := if r.2 then { r.1 with scratch := memPut r.1.scratch stat 4 259 } else r.1
  { k with bankStats := k.bankStats ++ [(x.stat, statusRecord sv (if r.2 then 259 else sv.status.toNat))] }

/-- BANK_COMMAND_COMPLETE: every run has ended. A command whose task has halted writes nothing (R289). -/
def execBankCommandComplete (ch : Fin 512) (s : State) : Out :=
  match (s.chan ch).serving with
  | none => .next s
  | some sv =>
    if sv.runs.any fun r => !r.finished then .next s
    else
      let s := { s.setChan ch { s.chan ch with serving := none } with stalled := false }
      let k := s.core sv.cmd.core
      match k.task with
      | some t =>
        if t.epoch = sv.cmd.epoch then
          .next (clearPoison (s.setCore sv.cmd.core (finishBank k t sv)) (.scratch sv.cmd.core) (t.alloc + sv.cmd.stat) 16)
        else .next s
      | none => .next s

end Sys2Proof.Machine
end

