-- ==== Sys2Proof/Machine/Control.lean ====
section
/-! DEFINITION. Machine/Control.lean: branches, jumps, CSRs, loop registers, traps (R112, R113, R116, R301, R303). -/
namespace Sys2Proof.Machine

/-- Lead target: this + 4 × sext(off21, 64) (R112). -/
def branchTarget (pc : Word) (off : BitVec 21) : Word := pc + 4 * off.signExtend 64

/-- A branch of a bank run by word count (R83, R96), or of a lead slice by address (R112). `taken` judges the source. -/
def branchStep (i : Instr) (src : Option (BitVec 5)) (off : BitVec 21) (taken : Word → Bool) (s : State) : Out :=
  match runInTurn s with
  | some (ch, r, sv, run) =>
    let v := (src.map (runSrc run)).getD 0
    .next (setRun s ch r sv { run with pc := if taken v then ((run.pc : Int) + off.toInt).toNat else run.pc + 1 })
  | none =>
    leadStep i (fun who s =>
      let l := s.ls who
      match (match src with
        | some x => readSrc l x
        | none => some 0) with
      | none => .wait
      | some v => .done (s.setLs who (if taken v then { l with pc := branchTarget l.pc off } else nextPc l))) s

/-- BZ (R112). -/
def execBz (a : BitVec 5) (off : BitVec 21) (s : State) : Out := branchStep (.bz a off) (some a) off (fun v => v == 0) s

/-- BNZ (R112). -/
def execBnz (a : BitVec 5) (off : BitVec 21) (s : State) : Out := branchStep (.bnz a off) (some a) off (fun v => v != 0) s

/-- JMP (R112). -/
def execJmp (off : BitVec 21) (s : State) : Out := branchStep (.jmp off) none off (fun _ => true) s

/-- JAL: n15 := this + 4 (R112). -/
def execJal (off : BitVec 21) (s : State) : Out :=
  leadStep (.jal off) (fun who s =>
    let l := s.ls who
    .done (s.setLs who { l with n := l.n.set 15 (.val (l.pc + 4)), pc := branchTarget l.pc off })) s

/-- JR: cause 3 where the target is not a multiple of 4 (R113). -/
def execJr (a : BitVec 5) (s : State) : Out :=
  leadStep (.jr a) (fun who s =>
    let l := s.ls who
    match readSrc l a with
    | none => .wait
    | some v => if v.extractLsb' 0 2 = 0 then .done (s.setLs who { l with pc := v }) else .trap 3 (wordOf (.jr a))) s

/-- LPW: lp(k) := a[31:0] (R116). -/
def execLpw (a : BitVec 5) (k : BitVec 4) (s : State) : Out :=
  leadStep (.lpw a k) (fun who s =>
    let l := s.ls who
    match readSrc l a with
    | none => .wait
    | some v => .done (s.setLs who (nextPc { l with lp := l.lp.set k.toFin (v.setWidth 32) }))) s

/-- CSRRD (R303). -/
def execCsrrd (d : BitVec 5) (csr : BitVec 12) (s : State) : Out :=
  leadStep (.csrrd d csr) (fun who s =>
    match csrRead s who csr with
    | some v => retire s who d v
    | none => .trap 0 (wordOf (.csrrd d csr))) s

/-- CSRWR: 326 where the CSR is read-only in the current mode (R303). -/
def execCsrwr (a : BitVec 5) (csr : BitVec 12) (s : State) : Out :=
  leadStep (.csrwr a csr) (fun who s =>
    let l := s.ls who
    match csrRead s who csr with
    | none => .trap 0 (wordOf (.csrwr a csr))
    | some _ =>
      match readSrc l a with
      | none => .wait
      | some v =>
        match csrWrite l csr v with
        | some l => .done (s.setLs who (nextPc l))
        | none => .trap 326 (wordOf (.csrwr a csr))) s

/-- TRAP (R301). -/
def execTrap (k : BitVec 6) (s : State) : Out := leadStep (.trap k) (fun _ _ => .trap 324 (k.setWidth 64)) s

/-- BRK (R301). -/
def execBrk (k : BitVec 6) (s : State) : Out := leadStep (.brk k) (fun _ _ => .trap 325 (k.setWidth 64)) s

/-- ERET: machine mode only; LS_EPC must be a multiple of 4 (R301). -/
def execEret (s : State) : Out :=
  leadStep .eret (fun who s =>
    let l := s.ls who
    if !l.machine then .trap 326 (wordOf .eret)
    else if l.epc.extractLsb' 0 2 = 0 then .done (s.setLs who (returnFromTrap l))
    else .trap 3 (wordOf .eret)) s

end Sys2Proof.Machine
end

