-- ==== Sys2Proof/Machine/Fetch.lean ====
section
/-! DEFINITION. Machine/Fetch.lean: fetching and decoding a word (R69, R70, R343), and the words that cannot be fetched or decoded
(R73 to R75). -/
namespace Sys2Proof.Machine

/-! ## Fetch (R69, R343) -/

/-- A fetched word, or the cause and the address of its fault. -/
abbrev FetchedWord := Except (BitVec 9 × Word) Nat

/-- The address lies in the section of a kind of a loaded image (R17, R69). -/
def inSection (x : Vale) (kind va : Nat) : Bool :=
  x.images.any fun i => match i.section kind with
    | some q => decide (i.base.toNat + q.off ≤ va) && decide (va < i.base.toNat + q.off + q.len)
    | none => false

/-- `n` bytes at an address that the core's L1 holds, of any request type (R69). -/
def fetchHit (s : State) (k : Core) (v : Fin 16) (va n : Nat) : Option Nat :=
  (k.l1.find? fun x => decide (x.asid = asidOf s v) && decide (x.va8 = va / 8) &&
    (decide (x.rq ≠ 2) || decide (s.now.toNat < x.ends))).map fun x =>
      match x.place with
      | .dram a _ => if x.rq = 0 then ofBytes (dramRead s (dataKey s v a) (a + va % 8) n)
        else x.data.toNat / 256 ^ (va % 8) % 256 ^ n
      | _ => x.data.toNat / 256 ^ (va % 8) % 256 ^ n

/-- `n` bytes of an image section of kind `kind`, for the fetching agent `agent` (R69, R342): the section is judged first, then a word
that the fetch buffer or L1 holds needs no translation. -/
def taskFetch (s : State) (k : Core) (buf : List FetchLine) (v : Fin 16) (kind agent n : Nat) (pc : Word) : FetchedWord :=
  if !inSection (s.vale v) kind pc.toNat then .error (BitVec.ofNat 9 (130 + 8 * agent), pc)
  else
    match buffered buf pc.toNat n, fetchHit s k v pc.toNat n with
    | some w, _ => .ok w
    | none, some w => .ok w
    | none, none => match translate s v pc.toNat .fetch with
      | .error e => .error (BitVec.ofNat 9 (e.code agent), pc)
      | .ok l => .ok (ofBytes (valeRead s v l.pa n))

/-- The fetch buffer of a core's lead slice, or of its lane slice. -/
def fetchBuffer (k : Core) (lane : Bool) : List FetchLine := if lane then k.lane.buf else k.ls.buf

/-- The bytes of one fetch. -/
def fetchBytes (lane : Bool) : Nat := if lane then 8 else 4

/-- What a core's L1 holds of a line, as a line of a fetch buffer. -/
def lineOfL1 (s : State) (k : Core) (v : Fin 16) (line : Nat) : FetchLine :=
  let words := (List.range 16).map fun i => fetchHit s k v (line * 128 + 8 * i) 8
  { line := line, data := BitVec.ofNat 1024 (packLanes 64 (words.map fun w => w.getD 0)),
    words := BitVec.ofNat 16 (packLanes 1 (words.map fun w => if w.isSome then 1 else 0)) }

/-- Enter a line into a fetch buffer of `n` lines: the oldest leaves a full one, but not the line of the fetch address `pc`. -/
def enterLine (n pc : Nat) (x : FetchLine) (buf : List FetchLine) : List FetchLine :=
  let others := buf.filter fun y => !decide (y.line = x.line)
  let now (y : FetchLine) : Bool := decide (y.line = pc / 128)
  x :: (others.filter now ++ others.filter fun y => !now y).take (n - 1)

/-- A fetched line passes through L1, which takes it as `.wt` words where it does not hold the word (log 61), into the fetch buffer of
four lines, or of eight for the lane slice (R69, R70). -/
def fetchInto (s : State) (c : Fin 256) (lane : Bool) (pc : Word) : State :=
  let n := fetchBytes lane
  let va := pc.toNat / n * n
  match taskVale s c with
  | none => s
  | some v =>
    if (buffered (fetchBuffer (s.core c) lane) va n).isSome then s
    else
      let s := if (fetchHit s (s.core c) v va n).isSome then s
        else match translate s v va .fetch with
          | .error _ => s
          | .ok l => l1Fill (noteWalk s v va) c v (va / 128 * 128) 1 15 { l with pa := l.pa / 128 * 128 }
      let k := s.core c
      let x := lineOfL1 s k v (va / 128)
      if x.words = 0 then s
      else s.setCore c (if lane then { k with lane := { k.lane with buf := enterLine 8 k.lane.pc.toNat x k.lane.buf } }
        else { k with ls := { k.ls with buf := enterLine 4 k.ls.pc.toNat x k.ls.buf } })

/-- The fetch of a word that neither its buffer nor L1 holds waits for a DRAM bank that a copy channel holds (R224); the section is
judged before (R69). -/
def fetchHeld (s : State) (c : Fin 256) (lane : Bool) (pc : Word) : Bool :=
  match taskVale s c with
  | none => false
  | some v =>
    !s.bulk.isEmpty && inSection (s.vale v) (if lane then 2 else 1) pc.toNat &&
    !(lane && ((s.core c).lane.held pc).isSome) &&
    (buffered (fetchBuffer (s.core c) lane) pc.toNat (fetchBytes lane)).isNone &&
    (fetchHit s (s.core c) v pc.toNat (fetchBytes lane)).isNone && vaHeld s v none pc.toNat .fetch

/-- A slice reads ahead of its fetch address; that never faults, and it waits for nothing (R69, R70; log 61). -/
def prefetchLine (s : State) (c : Fin 256) (lane : Bool) (va : Word) : State :=
  match taskVale s c with
  | none => s
  | some v =>
    if inSection (s.vale v) (if lane then 2 else 1) va.toNat && !fetchHeld s c lane va then fetchInto s c lane va else s

/-- The management core fetches from firmware memory only (R343). -/
def machineFetch (s : State) (pc : Word) : FetchedWord :=
  if topByte pc ≠ 0 then .error (65, pc)
  else if 0x00FF000000000000 ≤ pc.toNat ∧ pc.toNat < 0x00FF000004000000 then
    .ok (memNum s.mgmt.fw (pc.toNat - 0x00FF000000000000) 4)
  else .error (130, pc)

/-- What a decoded word is: an instruction, or an illegal encoding with its cause. -/
def orIllegal (w : Nat) : Decoded → Instr
  | .ok i => i
  | .error c => .illegalEncoding c (BitVec.ofNat 64 w)

/-- The word at the lead fetch address of a slice. -/
def leadWord (s : State) (who : LeadId) : FetchedWord :=
  let pc := (s.ls who).pc
  match who with
  | .mgmt => machineFetch s pc
  | .core c => match taskVale s c with
    | some v => taskFetch s (s.core c) (s.core c).ls.buf v 1 0 4 pc
    | none => .error (130, pc)

/-- The instruction at the lead fetch address of a slice. -/
def fetchLead (s : State) (who : LeadId) : Instr :=
  match leadWord s who with
  | .error e => .fetchDenied e.1 e.2
  | .ok w => orIllegal w (decodeLead (declaredIds s who) (BitVec.ofNat 32 w))

/-- The word at the lane fetch address of a core: of the replay buffer while it holds it, else fetched (R70, R138). -/
def laneWord (s : State) (c : Fin 256) : FetchedWord :=
  let l := (s.core c).lane
  match l.held l.pc, taskVale s c with
  | some w, _ => .ok w.toNat
  | none, some v => taskFetch s (s.core c) l.buf v 2 1 8 l.pc
  | none, none => .error (138, l.pc)

/-- The instruction at the lane fetch address of a core (R70). -/
def fetchLane (s : State) (c : Fin 256) : Instr :=
  match laneWord s c with
  | .error e => .fetchDenied e.1 e.2
  | .ok w => orIllegal w (decodeLane (BitVec.ofNat 64 w))

/-- The walk of a fetch that ends in a fault has read table entries as well (R269). -/
def deniedWalk (s : State) (c : Fin 256) (kind : Nat) (pc : Word) : State :=
  match taskVale s c with
  | some v => if inSection (s.vale v) kind pc.toNat then noteWalk s v pc.toNat else s
  | none => s

/-- A lane word that is fetched is held until it issues; while a replay is active the words fetched stay in the replay buffer (R70,
R138). -/
def noteFetch (s : State) (c : Fin 256) : State :=
  match (s.core c).lane.held (s.core c).lane.pc, laneWord s c with
  | none, .ok w =>
    let s := fetchInto s c true (s.core c).lane.pc
    let k := s.core c
    let l := k.lane
    let kept := if l.levels.isEmpty then [] else l.body
    s.setCore c { k with lane := { l with body := (l.pc, BitVec.ofNat 64 w) :: kept } }
  | none, .error _ => deniedWalk s c 2 (s.core c).lane.pc
  | _, _ => s

/-- A lead word that is fetched passes through L1 and the fetch buffer (R69). -/
def noteLeadFetch (s : State) (c : Fin 256) : State :=
  match leadWord s (.core c) with
  | .ok _ => fetchInto s c false (s.core c).ls.pc
  | .error _ => deniedWalk s c 1 (s.core c).ls.pc

/-- The handler word of a run (R284). -/
def fetchBank (sv : Serve) (run : BankRun) : Instr :=
  let w := handlerWord sv run
  orIllegal w.toNat (decodeHandler w)

/-! ## Words that are no instruction (R69, R73 to R75) -/

/-- A lane word that faults where it is reached: it counts against the spacing of stop points, then it is reported (R136, R140). -/
def laneBadWord (s : State) (c : Fin 256) (w : LaneWord) (code : BitVec 9) (tval : Word) : State :=
  laneReach s c w tval fun s => laneFault s c (code.setWidth 12) tval

/-- ILLEGAL_ENCODING: the word raises its cause where it would issue; LS_TVAL is the word. -/
def execIllegalEncoding (cause : BitVec 9) (word : Word) (s : State) : Out :=
  match s.turn with
  | .lane c => .next (laneBadWord s c (laneFields word) cause word)
  | _ => leadStep (.illegalEncoding cause word) (fun _ _ => .trap (cause.setWidth 12) word) s

/-- FETCH_DENIED: LS_TVAL is the address. A lane word that cannot be fetched is no stop word: 44 comes before its fetch fault (log 82). -/
def execFetchDenied (cause : BitVec 9) (addr : Word) (s : State) : Out :=
  match s.turn with
  | .lane c => .next (laneBadWord s c (laneFields 0) cause addr)
  | _ => leadStep (.fetchDenied cause addr) (fun _ _ => .trap (cause.setWidth 12) addr) s

end Sys2Proof.Machine
end

