-- ==== Sys2Proof/Machine/LaneInt.lean ====
section
/-! DEFINITION. Machine/LaneInt.lean: the integer, shift and bit words of the lanes (R153, R154). -/
namespace Sys2Proof.Machine

/-- Lane bits of a source. -/
def LaneCtx.bits (x : LaneCtx) (r : BitVec 8) (l : Nat) : Nat := laneOfRow (x.row r) x.width l

/-- A lane of a source as the type reads it. -/
def LaneCtx.int (x : LaneCtx) (r : BitVec 8) (l : Nat) : Int := intVal x.ty (x.bits r l)

/-- A lane read as signed, whatever the type (R153). -/
def LaneCtx.sint (x : LaneCtx) (r : BitVec 8) (l : Nat) : Int := signedOf (x.width / 8) (x.bits r l)

/-- The result bits of an exact value under SAT (R153). -/
def LaneCtx.res (x : LaneCtx) (i : Int) : Nat := intBits x.ty x.w.sat i

/-- A shift count (R154): imm8 where I is set, else a lane of `r` modulo the width. -/
def LaneCtx.count (x : LaneCtx) (r : BitVec 8) (l : Nat) : Nat :=
  if x.w.fn.getLsbD 0 then x.w.c.toNat else x.bits r l % x.width

/-- VADDI (R153). -/
def execVaddi (w : LaneWord) (s : State) : Out :=
  laneStep (.vaddi w) (fun x => x.lanewise 1 fun l => x.res (x.int w.a l + x.int w.b l)) s

/-- VSUBI (R153). -/
def execVsubi (w : LaneWord) (s : State) : Out :=
  laneStep (.vsubi w) (fun x => x.lanewise 1 fun l => x.res (x.int w.a l - x.int w.b l)) s

/-- VMULI (R153). -/
def execVmuli (w : LaneWord) (s : State) : Out :=
  laneStep (.vmuli w) (fun x => x.lanewise 3 fun l => x.res (x.int w.a l * x.int w.b l)) s

/-- VMULHI (R153). -/
def execVmulhi (w : LaneWord) (s : State) : Out :=
  laneStep (.vmulhi w) (fun x => x.lanewise 3 fun l => intBits x.ty false (x.int w.a l * x.int w.b l / 2 ^ x.width)) s

/-- VAND (R153). -/
def execVand (w : LaneWord) (s : State) : Out :=
  laneStep (.vand w) (fun x => x.lanewise 1 fun l => x.bits w.a l &&& x.bits w.b l) s

/-- VOR (R153). -/
def execVor (w : LaneWord) (s : State) : Out :=
  laneStep (.vor w) (fun x => x.lanewise 1 fun l => x.bits w.a l ||| x.bits w.b l) s

/-- VXOR (R153). -/
def execVxor (w : LaneWord) (s : State) : Out :=
  laneStep (.vxor w) (fun x => x.lanewise 1 fun l => x.bits w.a l ^^^ x.bits w.b l) s

/-- VANDN (R153). -/
def execVandn (w : LaneWord) (s : State) : Out :=
  laneStep (.vandn w) (fun x => x.lanewise 1 fun l => x.bits w.a l &&& (2 ^ x.width - 1 - x.bits w.b l)) s

/-- VSHL (R153, R154). -/
def execVshl (w : LaneWord) (s : State) : Out :=
  laneStep (.vshl w) (fun x => x.lanewise 1 fun l => x.bits w.a l * 2 ^ x.count w.b l) s

/-- VSHR (R153, R154). -/
def execVshr (w : LaneWord) (s : State) : Out :=
  laneStep (.vshr w) (fun x => x.lanewise 1 fun l => x.bits w.a l / 2 ^ x.count w.b l) s

/-- VSAR (R153, R154). -/
def execVsar (w : LaneWord) (s : State) : Out :=
  laneStep (.vsar w) (fun x => x.lanewise 1 fun l => intBits x.ty false (x.sint w.a l / 2 ^ x.count w.b l)) s

/-- VFSHL (R153, R154). -/
def execVfshl (w : LaneWord) (s : State) : Out :=
  laneStep (.vfshl w) (fun x => x.lanewise 1 fun l => (x.bits w.a l * 2 ^ x.width + x.bits w.b l) * 2 ^ x.count w.c l / 2 ^ x.width) s

/-- VFSHR (R153, R154). -/
def execVfshr (w : LaneWord) (s : State) : Out :=
  laneStep (.vfshr w) (fun x => x.lanewise 1 fun l => (x.bits w.a l * 2 ^ x.width + x.bits w.b l) / 2 ^ x.count w.c l) s

/-- VCLZ (R153). -/
def execVclz (w : LaneWord) (s : State) : Out :=
  laneStep (.vclz w) (fun x => x.lanewise 1 fun l => leadingZeros x.width (x.bits w.a l)) s

/-- VPOPC (R153). -/
def execVpopc (w : LaneWord) (s : State) : Out :=
  laneStep (.vpopc w) (fun x => x.lanewise 1 fun l => popCount (x.bits w.a l) x.width) s

/-- VMINI (R153). -/
def execVmini (w : LaneWord) (s : State) : Out :=
  laneStep (.vmini w) (fun x => x.lanewise 1 fun l => if x.int w.a l ≤ x.int w.b l then x.bits w.a l else x.bits w.b l) s

/-- VMAXI (R153). -/
def execVmaxi (w : LaneWord) (s : State) : Out :=
  laneStep (.vmaxi w) (fun x => x.lanewise 1 fun l => if x.int w.b l ≤ x.int w.a l then x.bits w.a l else x.bits w.b l) s

end Sys2Proof.Machine
end

