-- ==== Sys2Proof/Machine/LaneMove.lean ====
section
/-! DEFINITION. Machine/LaneMove.lean: the cross-lane words, masks, and VZERO (R155 to R161, R171). -/
namespace Sys2Proof.Machine

/-- VSHUF: lane b(l) mod L of a (R155). -/
def execVshuf (w : LaneWord) (s : State) : Out :=
  laneStep (.vshuf w) (fun x => x.lanewise 2 fun l => x.bits w.a (x.bits w.b l % x.lanes)) s

/-- VSEL writes every lane, whatever the mask (R156). -/
def execVsel (w : LaneWord) (s : State) : Out :=
  laneStep (.vsel w) (fun x =>
    .eff (.one 2 (x.writeLanes x.width x.lanes
      ((List.range x.lanes).map fun l => if x.act l then x.bits w.a l else x.bits w.b l) fun _ => true))) s

/-- VBCAST (R157). -/
def execVbcast (w : LaneWord) (s : State) : Out :=
  laneStep (.vbcast w) (fun x => x.lanewise 2 fun _ => x.bits w.a w.c.toNat) s

/-- VROT (R157). -/
def execVrot (w : LaneWord) (s : State) : Out :=
  laneStep (.vrot w) (fun x => x.lanewise 2 fun l => x.bits w.a ((l + w.c.toNat) % x.lanes)) s

/-! ## Reductions (R158, R159) -/

/-- One node of a reduction: level `h`, position `i` (R145, R158). -/
def LaneCtx.node (x : LaneCtx) (h i a b : Nat) : Nat :=
  let F := x.fmt
  if 8 ≤ x.ty then
    match (x.w.fn.extractLsb' 0 2).toNat with
    | 0 => F.round (x.rnd (i + 256 * h)) (FVal.add (F.value a) (F.value b))
    | 1 => x.exact (FVal.min (F.value a) (F.value b))
    | _ => x.exact (FVal.max (F.value a) (F.value b))
  else
    match (x.w.fn.extractLsb' 0 2).toNat with
    | 0 => (a + b) % 2 ^ x.width
    | 1 => if intVal x.ty a ≤ intVal x.ty b then a else b
    | 2 => if intVal x.ty b ≤ intVal x.ty a then a else b
    | _ => a ||| b

/-- Neighbours combined: one level of the tree (R158). -/
def pairUp (f : Nat → Nat → Nat → Nat) : Nat → List Nat → List Nat
  | i, a :: b :: t => f i a b :: pairUp f (i + 1) t
  | _, t => t

/-- The fixed pairwise tree (R158), from level `h` on over `n` levels. -/
def LaneCtx.tree (x : LaneCtx) : Nat → Nat → List Nat → List Nat
  | 0, _, ys => ys
  | n + 1, h, ys => x.tree n (h + 1) (pairUp (x.node h) 0 ys)

/-- The doubling steps of the inclusive scan (R159), from level `h` on over `n` levels; a lane that meets no node keeps its bits, a NaN's
payload too (log 83). -/
def LaneCtx.scan (x : LaneCtx) : Nat → Nat → List Nat → List Nat
  | 0, _, ys => ys
  | n + 1, h, ys =>
    let d := 2 ^ (h - 1)
    let shifted := List.replicate d 0 ++ ys
    let pairs := ys.zip shifted
    x.scan n (h + 1) (pairs.zipIdx.map fun q => if d ≤ q.2 then x.node h q.2 q.1.2 q.1.1 else q.1.1)

/-- The lanes of row a. -/
def LaneCtx.lanesOf (x : LaneCtx) (r : BitVec 8) : List Nat := (List.range x.lanes).map (x.bits r)

/-- VRED: y[0] of the tree to every active lane (R158). -/
def execVred (w : LaneWord) (s : State) : Out :=
  laneStep (.vred w) (fun x =>
    let n := Nat.log2 x.lanes
    let y := (x.tree n 1 (x.lanesOf w.a)).headD 0
    x.lanewise (2 + n) fun _ => y) s

/-- VSCAN (R159). -/
def execVscan (w : LaneWord) (s : State) : Out :=
  laneStep (.vscan w) (fun x =>
    let n := Nat.log2 x.lanes
    .eff (.one (2 + n) (x.writeLanes x.width x.lanes (x.scan n 1 (x.lanesOf w.a)) x.act))) s

/-! ## Masks (R160, R161) -/

/-- A mask that a field names. -/
def LaneCtx.maskOf (x : LaneCtx) (f : BitVec 8) : LaneMask := x.k.lane.masks[(f.extractLsb' 0 3).toFin]

/-- A mask word acts on all 256 bits (R160). -/
def LaneCtx.setMask (x : LaneCtx) (lat : Nat) (m : LaneMask) : LaneRes :=
  .eff (.one lat (.mask (x.w.dst.extractLsb' 0 3).toFin m (BitVec.allOnes 256)))

/-- MAND (R160). -/
def execMand (w : LaneWord) (s : State) : Out :=
  laneStep (.mand w) (fun x => x.setMask 1 (x.maskOf w.a &&& x.maskOf w.b)) s

/-- MOR (R160). -/
def execMor (w : LaneWord) (s : State) : Out :=
  laneStep (.mor w) (fun x => x.setMask 1 (x.maskOf w.a ||| x.maskOf w.b)) s

/-- MXOR (R160). -/
def execMxor (w : LaneWord) (s : State) : Out :=
  laneStep (.mxor w) (fun x => x.setMask 1 (x.maskOf w.a ^^^ x.maskOf w.b)) s

/-- MNOT (R160). -/
def execMnot (w : LaneWord) (s : State) : Out := laneStep (.mnot w) (fun x => x.setMask 1 (~~~ x.maskOf w.a)) s

/-- MPOP: the count to bits [31:0], the rest zero, whatever the mask (R161). -/
def execMpop (w : LaneWord) (s : State) : Out :=
  laneStep (.mpop w) (fun x =>
    .eff (.one 2 (.row w.dst.toFin (BitVec.ofNat 2048 (popCount (x.maskOf w.a).toNat x.lanes)) (BitVec.allOnes 2048)))) s

/-- VZERO: every active byte becomes 0 (R171). -/
def execVzero (w : LaneWord) (s : State) : Out := laneStep (.vzero w) (fun x => x.lanewise 1 fun _ => 0) s

end Sys2Proof.Machine
end

