-- ==== Sys2Proof/Machine/LaneMemory.lean ====
section
/-! DEFINITION. Machine/LaneMemory.lean: steering, replay, pointers, scratchpad access and the end of a stream (R162 to R170,
R173), and the events of landing (R134 to R136). -/
namespace Sys2Proof.Machine

/-! ## Steering and replay -/

/-- VPOPV: a VALUE to every lane, or a MASK to a mask (R162). -/
def execVpopv (w : LaneWord) (s : State) : Out :=
  laneStep (.vpopv w) (fun x =>
    match x.steer with
    | some (.mask m) => x.setMask 1 m
    | some (.value v) => x.lanewise 1 fun _ => v.toNat % 2 ^ x.width
    | _ => .fault 42) s

/-- VREP: a COUNT of 0 runs no pass (R138, R163). -/
def execVrep (w : LaneWord) (s : State) : Out :=
  laneStep (.vrep w) (fun x =>
    match x.steer with
    | some (.count n) => .eff ⟨[], none, none, if n = 0 then .skip else .replay false n⟩
    | _ => .fault 42) s

/-- VREPF: a first FLAG of 0 runs no pass (R138, R163). -/
def execVrepf (w : LaneWord) (s : State) : Out :=
  laneStep (.vrepf w) (fun x =>
    match x.steer with
    | some (.flag b) => .eff ⟨[], none, none, if b then .replay true 0 else .skip⟩
    | _ => .fault 42) s

/-- VRDV: the pass index `h` levels out, to each 32-bit lane (R164). -/
def execVrdv (w : LaneWord) (s : State) : Out :=
  laneStep (.vrdv w) (fun x =>
    let p := (x.passes.getD (w.fn.extractLsb' 0 2).toNat 0).toNat
    .eff (.one 1 (x.writeLanes 32 64 (List.replicate 64 p) fun _ => true))) s

/-- VEND ends the stream (R173). -/
def execVend (w : LaneWord) (s : State) : Out := laneStep (.vend w) (fun _ => .eff ⟨[], none, none, .vend⟩) s

/-! ## Pointers (R169) -/

/-- The pointer that FN[6:4] names. -/
def LaneCtx.ptrNum (x : LaneCtx) : Fin 8 := (x.w.fn.extractLsb' 4 3).toFin

/-- The pointer's value. -/
def LaneCtx.ptr (x : LaneCtx) : BitVec 32 := x.k.lane.ptrs[x.ptrNum]

/-- QSET (R169). -/
def execQset (w : LaneWord) (s : State) : Out :=
  laneStep (.qset w) (fun x =>
    let v := if w.fn.getLsbD 3 then BitVec.ofNat 32 (w.c.toNat * 256) else BitVec.ofNat 32 (x.row w.a)
    .eff ⟨[], none, some (x.ptrNum, v), .next⟩) s

/-- QADD (R169). -/
def execQadd (w : LaneWord) (s : State) : Out :=
  laneStep (.qadd w) (fun x =>
    let v := if w.fn.getLsbD 3 then w.c.signExtend 32 else BitVec.ofNat 32 (x.row w.a)
    .eff ⟨[], none, some (x.ptrNum, x.ptr + v), .next⟩) s

/-! ## Scratchpad access (R165 to R168) -/

/-- o := zext(qk) + sext(OFF) × 256, exact (R165). -/
def LaneCtx.offset (x : LaneCtx) : Int := (x.ptr.toNat : Int) + x.w.c.toInt * 256

/-- The post-increment (R165). -/
def LaneCtx.post (x : LaneCtx) : Option (Fin 8 × BitVec 32) :=
  if x.w.fn.getLsbD 3 then some (x.ptrNum, x.ptr + 256) else none

/-- The offsets of the active elements, by lane: element `l` at `f l` (R165, R168). -/
def LaneCtx.elements (x : LaneCtx) (f : Nat → Int) : List (Nat × Int) :=
  ((List.range x.lanes).filter x.act).map fun l => (l, f l)

/-- The first cause of the active elements: alignment of o, then the bounds of the allocation (R165). -/
def LaneCtx.addrFault (x : LaneCtx) (els : List (Nat × Int)) : Option (BitVec 12) :=
  let w : Int := x.width / 8
  if els.isEmpty then none
  else if x.offset % w ≠ 0 then some 72
  else if els.any fun e => decide (e.2 < 0) || decide ((x.t.size : Int) < e.2 + w) then some 136
  else none

/-- A byte of scratchpad as the lanes see it: stores of the stream in flight come first (R135). -/
def laneByte (k : Core) (off : Nat) : Byte :=
  k.lane.flight.foldl (fun b x =>
    match x.dest with
    | .store cells _ => cells.foldl (fun b e => if e.1 = off then e.2 else b) b
    | _ => b) (memGet k.scratch off)

/-- An element of `n` bytes at an allocation offset, as a number. -/
def LaneCtx.element (x : LaneCtx) (o : Int) (n : Nat) : Nat :=
  ofBytes ((List.range n).map fun i => laneByte x.k (x.t.alloc + o.toNat + i))

/-- Stores in flight write every byte of a scratchpad word: its mark is older than what the lanes read (R135, R312). -/
def storedOver (k : Core) (w : Nat) : Bool :=
  (List.range 8).all fun i => k.lane.flight.any fun x => match x.dest with
    | .store cells _ => cells.any fun e => decide (e.1 = w * 8 + i)
    | _ => false

/-- A poisoned word that an active element reads, if any (R312). -/
def LaneCtx.poisoned (x : LaneCtx) (els : List (Nat × Int)) : Option Nat :=
  let n := x.width / 8
  (els.findSome? fun e =>
    let a := x.t.alloc + e.2.toNat
    (List.range ((a + n - 1) / 8 + 1 - a / 8)).findSome? fun i =>
      if x.s.poison.contains (.scratch x.c (a / 8 + i)) && !storedOver x.k (a / 8 + i) then some (a / 8 + i) else none)

/-- The row bits that the active elements bring. -/
def LaneCtx.gathered (x : LaneCtx) (els : List (Nat × Int)) : Row :=
  BitVec.ofNat 2048 (els.foldl (fun r e => r + x.element e.2 (x.width / 8) * 2 ^ (x.width * e.1)) 0)

/-- The scratchpad banks of the active elements. -/
def LaneCtx.elementBanks (x : LaneCtx) (els : List (Nat × Int)) : BitVec 32 :=
  els.foldl (fun m e => m ||| bankBits (x.t.alloc + e.2.toNat) (x.width / 8)) 0

/-- VLD (R166): every active element is read in the clk of issue (log 68). -/
def execVld (w : LaneWord) (s : State) : Out :=
  laneStep (.vld w) (fun x =>
    let els := x.elements fun l => x.offset + l * (x.width / 8 : Nat)
    match x.addrFault els with
    | some code => .fault code
    | none =>
      match x.poisoned els with
      | some p => .poison p
      | none =>
        .eff ⟨[(4, .row w.dst.toFin (x.gathered els) (laneEnable x.width x.lanes x.act))], none, x.post, .next⟩) s

/-- The latest landing of the stores in flight (R135). -/
def lastStore (l : LaneSlice) : Nat :=
  l.flight.foldl (fun t x => match x.dest with
    | .store _ _ => max t x.lands
    | _ => t) 0

/-- The clks after issue at which a store lands if nothing delays it: 2 to 4, the device's choice (log 15), never before a store that
issued earlier (R135). -/
def LaneCtx.storeLat (x : LaneCtx) : Nat := max (2 + Config.pick x.s.ticks % 3) (lastStore x.k.lane - x.k.lane.clk)

/-- A store of the stream: other users of its banks delay it by at most 64 clk in all (R135). -/
def LaneCtx.stores (x : LaneCtx) (cells : List Host.Cell) : LaneEff :=
  ⟨[(x.storeLat, .store cells (x.k.lane.clk + min x.storeLat 4 + 64))], none, x.post, .next⟩

/-- The cells that store bytes of a row, from byte `j` of the row at allocation offset `o + j`. -/
def LaneCtx.cells (x : LaneCtx) (o : Int) (js : List Nat) : List Host.Cell :=
  js.map fun (j : Nat) => (x.t.alloc + (o + (j : Nat)).toNat, BitVec.ofNat 8 (laneOfRow (x.row x.w.a) 8 j))

/-- VST (R166). -/
def execVst (w : LaneWord) (s : State) : Out :=
  laneStep (.vst w) (fun x =>
    let n := x.width / 8
    let els := x.elements fun l => x.offset + l * (n : Nat)
    match x.addrFault els with
    | some code => .fault code
    | none =>
      let js := (List.range 256).filter fun j => x.act (j / n)
      .eff (x.stores (x.cells x.offset js))) s

/-- VSTM: the first cnt bytes whose lanes are active (R167). -/
def execVstm (w : LaneWord) (s : State) : Out :=
  laneStep (.vstm w) (fun x =>
    let cnt := min (x.row w.b % 2 ^ 32) 256
    let js := (List.range cnt).filter fun j => x.act (j / (x.width / 8))
    if js.any fun j => decide (x.offset + j < 0) || decide ((x.t.size : Int) < x.offset + j + 1) then .fault 136
    else .eff (x.stores (x.cells x.offset js))) s

/-- The index of a lane (R168). -/
def LaneCtx.index (x : LaneCtx) (l : Nat) : Nat :=
  if l < 128 then laneOfRow (x.row x.w.b) 16 l else laneOfRow (x.row (x.w.b + 1)) 16 (l - 128)

/-- The latest landing of the writes to a row in flight (R168). -/
def lastLanding (l : LaneSlice) (r : Fin 256) : Nat :=
  l.flight.foldl (fun t x => match x.dest with
    | .row k _ _ => if k = r then max t x.lands else t
    | _ => t) 0

/-- VLDX: every active element is read in the clk of issue (log 68), and the row becomes empty; it lands at the earliest 6 clk on, and
after every earlier write to it (R134, R168). -/
def execVldx (w : LaneWord) (s : State) : Out :=
  laneStep (.vldx w) (fun x =>
    let els := x.elements fun l => x.offset + (x.index l * (x.width / 8) : Nat)
    match x.addrFault els with
    | some code => .fault code
    | none =>
      match x.poisoned els with
      | some p => .poison p
      | none =>
        let r := w.dst.toFin
        .eff ⟨[], some ⟨r, max (x.k.lane.clk + 6) (lastLanding x.k.lane r), x.elementBanks els, x.gathered els,
          laneEnable x.width x.lanes x.act⟩, x.post, .next⟩) s

/-! ## Landings as events (R134 to R136) -/

/-- LANE_WRITE_LANDING: a lane clk passes without a word, and the writes that are due land (R131, R135). -/
def execLaneWriteLanding (s : State) : Out :=
  match s.turn with
  | .lane c => if laneIssues (s.core c) then .next s else .next { tickLane s c with stalled := false }
  | _ => .next s

/-- VLDX_LANDING: the gathered row of a core lands whole; it lands no earlier than R168 allows, and then at any clk. -/
def execVldxLanding (c : Fin 256) (row : Fin 256) (s : State) : Out :=
  match (s.core c).lane.gathers.find? fun g => decide (g.row = row) with
  | none => .next s
  | some g => if g.lands ≤ (s.core c).lane.clk then .next { landGather s c row with stalled := false } else .next s

/-- The lane word at the lane fetch address, for LS_TVAL (R75). -/
def laneWordAt (s : State) (c : Fin 256) : Word :=
  let l := (s.core c).lane
  match l.held l.pc, (s.core c).task with
  | some w, _ => w
  | none, some t => match buffered l.buf l.pc.toNat 8 with
    | some w => BitVec.ofNat 64 w
    | none => match translate s t.vale l.pc.toNat .fetch with
      | .ok q => BitVec.ofNat 64 (ofBytes (valeRead s t.vale q.pa 8))
      | .error _ => 0
  | none, none => 0

/-- STOP_SPACING: the counter would reach 65 at the next word, which is no stop point in the clk in which it is reached; the writes
land, and the lane slice raises 44 (R136). -/
def execStopSpacing (s : State) : Out :=
  match s.turn with
  | .lane c =>
    let k := s.core c
    let w := laneWordAt s c
    if laneActive k && !k.lane.counted && !k.lane.popDue && decide (64 ≤ k.lane.spacing) && storesDone k k.lane.after then
      let u := if k.lane.overrun then s else reachClk s c
      if !k.lane.overrun && w.getLsbD 63 && (u.core c).lane.quiet then .next s else .next (raiseSpacing u c w)
    else .next s
  | _ => .next s

end Sys2Proof.Machine
end

