-- ==== Sys2Proof/Machine/Dispatch.lean ====
section
/-! DEFINITION. Machine/Dispatch.lean: one arm per row of the table of operations and events. -/
namespace Sys2Proof.Machine

def exec (i : Instr) (s : State) : Host.Outcome State Fault Refusal :=
  match i with
  | .endpointStore src ep off bytes data => Sys2Proof.Machine.execEndpointStore src ep off bytes data s
  | .packetTimeout src ep => Sys2Proof.Machine.execPacketTimeout src ep s
  | .imageUnloadComplete v base => Sys2Proof.Machine.execImageUnloadComplete v base s
  | .fifoAgePromotion v f => Sys2Proof.Machine.execFifoAgePromotion v f s
  | .shadowUpdate v c => Sys2Proof.Machine.execShadowUpdate v c s
  | .lock v => Sys2Proof.Machine.execLock v s
  | .start v => Sys2Proof.Machine.execStart v s
  | .stop v => Sys2Proof.Machine.execStop v s
  | .report v => Sys2Proof.Machine.execReport v s
  | .reportComplete v => Sys2Proof.Machine.execReportComplete v s
  | .reset v => Sys2Proof.Machine.execReset v s
  | .frozenRegisterWrite addr data fabric => Sys2Proof.Machine.execFrozenRegisterWrite addr data fabric s
  | .integrityFailure v => Sys2Proof.Machine.execIntegrityFailure v s
  | .scrubComplete v => Sys2Proof.Machine.execScrubComplete v s
  | .mbxPop v data => Sys2Proof.Machine.execMbxPop v data s
  | .registerWrite addr data => Sys2Proof.Machine.execRegisterWrite addr data s
  | .arm k => Sys2Proof.Machine.execArm k s
  | .zero k => Sys2Proof.Machine.execZero k s
  | .signerSet j => Sys2Proof.Machine.execSignerSet j s
  | .signerClear j => Sys2Proof.Machine.execSignerClear j s
  | .resize v => Sys2Proof.Machine.execResize v s
  | .clearerr v => Sys2Proof.Machine.execClearerr v s
  | .valeKeyWrite v data => Sys2Proof.Machine.execValeKeyWrite v data s
  | .valeAsidWrite v data => Sys2Proof.Machine.execValeAsidWrite v data s
  | .valePrioWrite v data => Sys2Proof.Machine.execValePrioWrite v data s
  | .joiningResourceOwned v r => Sys2Proof.Machine.execJoiningResourceOwned v r s
  | .leavingCoreFree v c => Sys2Proof.Machine.execLeavingCoreFree v c s
  | .rehashSet v => Sys2Proof.Machine.execRehashSet v s
  | .migrationEntry v => Sys2Proof.Machine.execMigrationEntry v s
  | .settleComplete v => Sys2Proof.Machine.execSettleComplete v s
  | .shoot v => Sys2Proof.Machine.execShoot v s
  | .shootComplete v => Sys2Proof.Machine.execShootComplete v s
  | .transRootWrite v data => Sys2Proof.Machine.execTransRootWrite v data s
  | .leaseWrite v data => Sys2Proof.Machine.execLeaseWrite v data s
  | .ccFrameWrite ch k data => Sys2Proof.Machine.execCcFrameWrite ch k data s
  | .capture c => Sys2Proof.Machine.execCapture c s
  | .captureComplete c => Sys2Proof.Machine.execCaptureComplete c s
  | .resume c => Sys2Proof.Machine.execResume c s
  | .discard c => Sys2Proof.Machine.execDiscard c s
  | .abort c => Sys2Proof.Machine.execAbort c s
  | .discardProceed c => Sys2Proof.Machine.execDiscardProceed c s
  | .graphAbortComplete v g => Sys2Proof.Machine.execGraphAbortComplete v g s
  | .teardown v => Sys2Proof.Machine.execTeardown v s
  | .gateBanksWrite c data => Sys2Proof.Machine.execGateBanksWrite c data s
  | .gateWaysWrite n data => Sys2Proof.Machine.execGateWaysWrite n data s
  | .powerLimiting power vdd => Sys2Proof.Machine.execPowerLimiting power vdd s
  | .activateDelay stk => Sys2Proof.Machine.execActivateDelay stk s
  | .retrain p => Sys2Proof.Machine.execRetrain p s
  | .disable p => Sys2Proof.Machine.execDisable p s
  | .partnerDetected p => Sys2Proof.Machine.execPartnerDetected p s
  | .trainingDone p good partner => Sys2Proof.Machine.execTrainingDone p good partner s
  | .trainingFailure p => Sys2Proof.Machine.execTrainingFailure p s
  | .trainingRetry p => Sys2Proof.Machine.execTrainingRetry p s
  | .flitReceive p x first => Sys2Proof.Machine.execFlitReceive p x first s
  | .laneFailure p l => Sys2Proof.Machine.execLaneFailure p l s
  | .laneMapSwitch p => Sys2Proof.Machine.execLaneMapSwitch p s
  | .retrainComplete p good => Sys2Proof.Machine.execRetrainComplete p good s
  | .retrainFailure p => Sys2Proof.Machine.execRetrainFailure p s
  | .domainRequest q => Sys2Proof.Machine.execDomainRequest q s
  | .domainResponse dev id ans => Sys2Proof.Machine.execDomainResponse dev id ans s
  | .domainTimeout dev id done => Sys2Proof.Machine.execDomainTimeout dev id done s
  | .switchCounterReturn c who sw n => Sys2Proof.Machine.execSwitchCounterReturn c who sw n s
  | .hostWindowAccess q => Sys2Proof.Machine.execHostWindowAccess q s
  | .leaseExpiry c va8 => Sys2Proof.Machine.execLeaseExpiry c va8 s
  | .wfill c n => Sys2Proof.Machine.execWfill c n s
  | .mma c n => Sys2Proof.Machine.execMma c n s
  | .mthr c n => Sys2Proof.Machine.execMthr c n s
  | .fillComplete c b => Sys2Proof.Machine.execFillComplete c b s
  | .collExchangeComplete g others => Sys2Proof.Machine.execCollExchangeComplete g others s
  | .run ch => Sys2Proof.Machine.execRun ch s
  | .install ch => Sys2Proof.Machine.execInstall ch s
  | .bankPacketTaken c ch => Sys2Proof.Machine.execBankPacketTaken c ch s
  | .bankCommandComplete ch => Sys2Proof.Machine.execBankCommandComplete ch s
  | .taskMailboxPacket c => Sys2Proof.Machine.execTaskMailboxPacket c s
  | .correctedError c agent => Sys2Proof.Machine.execCorrectedError c agent s
  | .uncorrectableError w => Sys2Proof.Machine.execUncorrectableError w s
  | .basinParityError c b => Sys2Proof.Machine.execBasinParityError c b s
  | .vldxLanding c row => Sys2Proof.Machine.execVldxLanding c row s
  | .add d a b => Sys2Proof.Machine.execAdd d a b s
  | .sub d a b => Sys2Proof.Machine.execSub d a b s
  | .mul d a b => Sys2Proof.Machine.execMul d a b s
  | .mulh d a b => Sys2Proof.Machine.execMulh d a b s
  | .mulhn d a b => Sys2Proof.Machine.execMulhn d a b s
  | .div d a b => Sys2Proof.Machine.execDiv d a b s
  | .divn d a b => Sys2Proof.Machine.execDivn d a b s
  | .rem d a b => Sys2Proof.Machine.execRem d a b s
  | .remn d a b => Sys2Proof.Machine.execRemn d a b s
  | .and d a b => Sys2Proof.Machine.execAnd d a b s
  | .or d a b => Sys2Proof.Machine.execOr d a b s
  | .xor d a b => Sys2Proof.Machine.execXor d a b s
  | .andn d a b => Sys2Proof.Machine.execAndn d a b s
  | .shl d a b => Sys2Proof.Machine.execShl d a b s
  | .shr d a b => Sys2Proof.Machine.execShr d a b s
  | .sar d a b => Sys2Proof.Machine.execSar d a b s
  | .min d a b => Sys2Proof.Machine.execMin d a b s
  | .max d a b => Sys2Proof.Machine.execMax d a b s
  | .minn d a b => Sys2Proof.Machine.execMinn d a b s
  | .maxn d a b => Sys2Proof.Machine.execMaxn d a b s
  | .clz d a => Sys2Proof.Machine.execClz d a s
  | .ctz d a => Sys2Proof.Machine.execCtz d a s
  | .popc d a => Sys2Proof.Machine.execPopc d a s
  | .mov d a => Sys2Proof.Machine.execMov d a s
  | .cmpeq d a b => Sys2Proof.Machine.execCmpeq d a b s
  | .cmpne d a b => Sys2Proof.Machine.execCmpne d a b s
  | .cmplt d a b => Sys2Proof.Machine.execCmplt d a b s
  | .cmple d a b => Sys2Proof.Machine.execCmple d a b s
  | .cmpltn d a b => Sys2Proof.Machine.execCmpltn d a b s
  | .cmplen d a b => Sys2Proof.Machine.execCmplen d a b s
  | .sel d a b c => Sys2Proof.Machine.execSel d a b c s
  | .sext d a width => Sys2Proof.Machine.execSext d a width s
  | .zext d a width => Sys2Proof.Machine.execZext d a width s
  | .fshl d a b k => Sys2Proof.Machine.execFshl d a b k s
  | .fshr d a b k => Sys2Proof.Machine.execFshr d a b k s
  | .ins d a b pos len1 => Sys2Proof.Machine.execIns d a b pos len1 s
  | .fadd d a b rnd p => Sys2Proof.Machine.execFadd d a b rnd p s
  | .fmul d a b rnd p => Sys2Proof.Machine.execFmul d a b rnd p s
  | .ffma d a b c rnd p => Sys2Proof.Machine.execFfma d a b c rnd p s
  | .fcmp d a b cond p => Sys2Proof.Machine.execFcmp d a b cond p s
  | .fcvt d a conv rnd => Sys2Proof.Machine.execFcvt d a conv rnd s
  | .jr a => Sys2Proof.Machine.execJr a s
  | .addi d a imm => Sys2Proof.Machine.execAddi d a imm s
  | .andi d a imm => Sys2Proof.Machine.execAndi d a imm s
  | .ori d a imm => Sys2Proof.Machine.execOri d a imm s
  | .xori d a imm => Sys2Proof.Machine.execXori d a imm s
  | .shli d a k => Sys2Proof.Machine.execShli d a k s
  | .shri d a k => Sys2Proof.Machine.execShri d a k s
  | .sari d a k => Sys2Proof.Machine.execSari d a k s
  | .li d imm => Sys2Proof.Machine.execLi d imm s
  | .lih d a imm => Sys2Proof.Machine.execLih d a imm s
  | .lea d a imm => Sys2Proof.Machine.execLea d a imm s
  | .extr d a len1 pos => Sys2Proof.Machine.execExtr d a len1 pos s
  | .csrrd d csr => Sys2Proof.Machine.execCsrrd d csr s
  | .csrwr a csr => Sys2Proof.Machine.execCsrwr a csr s
  | .bz a off => Sys2Proof.Machine.execBz a off s
  | .bnz a off => Sys2Proof.Machine.execBnz a off s
  | .jmp off => Sys2Proof.Machine.execJmp off s
  | .jal off => Sys2Proof.Machine.execJal off s
  | .ld d base rq size span off => Sys2Proof.Machine.execLd d base rq size span off s
  | .st src base rq size span off => Sys2Proof.Machine.execSt src base rq size span off s
  | .pf base rq span off => Sys2Proof.Machine.execPf base rq span off s
  | .fence scope kind => Sys2Proof.Machine.execFence scope kind s
  | .amo d a b op wide => Sys2Proof.Machine.execAmo d a b op wide s
  | .cas d a b c wide => Sys2Proof.Machine.execCas d a b c wide s
  | .barinit a id => Sys2Proof.Machine.execBarinit a id s
  | .bararm a id => Sys2Proof.Machine.execBararm a id s
  | .bararrive a id => Sys2Proof.Machine.execBararrive a id s
  | .barwait a id => Sys2Proof.Machine.execBarwait a id s
  | .bartest d a id => Sys2Proof.Machine.execBartest d a id s
  | .fork id => Sys2Proof.Machine.execFork id s
  | .join id => Sys2Proof.Machine.execJoin id s
  | .lpw a k => Sys2Proof.Machine.execLpw a k s
  | .enq a => Sys2Proof.Machine.execEnq a s
  | .ecancel tag => Sys2Proof.Machine.execEcancel tag s
  | .wptr d ch => Sys2Proof.Machine.execWptr d ch s
  | .estat d e => Sys2Proof.Machine.execEstat d e s
  | .spmask k => Sys2Proof.Machine.execSpmask k s
  | .spmaskn a => Sys2Proof.Machine.execSpmaskn a s
  | .spcount a => Sys2Proof.Machine.execSpcount a s
  | .spflag a => Sys2Proof.Machine.execSpflag a s
  | .spval a => Sys2Proof.Machine.execSpval a s
  | .bpin a x => Sys2Proof.Machine.execBpin a x s
  | .bunpin a x => Sys2Proof.Machine.execBunpin a x s
  | .binval a scope => Sys2Proof.Machine.execBinval a scope s
  | .bprobe d a x => Sys2Proof.Machine.execBprobe d a x s
  | .bfill a x => Sys2Proof.Machine.execBfill a x s
  | .trap k => Sys2Proof.Machine.execTrap k s
  | .brk k => Sys2Proof.Machine.execBrk k s
  | .region bfirst bcount live => Sys2Proof.Machine.execRegion bfirst bcount live s
  | .bkrd d a => Sys2Proof.Machine.execBkrd d a s
  | .bkwr a b => Sys2Proof.Machine.execBkwr a b s
  | .bkred d a b op ty => Sys2Proof.Machine.execBkred d a b op ty s
  | .bkamo d a b op wide => Sys2Proof.Machine.execBkamo d a b op wide s
  | .bksend a => Sys2Proof.Machine.execBksend a s
  | .vadd w => Sys2Proof.Machine.execVadd w s
  | .vsub w => Sys2Proof.Machine.execVsub w s
  | .vmul w => Sys2Proof.Machine.execVmul w s
  | .vfma w => Sys2Proof.Machine.execVfma w s
  | .vfms w => Sys2Proof.Machine.execVfms w s
  | .vneg w => Sys2Proof.Machine.execVneg w s
  | .vabs w => Sys2Proof.Machine.execVabs w s
  | .vmin w => Sys2Proof.Machine.execVmin w s
  | .vmax w => Sys2Proof.Machine.execVmax w s
  | .vcmp w => Sys2Proof.Machine.execVcmp w s
  | .vcvt w => Sys2Proof.Machine.execVcvt w s
  | .vcmul w => Sys2Proof.Machine.execVcmul w s
  | .vcfma w => Sys2Proof.Machine.execVcfma w s
  | .vconj w => Sys2Proof.Machine.execVconj w s
  | .vrcp w => Sys2Proof.Machine.execVrcp w s
  | .vrsq w => Sys2Proof.Machine.execVrsq w s
  | .vsqrt w => Sys2Proof.Machine.execVsqrt w s
  | .vexp2 w => Sys2Proof.Machine.execVexp2 w s
  | .vlog2 w => Sys2Proof.Machine.execVlog2 w s
  | .vtanh w => Sys2Proof.Machine.execVtanh w s
  | .vaddi w => Sys2Proof.Machine.execVaddi w s
  | .vsubi w => Sys2Proof.Machine.execVsubi w s
  | .vmuli w => Sys2Proof.Machine.execVmuli w s
  | .vmulhi w => Sys2Proof.Machine.execVmulhi w s
  | .vand w => Sys2Proof.Machine.execVand w s
  | .vor w => Sys2Proof.Machine.execVor w s
  | .vxor w => Sys2Proof.Machine.execVxor w s
  | .vandn w => Sys2Proof.Machine.execVandn w s
  | .vshl w => Sys2Proof.Machine.execVshl w s
  | .vshr w => Sys2Proof.Machine.execVshr w s
  | .vsar w => Sys2Proof.Machine.execVsar w s
  | .vfshl w => Sys2Proof.Machine.execVfshl w s
  | .vfshr w => Sys2Proof.Machine.execVfshr w s
  | .vclz w => Sys2Proof.Machine.execVclz w s
  | .vpopc w => Sys2Proof.Machine.execVpopc w s
  | .vmini w => Sys2Proof.Machine.execVmini w s
  | .vmaxi w => Sys2Proof.Machine.execVmaxi w s
  | .vshuf w => Sys2Proof.Machine.execVshuf w s
  | .vsel w => Sys2Proof.Machine.execVsel w s
  | .vbcast w => Sys2Proof.Machine.execVbcast w s
  | .vrot w => Sys2Proof.Machine.execVrot w s
  | .vred w => Sys2Proof.Machine.execVred w s
  | .vscan w => Sys2Proof.Machine.execVscan w s
  | .mand w => Sys2Proof.Machine.execMand w s
  | .mor w => Sys2Proof.Machine.execMor w s
  | .mxor w => Sys2Proof.Machine.execMxor w s
  | .mnot w => Sys2Proof.Machine.execMnot w s
  | .mpop w => Sys2Proof.Machine.execMpop w s
  | .vpopv w => Sys2Proof.Machine.execVpopv w s
  | .vrep w => Sys2Proof.Machine.execVrep w s
  | .vrepf w => Sys2Proof.Machine.execVrepf w s
  | .vrdv w => Sys2Proof.Machine.execVrdv w s
  | .vld w => Sys2Proof.Machine.execVld w s
  | .vst w => Sys2Proof.Machine.execVst w s
  | .vstm w => Sys2Proof.Machine.execVstm w s
  | .vldx w => Sys2Proof.Machine.execVldx w s
  | .qset w => Sys2Proof.Machine.execQset w s
  | .qadd w => Sys2Proof.Machine.execQadd w s
  | .vzero w => Sys2Proof.Machine.execVzero w s
  | .vsca w => Sys2Proof.Machine.execVsca w s
  | .vend w => Sys2Proof.Machine.execVend w s
  | .illegalEncoding cause word => Sys2Proof.Machine.execIllegalEncoding cause word s
  | .fetchDenied cause addr => Sys2Proof.Machine.execFetchDenied cause addr s
  | .wakeEnd r => Sys2Proof.Machine.execWakeEnd r s
  | .launch => Sys2Proof.Machine.execLaunch s
  | .load => Sys2Proof.Machine.execLoad s
  | .unload => Sys2Proof.Machine.execUnload s
  | .predicateReadComplete => Sys2Proof.Machine.execPredicateReadComplete s
  | .dispatch => Sys2Proof.Machine.execDispatch s
  | .fwStage => Sys2Proof.Machine.execFwStage s
  | .fwActivate => Sys2Proof.Machine.execFwActivate s
  | .secCommandComplete => Sys2Proof.Machine.execSecCommandComplete s
  | .engineFaultDelivery => Sys2Proof.Machine.execEngineFaultDelivery s
  | .tmbxPop => Sys2Proof.Machine.execTmbxPop s
  | .teardownComplete => Sys2Proof.Machine.execTeardownComplete s
  | .loadQueuePerform => Sys2Proof.Machine.execLoadQueuePerform s
  | .storeQueuePerform => Sys2Proof.Machine.execStoreQueuePerform s
  | .recordBegin => Sys2Proof.Machine.execRecordBegin s
  | .cpy => Sys2Proof.Machine.execCpy s
  | .cpyfill => Sys2Proof.Machine.execCpyfill s
  | .cpybulk => Sys2Proof.Machine.execCpybulk s
  | .bulkBankReserved => Sys2Proof.Machine.execBulkBankReserved s
  | .cpyclose => Sys2Proof.Machine.execCpyclose s
  | .bulkReservationTimeout => Sys2Proof.Machine.execBulkReservationTimeout s
  | .gather => Sys2Proof.Machine.execGather s
  | .scatter => Sys2Proof.Machine.execScatter s
  | .copyRecordComplete => Sys2Proof.Machine.execCopyRecordComplete s
  | .rowLanding => Sys2Proof.Machine.execRowLanding s
  | .matrixRecordComplete => Sys2Proof.Machine.execMatrixRecordComplete s
  | .coll => Sys2Proof.Machine.execColl s
  | .managementReset => Sys2Proof.Machine.execManagementReset s
  | .stopSpacing => Sys2Proof.Machine.execStopSpacing s
  | .laneWriteLanding => Sys2Proof.Machine.execLaneWriteLanding s
  | .mark => Sys2Proof.Machine.execMark s
  | .eret => Sys2Proof.Machine.execEret s
  | .halt => Sys2Proof.Machine.execHalt s
  | .bkend => Sys2Proof.Machine.execBkend s
  | .loadComplete => Sys2Proof.Machine.execLoadComplete s
  | .deviceReset => Sys2Proof.Machine.execDeviceReset s

end Sys2Proof.Machine
end

