-- ==== Sys2Proof/Machine/Schedule.lean ====
section
/-! DEFINITION. Machine/Schedule.lean: which agent acts next, what may happen beside the instruction streams, and where a program
stands (log 1, log 2, log 6). The spec orders the agents only where a rule says so: the agenda may hold any schedule. -/
namespace Sys2Proof.Machine

/-! ## What can happen by itself (log 1) -/

/-- Rows that only the store to a register brings about (R313): they follow from the store and do not happen alone. -/
def commandWrite : Instr → Bool
  | .lock _ | .start _ | .stop _ | .report _ | .reset _ | .frozenRegisterWrite .. | .mbxPop .. | .registerWrite ..
  | .arm _ | .zero _ | .signerSet _ | .signerClear _ | .resize _ | .clearerr _ | .valeKeyWrite .. | .valeAsidWrite ..
  | .valePrioWrite .. | .shoot _ | .transRootWrite .. | .leaseWrite .. | .ccFrameWrite .. | .capture _ | .resume _
  | .discard _ | .abort _ | .teardown _ | .gateBanksWrite .. | .gateWaysWrite .. | .retrain _ | .disable _ | .tmbxPop
  | .fwStage | .fwActivate => true
  | _ => false

/-- A word that no stream decodes, and a task's store, which leaves its store queue (R25, R207). -/
def streamRow : Instr → Bool
  | .illegalEncoding .. | .fetchDenied .. => true
  | .endpointStore (.core _) .. => true
  | _ => false

/-- A row that may happen as an event: no word of a stream, and no register store. -/
def happens (i : Instr) : Bool := (encode i).isNone && !commandWrite i && !streamRow i

/-! ## Candidates for the next act: each row checks itself whether it is due -/

/-- An active matrix record (R250, R252 to R254). -/
def matrixAct (c : Fin 256) (a : Active) : Instr :=
  if a.ready then .matrixRecordComplete
  else if a.r.op = 0x10 then .wfill c a.num
  else if a.r.op = 0x11 then .mma c a.num
  else .mthr c a.num

/-- The active record of a copy channel (R218 to R225). -/
def copyAct (a : Active) : Instr :=
  if a.ready then .copyRecordComplete
  else match a.r.op with
    | 1 => .cpy
    | 2 => .cpyfill
    | 3 => .cpybulk
    | 4 => .cpyclose
    | 5 => .gather
    | _ => .scatter

/-- The exchanges that records of core `c` have joined, of a task that has left it too (R307, R326). -/
def collActs (s : State) (c : Fin 256) : List Instr :=
  ((List.finRange 64).filter fun g => match (s.hub.colls[g]).pend with
    | some p => decide (p.core = c)
    | none => false).map fun g => .collExchangeComplete g []

/-- The acts of an engine. -/
def engineActs (s : State) (c : Fin 256) (e : Fin 4) : List Instr :=
  let k := s.core c
  let x := k.eng e
  let begin_ : List Instr := if x.queue.isEmpty then [] else [.recordBegin]
  if e = 2 then
    x.active.map (matrixAct c) ++ (if x.active.isEmpty then [] else [.rowLanding]) ++
    ((List.finRange 32).filter fun b => let y : Basin := k.basins[b]; decide (y.st = .filling)).map (.fillComplete c) ++ begin_
  else if e = 3 then
    (if x.active.isEmpty then [] else [.coll]) ++ collActs s c ++ begin_
  else
    x.active.map copyAct ++ (if x.waiting.isSome then [.bulkBankReserved] else []) ++
    (if (heldBank s c e).isSome then [.bulkReservationTimeout] else []) ++ begin_

/-- The acts of a vale's loader and graph engine. -/
def graphActs (s : State) (v : Fin 16) : List Instr :=
  let x := s.vale v
  (if x.commands.isEmpty then [] else [.load, .launch, .unload]) ++ (if x.load.isSome then [.loadComplete] else []) ++
  (if x.preds.isEmpty then [] else [.predicateReadComplete]) ++ (if x.graphs.isEmpty then [] else [.dispatch]) ++
  (x.lag.map fun y => .shadowUpdate v y.core) ++
  ((x.images.filter (·.leaving)).map fun i => .imageUnloadComplete v i.base) ++
  ((x.graphs.filter (·.aborted)).map fun g => .graphAbortComplete v g.num) ++
  ((List.finRange 3).filter fun f => !(x.fifos[f.castSucc]).isEmpty).map (.fifoAgePromotion v)

/-- The acts of a lead slice beside its stream. -/
def leadActs (s : State) (who : LeadId) : List Instr :=
  let l := s.ls who
  (if l.lq.isEmpty then [] else [.loadQueuePerform]) ++ (if l.sq.isEmpty then [] else [.storeQueuePerform]) ++
  (match who with
   | .core c => if (undelivered (s.core c)).isSome && !(s.core c).due then [.engineFaultDelivery] else []
   | .mgmt => [])

/-- The acts of a lane slice beside its stream. -/
def laneActs (s : State) (c : Fin 256) : List Instr :=
  let l := (s.core c).lane
  (if l.flight.isEmpty && l.gathers.isEmpty then [] else [.laneWriteLanding]) ++ (l.gathers.map fun g => .vldxLanding c g.row) ++
  (if 64 ≤ l.spacing then [.stopSpacing] else [])

/-- The acts of a resize in progress (R57 to R65). -/
def resizeActs (s : State) (v : Fin 16) : List Instr :=
  match (s.vale v).resize with
  | none => []
  | some z =>
    (((List.finRange 256).filter fun c => z.joinC.getLsbD c.val).map fun c => .joiningResourceOwned v (.core c)) ++
    (((List.finRange 128).filter fun c => z.joinS.getLsbD c.val).map fun c => .joiningResourceOwned v (.slice c)) ++
    (((List.finRange 512).filter fun c => z.joinCh.getLsbD c.val).map fun c => .joiningResourceOwned v (.channel c)) ++
    (((List.finRange 256).filter fun c => z.transC.getLsbD c.val).map fun c => .leavingCoreFree v c) ++
    [.rehashSet v, .migrationEntry v, .settleComplete v]

/-- The acts of a vale's blocks. -/
def valeActs (s : State) (v : Fin 16) : List Instr :=
  let x := s.vale v
  (if x.iface.reportBusy then [.reportComplete v] else []) ++ (if x.iface.scrubBusy then [.scrubComplete v] else []) ++
  (if x.shootBusy then [.shootComplete v] else []) ++ resizeActs s v

/-- The acts of a channel's bank unit beside its runs. -/
def channelActs (s : State) (ch : Fin 512) : List Instr :=
  match (s.chan ch).serving with
  | some _ => [.bankCommandComplete ch]
  | none => if (s.chan ch).fifo.isEmpty then [] else [.run ch, .install ch]

/-- The acts of a core's block. -/
def coreActs (s : State) (c : Fin 256) : List Instr :=
  if (s.core c).stop.isSome then [.captureComplete c, .discardProceed c] else []

/-- Banks and ways that are waking (R214). -/
def wakeActs (s : State) : List Instr :=
  ((List.finRange 256).flatMap fun c =>
    ((List.finRange 32).filter fun b => (s.hub.wakingBanks[c]).getLsbD b.val).map fun b => .wakeEnd (.bank c b)) ++
  ((List.finRange 128).flatMap fun x =>
    ((List.finRange 16).filter fun w => (s.hub.wakingWays[x]).getLsbD w.val).map fun w => .wakeEnd (.way x w))

/-- The acts of the blocks of the device. -/
def deviceActs (s : State) : List Instr :=
  ((List.finRange 16).flatMap (valeActs s)) ++ ((List.finRange 512).flatMap (channelActs s)) ++
  ((List.finRange 256).flatMap (coreActs s)) ++ wakeActs s ++ (if s.sec.busy then [.secCommandComplete] else []) ++
  (if s.hub.teardown.isSome then [.teardownComplete] else []) ++ (s.hub.opens.map fun p => .packetTimeout p.src p.ep) ++
  ((s.hub.reqs.filter (requestLate s)).map fun r => .domainTimeout r.dev r.id false) ++
  (s.hub.inbound.map fun x => match x.asks with
    | .inl q => .domainRequest q
    | .inr q => .hostWindowAccess q)

/-! ## Moves -/

/-- One of a list, by the number of the step. -/
def rotate {α : Type} (n : Nat) (l : List α) : Option α := l[n % l.length]?

/-- The instruction or act with which an agent moves, if it can move at all. -/
def nextMove (s : State) : Agent → Option Instr
  | .mgmt => some (fetchLead s .mgmt)
  | .lead c => if canIssue s (.core c) && !fetchHeld s c false (s.core c).ls.pc then some (fetchLead s (.core c)) else none
  | .lane c => if laneActive (s.core c) && !fetchHeld s c true (s.core c).lane.pc then some (fetchLane s c) else none
  | .bank ch r => match (s.chan ch).serving with
    | some sv => match sv.runs[r]? with
      | some run => if run.finished then none else some (fetchBank sv run)
      | none => none
    | none => none
  | .engine c e => rotate s.ticks (engineActs s c e)
  | .graph v => rotate s.ticks (graphActs s v)
  | .device => rotate s.ticks (deviceActs s)

/-- What fetching leaves behind: the word's line in L1 and the fetch buffer, a lane word in the replay buffer (R69, R70, R138). -/
def afterFetch (s : State) : Agent → State
  | .lead c => noteLeadFetch s c
  | .lane c => noteFetch s c
  | _ => s

/-- The agent `a` takes its turn; an agent that cannot move leaves it to the management core. -/
def moveAgent (s : State) (a : Agent) : Out :=
  match nextMove s a with
  | some i => exec i { afterFetch s a with turn := a, stalled := false }
  | none => .next { s with turn := .mgmt, stalled := false }

/-- Change the next state of an outcome. -/
def onNext (o : Out) (f : State → State) : Out :=
  match o with
  | .next s => .next (f s)
  | .fault x => .fault x
  | .refused x => .refused x

/-- The row `i` happens at agent `a`; the agent in turn stays in turn. -/
def happenAt (s : State) (a : Agent) (i : Instr) : Out :=
  onNext (exec i { s with turn := a }) fun s' => { s' with turn := s.turn }

/-- Drop the L1 words of a virtual word: an exclusive copy goes with its span (R203, R269). -/
def dropL1 (s : State) (c : Fin 256) (va8 : Nat) : State :=
  let k := s.core c
  let spans := (k.l1.filter fun x => decide (x.va8 = va8) && decide (x.rq = 0)).flatMap (·.spans)
  s.setCore c { k with l1 := k.l1.filter fun x => !(decide (x.va8 = va8) || (decide (x.rq = 0) && x.inSpans spans)) }

/-- What is due on the agenda. -/
def performAct (s : State) : Act → Out
  | .move a => moveAgent s a
  | .event a i => if happens i then happenAt s a i else .next s
  | .wait ns => .next { s with now := s.now + BitVec.ofNat 64 ns }
  | .drop c va8 => .next (dropL1 s c va8)
  | .cacheTranslation die v va => .next (if topByte va = 0 then cachePage s die v va.toNat else s)
  | .evictTranslation die asid page => .next (shootPages s asid fun e => decide (e.die = die) && decide (e.page = page))
  | .fillLine v line =>
    .next (if (s.vale v).channels.getLsbD (channelOf (128 * line)) && !bankHeld s none (bankOf (128 * line)) then
      touchLine s v line false else s)
  | .evictLine i line =>
    .next (dropLines s fun j x => decide (j = i) && decide (x.line = line) &&
      !(x.dirty && bankHeld s none (bankOf (128 * line))))
  | .prefetch c lane va => .next (prefetchLine s c lane va)
  | .chunk n => .next { s with chunk := n }
  | .bold b => .next { s with bold := b }
  | .split b => .next { s with split := b }
  | .sendStore v => .next (sendStore s v)
  | .joined g seq => .next (otherJoins s g seq)
  | .sendFlit p payload credits => .next (sendFlit s p payload credits)
  | .replayFlits p from_ => .next (replayFlits s p from_)

/-! ## A stalled agent: another acts -/

/-- Everything that another agent may do next. -/
def otherActs (s : State) : List Act :=
  let events (a : Agent) (l : List Instr) : List Act := l.map (.event a)
  ((List.finRange 256).flatMap fun c =>
    let k := s.core c
    events (.lead c) (leadActs s (.core c)) ++ events (.lane c) (laneActs s c) ++
    ((List.finRange 4).flatMap fun e => events (.engine c e) (engineActs s c e)) ++
    (if canIssue s (.core c) then [.move (.lead c)] else []) ++ (if laneActive k then [.move (.lane c)] else [])) ++
  ((List.finRange 16).flatMap fun v => events (.graph v) (graphActs s v) ++
    (if (s.vale v).outgoing.isEmpty then [] else [.sendStore v])) ++
  ((List.finRange 512).flatMap fun ch => match (s.chan ch).serving with
    | some sv => ((List.range sv.runs.length).map fun r => .move (.bank ch r))
    | none => []) ++
  events .mgmt (leadActs s .mgmt) ++ events .device (deviceActs s) ++ [.move .mgmt]

/-- The agent in turn waits: another act is done, and the agent tries again (log 1). -/
def stalledStep (s : State) : Out :=
  match rotate (s.ticks / 2) (otherActs s) with
  | some x => onNext (performAct s x) fun s' => { s' with turn := s.turn, stalled := false }
  | none => .next { s with stalled := false }

/-- What happens in one step: what is on the agenda, or a move of the agent in turn, or of another while it waits. -/
def stepActs (s : State) : Out :=
  match s.agenda with
  | x :: rest => performAct { s with agenda := rest } x
  | [] => if s.stalled then stalledStep s else moveAgent s s.turn

/-- The activates of the last microsecond in each stack (R294; log 18). -/
def passActivates (n : Nat) (hbm : Vector Stack 8) : Vector Stack 8 :=
  Vector.ofFn fun i => hbm[i].pass (Config.activates n i.val)

/-- Time passes over a step (log 2). -/
def passTime (s s' : State) : State :=
  { s' with now := s'.now + BitVec.ofNat 64 (Config.elapsedNs s.ticks), ticks := s'.ticks + 1
            hbm := passActivates s.ticks s'.hbm }

/-! ## Where a program stands (log 6) -/

/-- A word of a lead stream is placed at the fetch address of the management core. -/
def placeLead (s : State) (w : Nat) : State :=
  { s with
    turn := .mgmt, agenda := [], stalled := false
    mgmt := { s.mgmt with fw := memPut s.mgmt.fw (s.mgmt.ls.pc.toNat - 0x00FF000000000000) 4 w } }

/-- A handler word is placed as the first word of handler 0 of channel 0, which serves a command with one run. -/
def placeHandler (s : State) (w : Nat) : State :=
  let cmd : BankCmd :=
    { core := 0, epoch := 0, vale := 0, words := #v[0x100000001, 0, 0x0000000700000400, 0, 0, 0], pa := some (0, true) }
  { s.setChan 0 { s.chan 0 with
      handlers := (s.chan 0).handlers.set 0 (some (BitVec.ofNat 32 w :: List.replicate 63 0))
      serving := some
        { cmd := cmd, code := BitVec.ofNat 32 w :: List.replicate 63 0, status := 0, runs := startRuns cmd, combiner := none,
          ended := 0 } } with
    turn := .bank 0 0, agenda := [], stalled := false }

/-- The image whose lane section holds one page from its second page on. -/
def laneImage : Image :=
  { base := 0x3000, len := 0x2000, signer := 0, entry := 0, scratch := 4096,
    sections := [{ kind := 2, len := 0x1000, off := 0x1000, sig := 0 }], syncs := [], leaving := false }

/-- A lane word is placed at the start of a stream of core 0: its task runs for vale 0, which owns the core and the channel
of physical address 0 and is keyed; tables map virtual page 4 to physical page 4. -/
def placeLane (s : State) (w : Nat) : State :=
  let x := { s.vale 0 with cores := 1, channels := 1, key := 0, keyLost := false, root := 0, images := [laneImage] }
  let t : Task :=
    { vale := 0, graph := 0, node := 0, inst := 0, image := laneImage.base, args := 0, count := 1, alloc := 0, size := 4096,
      epoch := 0 }
  let k := s.core 0
  let k := { k with
    run := .running, task := some t, l1 := []
    ls := { k.ls with lane := true, vended := false }
    lane := LaneSlice.zero.begin 0x4000 0 }
  let s := { s with sec := { s.sec with slots := s.sec.slots.set 0 (some 1), keys := max s.sec.keys 1 } }
  let s := (s.setVale 0 x).setCore 0 k
  let lines : List (Nat × Nat) := [(0x0, 0x1001), (0x1000, 0x2001), (0x2000, 0x1B), (0x4000, w)]
  let s := lines.foldl (fun s p => { s with dram := memPut s.dram p.1 8 p.2, tags := alSet (0, 0) s.tags (p.1 / 128) (1, 1) }) s
  { s with turn := .lane 0, agenda := [], stalled := false, pages := [] }

/-- The word is one of the bank words, which only a handler run decodes (R96). -/
def handlerOnly (w : Nat) : Bool :=
  match decodeTableWord 32 w with
  | some i => match i with
    | .bkrd .. | .bkwr .. | .bkred .. | .bkamo .. | .bksend .. | .bkend => true
    | _ => false
  | none => false

/-- The instruction whose bits are `w` stands where the next step fetches. -/
def placeWord (s : State) (nbits w : Nat) : State :=
  if 32 < nbits then placeLane s w
  else if handlerOnly w then placeHandler s w
  else placeLead s w

end Sys2Proof.Machine
end

