-- ==== Sys2Proof/Machine/Step.lean ====
section
/-! DEFINITION. Machine/Step.lean: one step of the machine, and a program's first word (log 1, log 2, log 6). -/
namespace Sys2Proof.Machine

/-- One step: one act of one agent or one event, and the time it takes. -/
def step (s : State) : Host.Outcome State Fault Refusal := onNext (stepActs s) (passTime s)

/-- The state with the instruction of a table word where the next step fetches. -/
def State.withFetchWord (s : State) (nbits w : Nat) : State := placeWord s nbits w

end Sys2Proof.Machine
end

