-- ==== Sys2Proof/Safety.lean ====
section
/-! DEFINITION. Safety.lean: what a safe step is. No rule of the spec stops this machine, so a step is safe when it gives a next
state, and a state is sound when its memories are in canonical form. -/
namespace Sys2Proof.Machine

/-- The step gives a next state. -/
def StepSafe (s : State) : Prop := ∃ t, step s = .next t

/-- Every memory of the machine is in canonical form: DRAM with its key tags, the firmware store, every scratchpad. -/
def MemoriesWf (s : State) : Prop :=
  s.dram.wf = true ∧ alWfFrom (0, 0) 0 s.tags = true ∧ s.mgmt.fw.wf = true ∧ ∀ c : Fin 256, (s.core c).scratch.wf = true

end Sys2Proof.Machine
end

