-- ==== Sys2Proof/WellFormed.lean ====
section
/-! DEFINITION. WellFormed.lean: which terms of Instr stand for a word the spec admits (R73 to R97).
Sync IDs are judged against the image when the word is reached (R84), so every ID is well formed here. -/
namespace Sys2Proof

/-- A destination that the spec admits: the belt (0) or a named register (R77). -/
def dstOk (d : BitVec 5) : Bool := decide (d = 0) || decide (16 ≤ d)

/-- A lane word whose fields break no rule of R86 to R90 and of its table (R146 to R173). -/
def laneOk (op : Nat) (w : LaneWord) : Bool := (laneCause op w).isNone

/-- The operands of an instruction hold values that its encoding admits. An event has no encoding. -/
def Instr.wf : Instr → Bool
  | .endpointStore _ _ _ _ _ => true
  | .packetTimeout _ _ => true
  | .imageUnloadComplete _ _ => true
  | .fifoAgePromotion _ _ => true
  | .shadowUpdate _ _ => true
  | .lock _ => true
  | .start _ => true
  | .stop _ => true
  | .report _ => true
  | .reportComplete _ => true
  | .reset _ => true
  | .frozenRegisterWrite _ _ _ => true
  | .integrityFailure _ => true
  | .scrubComplete _ => true
  | .mbxPop _ _ => true
  | .registerWrite _ _ => true
  | .arm _ => true
  | .zero _ => true
  | .signerSet _ => true
  | .signerClear _ => true
  | .resize _ => true
  | .clearerr _ => true
  | .valeKeyWrite _ _ => true
  | .valeAsidWrite _ _ => true
  | .valePrioWrite _ _ => true
  | .joiningResourceOwned _ _ => true
  | .leavingCoreFree _ _ => true
  | .rehashSet _ => true
  | .migrationEntry _ => true
  | .settleComplete _ => true
  | .shoot _ => true
  | .shootComplete _ => true
  | .transRootWrite _ _ => true
  | .leaseWrite _ _ => true
  | .ccFrameWrite _ _ _ => true
  | .capture _ => true
  | .captureComplete _ => true
  | .resume _ => true
  | .discard _ => true
  | .abort _ => true
  | .discardProceed _ => true
  | .graphAbortComplete _ _ => true
  | .teardown _ => true
  | .gateBanksWrite _ _ => true
  | .gateWaysWrite _ _ => true
  | .powerLimiting _ _ => true
  | .activateDelay _ => true
  | .retrain _ => true
  | .disable _ => true
  | .partnerDetected _ => true
  | .trainingDone _ _ _ => true
  | .trainingFailure _ => true
  | .trainingRetry _ => true
  | .flitReceive _ _ _ => true
  | .laneFailure _ _ => true
  | .laneMapSwitch _ => true
  | .retrainComplete _ _ => true
  | .retrainFailure _ => true
  | .domainRequest _ => true
  | .domainResponse _ _ _ => true
  | .domainTimeout _ _ _ => true
  | .switchCounterReturn _ _ _ _ => true
  | .hostWindowAccess _ => true
  | .leaseExpiry _ _ => true
  | .wfill _ _ => true
  | .mma _ _ => true
  | .mthr _ _ => true
  | .fillComplete _ _ => true
  | .collExchangeComplete _ _ => true
  | .run _ => true
  | .install _ => true
  | .bankPacketTaken _ _ => true
  | .bankCommandComplete _ => true
  | .taskMailboxPacket _ => true
  | .correctedError _ _ => true
  | .uncorrectableError _ => true
  | .basinParityError _ _ => true
  | .vldxLanding _ _ => true
  | .add d _ _ => dstOk d
  | .sub d _ _ => dstOk d
  | .mul d _ _ => dstOk d
  | .mulh d _ _ => dstOk d
  | .mulhn d _ _ => dstOk d
  | .div d _ _ => dstOk d
  | .divn d _ _ => dstOk d
  | .rem d _ _ => dstOk d
  | .remn d _ _ => dstOk d
  | .and d _ _ => dstOk d
  | .or d _ _ => dstOk d
  | .xor d _ _ => dstOk d
  | .andn d _ _ => dstOk d
  | .shl d _ _ => dstOk d
  | .shr d _ _ => dstOk d
  | .sar d _ _ => dstOk d
  | .min d _ _ => dstOk d
  | .max d _ _ => dstOk d
  | .minn d _ _ => dstOk d
  | .maxn d _ _ => dstOk d
  | .clz d _ => dstOk d
  | .ctz d _ => dstOk d
  | .popc d _ => dstOk d
  | .mov d _ => dstOk d
  | .cmpeq d _ _ => dstOk d
  | .cmpne d _ _ => dstOk d
  | .cmplt d _ _ => dstOk d
  | .cmple d _ _ => dstOk d
  | .cmpltn d _ _ => dstOk d
  | .cmplen d _ _ => dstOk d
  | .sel d _ _ _ => dstOk d
  | .sext d _ width => dstOk d && decide (width ≠ 3)
  | .zext d _ width => dstOk d && decide (width ≠ 3)
  | .fshl d _ _ _ => dstOk d
  | .fshr d _ _ _ => dstOk d
  | .ins d _ _ pos len1 => dstOk d && decide (pos.toNat + len1.toNat + 1 ≤ 64)
  | .fadd d _ _ rnd _ => dstOk d && decide (rnd ≠ 3)
  | .fmul d _ _ rnd _ => dstOk d && decide (rnd ≠ 3)
  | .ffma d _ _ _ rnd _ => dstOk d && decide (rnd ≠ 3)
  | .fcmp d _ _ cond _ => dstOk d && decide (cond ≤ 3)
  | .fcvt d _ _ rnd => dstOk d && decide (rnd ≠ 3)
  | .jr _ => true
  | .addi d _ _ => dstOk d
  | .andi d _ _ => dstOk d
  | .ori d _ _ => dstOk d
  | .xori d _ _ => dstOk d
  | .shli d _ _ => dstOk d
  | .shri d _ _ => dstOk d
  | .sari d _ _ => dstOk d
  | .li d _ => dstOk d
  | .lih d _ _ => dstOk d
  | .lea d _ _ => dstOk d
  | .extr d _ len1 pos => dstOk d && decide (pos.toNat + len1.toNat + 1 ≤ 64)
  | .csrrd d csr => dstOk d && csrDefined csr
  | .csrwr _ csr => csrDefined csr
  | .bz _ _ => true
  | .bnz _ _ => true
  | .jmp _ => true
  | .jal _ => true
  | .ld d _ _ size _ _ => dstOk d && decide (size ≠ 7)
  | .st _ _ _ size _ _ => decide (size ≤ 3)
  | .pf _ _ _ _ => true
  | .fence _ kind => decide (kind ≠ 3)
  | .amo d _ _ op _ => dstOk d && decide (op ≤ 8)
  | .cas d _ _ _ _ => dstOk d
  | .barinit _ _ => true
  | .bararm _ _ => true
  | .bararrive _ _ => true
  | .barwait _ _ => true
  | .bartest d _ _ => dstOk d
  | .fork _ => true
  | .join _ => true
  | .lpw _ _ => true
  | .enq _ => true
  | .ecancel tag => decide (tag ≠ 0)
  | .wptr d _ => dstOk d
  | .estat d _ => dstOk d
  | .spmask k => decide (k.extractLsb' 0 2 = 0)
  | .spmaskn _ => true
  | .spcount _ => true
  | .spflag _ => true
  | .spval _ => true
  | .bpin _ _ => true
  | .bunpin _ _ => true
  | .binval _ _ => true
  | .bprobe d _ _ => dstOk d
  | .bfill _ _ => true
  | .trap _ => true
  | .brk _ => true
  | .region bfirst bcount _ => decide (bcount = 0) || decide (bfirst.toNat + bcount.toNat ≤ 64)
  | .bkrd d _ => dstOk d
  | .bkwr _ _ => true
  | .bkred d _ _ op ty => dstOk d && decide (ty ≤ 11) && (decide (op ≠ 3) || decide (ty < 8))
  | .bkamo d _ _ op _ => dstOk d && decide (op ≤ 8)
  | .bksend _ => true
  | .vadd w => laneOk 0x00 w
  | .vsub w => laneOk 0x01 w
  | .vmul w => laneOk 0x02 w
  | .vfma w => laneOk 0x03 w
  | .vfms w => laneOk 0x04 w
  | .vneg w => laneOk 0x05 w
  | .vabs w => laneOk 0x06 w
  | .vmin w => laneOk 0x07 w
  | .vmax w => laneOk 0x08 w
  | .vcmp w => laneOk 0x09 w
  | .vcvt w => laneOk 0x0A w
  | .vcmul w => laneOk 0x10 w
  | .vcfma w => laneOk 0x11 w
  | .vconj w => laneOk 0x12 w
  | .vrcp w => laneOk 0x18 w
  | .vrsq w => laneOk 0x19 w
  | .vsqrt w => laneOk 0x1A w
  | .vexp2 w => laneOk 0x1B w
  | .vlog2 w => laneOk 0x1C w
  | .vtanh w => laneOk 0x1D w
  | .vaddi w => laneOk 0x20 w
  | .vsubi w => laneOk 0x21 w
  | .vmuli w => laneOk 0x22 w
  | .vmulhi w => laneOk 0x23 w
  | .vand w => laneOk 0x24 w
  | .vor w => laneOk 0x25 w
  | .vxor w => laneOk 0x26 w
  | .vandn w => laneOk 0x27 w
  | .vshl w => laneOk 0x28 w
  | .vshr w => laneOk 0x29 w
  | .vsar w => laneOk 0x2A w
  | .vfshl w => laneOk 0x2B w
  | .vfshr w => laneOk 0x2C w
  | .vclz w => laneOk 0x2D w
  | .vpopc w => laneOk 0x2E w
  | .vmini w => laneOk 0x2F w
  | .vmaxi w => laneOk 0x30 w
  | .vshuf w => laneOk 0x38 w
  | .vsel w => laneOk 0x39 w
  | .vbcast w => laneOk 0x3A w
  | .vrot w => laneOk 0x3B w
  | .vred w => laneOk 0x3C w
  | .vscan w => laneOk 0x3D w
  | .mand w => laneOk 0x40 w
  | .mor w => laneOk 0x41 w
  | .mxor w => laneOk 0x42 w
  | .mnot w => laneOk 0x43 w
  | .mpop w => laneOk 0x44 w
  | .vpopv w => laneOk 0x48 w
  | .vrep w => laneOk 0x49 w
  | .vrepf w => laneOk 0x4A w
  | .vrdv w => laneOk 0x4B w
  | .vld w => laneOk 0x50 w
  | .vst w => laneOk 0x51 w
  | .vstm w => laneOk 0x52 w
  | .vldx w => laneOk 0x53 w
  | .qset w => laneOk 0x54 w
  | .qadd w => laneOk 0x55 w
  | .vzero w => laneOk 0x58 w
  | .vsca w => laneOk 0x59 w
  | .vend w => laneOk 0x5A w
  | .illegalEncoding _ _ => true
  | .fetchDenied _ _ => true
  | .wakeEnd _ => true
  | .launch => true
  | .load => true
  | .unload => true
  | .predicateReadComplete => true
  | .dispatch => true
  | .fwStage => true
  | .fwActivate => true
  | .secCommandComplete => true
  | .engineFaultDelivery => true
  | .tmbxPop => true
  | .teardownComplete => true
  | .loadQueuePerform => true
  | .storeQueuePerform => true
  | .recordBegin => true
  | .cpy => true
  | .cpyfill => true
  | .cpybulk => true
  | .bulkBankReserved => true
  | .cpyclose => true
  | .bulkReservationTimeout => true
  | .gather => true
  | .scatter => true
  | .copyRecordComplete => true
  | .rowLanding => true
  | .matrixRecordComplete => true
  | .coll => true
  | .managementReset => true
  | .stopSpacing => true
  | .laneWriteLanding => true
  | .mark => true
  | .eret => true
  | .halt => true
  | .bkend => true
  | .loadComplete => true
  | .deviceReset => true

end Sys2Proof
end

