-- ==== Sys2Proof/Certificates/Slice0/Obligations.lean ====
section
/-! DEFINITION. Certificates/Slice0/Obligations.lean: the statements for the provers, each a Prop named Obligations.<Name>, and the
vocabulary they share. -/
open Sys2Proof Sys2Proof.Machine

namespace Sys2Proof.Machine

/-! ## Vocabulary: what stands before and after an instruction -/

/-- An access of the lead slice that is out holds back what cannot be taken back: it has failed, or it is not one that does not fail
(log 8). -/
def heldUp (s : State) (who : LeadId) : Bool := (s.ls who).holdsBack fun _ => true

/-- The lead slice `who` stands at an issue boundary (R297, R298, R306) at which its instruction issues: it is in turn, it
issues, no report is due, no access of its own holds it back, and no committing access demands a REGION or HALT. -/
def LeadReady (s : State) (who : LeadId) : Prop :=
  leadInTurn s = some who ∧ canIssue s who = true ∧ firstReport s who = none ∧ heldUp s who = false ∧
  committed s who = false ∧ dueReport s who = none

/-- The lead slice `who` issues an instruction that does nothing but compute: it is ready, or an access of its own holds back what
cannot be taken back and none has failed for good, in which case what the instruction does can be taken back (log 8). -/
def LeadRuns (s : State) (who : LeadId) : Prop :=
  LeadReady s who ∨
  (leadInTurn s = some who ∧ canIssue s who = true ∧ firstReport s who = none ∧ heldUp s who = true ∧ failDue (s.ls who) = false ∧
    committed s who = false ∧ dueReport s who = none)

/-- The state in which the lead slice `who` has become `l` and nothing else has changed. -/
def leadNow (s : State) (who : LeadId) (l : LeadSlice) : State := { s.setLs who l with stalled := false }

/-- A result goes to the belt or to a named register (R77), and the next word is fetched (R69). -/
def withResult (l : LeadSlice) (d : BitVec 5) (v : Word) : LeadSlice := nextPc (writeDst l d v)

/-- The instruction `i` of one source computes `f` into `d`: its next state holds the result and nothing else is new. -/
def Computes1 (i : Instr) (d a : BitVec 5) (f : Word → Word) : Prop :=
  ∀ s who x, LeadRuns s who → readSrc (s.ls who) a = some x →
    exec i s = .next (leadNow s who (withResult (s.ls who) d (f x)))

/-- The instruction `i` of two sources computes `f` into `d`. -/
def Computes2 (i : Instr) (d a b : BitVec 5) (f : Word → Word → Word) : Prop :=
  ∀ s who x y, LeadRuns s who → readSrc (s.ls who) a = some x → readSrc (s.ls who) b = some y →
    exec i s = .next (leadNow s who (withResult (s.ls who) d (f x y)))

/-- The instruction `i` of three sources computes `f` into `d`. -/
def Computes3 (i : Instr) (d a b c : BitVec 5) (f : Word → Word → Word → Word) : Prop :=
  ∀ s who x y z, LeadRuns s who → readSrc (s.ls who) a = some x → readSrc (s.ls who) b = some y →
    readSrc (s.ls who) c = some z → exec i s = .next (leadNow s who (withResult (s.ls who) d (f x y z)))

/-- Everything but the lead slice `who` is as before. -/
def SameBeside (s t : State) (who : LeadId) : Prop :=
  t.dram = s.dram ∧ t.tags = s.tags ∧ t.pages = s.pages ∧ t.l2 = s.l2 ∧ t.bulk = s.bulk ∧ t.chunk = s.chunk ∧
  t.poison = s.poison ∧ t.vales = s.vales ∧ t.chans = s.chans ∧
  t.hbm = s.hbm ∧ t.ports = s.ports ∧ t.sec = s.sec ∧ t.hub = s.hub ∧ t.outbox = s.outbox ∧ t.now = s.now ∧
  t.turn = s.turn ∧ t.agenda = s.agenda ∧ t.bold = s.bold ∧ t.split = s.split ∧ t.ticks = s.ticks ∧
  t.draws = s.draws ∧ t.mgmt.fw = s.mgmt.fw ∧
  (who ≠ .mgmt → t.mgmt = s.mgmt) ∧ (∀ c, who ≠ .core c → t.core c = s.core c) ∧
  (∀ c, who = .core c → { t.core c with ls := (s.core c).ls } = s.core c)

/-- Of a lead slice nothing changes but the fetch address, and the belt where `d` is 0 or the register that `d` names. -/
def SameButResult (l m : LeadSlice) (d : BitVec 5) : Prop :=
  { m with pc := l.pc, belt := l.belt, n := l.n } = l ∧ (d ≠ 0 → m.belt = l.belt) ∧
  ∀ k : Fin 16, d.toNat ≠ 16 + k.val → m.n[k] = l.n[k]

/-- DRAM and the key tags of its lines are in canonical form. -/
def DramWfAt (s : State) : Prop := s.dram.wf = true ∧ alWfFrom (0, 0) 0 s.tags = true

/-- A word under a condition (R8). -/
def truth (b : Bool) : Word := if b then 1 else 0

end Sys2Proof.Machine

/-! ## Encodings -/

/-- Decoding the word of a well-formed instruction gives the instruction back, with every operand (R76 to R97, R286). -/
def Obligations.DecodeEncode : Prop := ∀ i w, encode i = some w → i.wf = true → decode w = .ok i

/-- A word that decodes is the word of the instruction it decodes to, which is well formed: no bit of a word is ignored and no
two words mean the same (R74, R87). -/
def Obligations.EncodeDecode : Prop := ∀ w i, decode w = .ok i → encode i = some w ∧ i.wf = true

/-- Words that the spec writes out: LI, LIH, FFMA, LPW, CSRWR and TRAP stand for the instructions it says. -/
def Obligations.WrittenWords : Prop :=
  decode (.w32 0x3C000123) = .ok (.li 0 0x0123) ∧ decode (.w32 0x40004567) = .ok (.lih 0 0 0x4567) ∧
  decode (.w32 0x1378CE82) = .ok (.ffma 27 24 25 26 0 false) ∧ decode (.w32 0xA8160083) = .ok (.lpw 22 3) ∧
  decode (.w32 0x4C161002) = .ok (.csrwr 22 2) ∧ decode (.w32 0xB4000005) = .ok (.trap 5) ∧
  decode (.w32 0xB4000040) = .ok .eret

/-! ## The lead slice: results -/

/-- The results of the ALUA group (R105).
Model's choices: log 1, 8. -/
def Obligations.AluAResults : Prop := ∀ d a b : BitVec 5,
  Computes2 (.add d a b) d a b (fun x y => x + y) ∧
  Computes2 (.sub d a b) d a b (fun x y => x - y) ∧
  Computes2 (.mul d a b) d a b (fun x y => x * y) ∧
  Computes2 (.mulh d a b) d a b (fun x y => BitVec.ofInt 64 (x.toInt * y.toInt / 2 ^ 64)) ∧
  Computes2 (.mulhn d a b) d a b (fun x y => BitVec.ofNat 64 (x.toNat * y.toNat / 2 ^ 64)) ∧
  Computes2 (.div d a b) d a b (fun x y => if y = 0 then 0xFFFFFFFFFFFFFFFF
    else BitVec.ofInt 64 (x.toInt.tdiv y.toInt)) ∧
  Computes2 (.divn d a b) d a b (fun x y => if y = 0 then 0xFFFFFFFFFFFFFFFF else BitVec.ofNat 64 (x.toNat / y.toNat)) ∧
  Computes2 (.rem d a b) d a b (fun x y => if y = 0 then x else BitVec.ofInt 64 (x.toInt - y.toInt * x.toInt.tdiv y.toInt)) ∧
  Computes2 (.remn d a b) d a b (fun x y => if y = 0 then x else BitVec.ofNat 64 (x.toNat % y.toNat)) ∧
  Computes2 (.and d a b) d a b (fun x y => x &&& y) ∧
  Computes2 (.or d a b) d a b (fun x y => x ||| y) ∧
  Computes2 (.xor d a b) d a b (fun x y => x ^^^ y) ∧
  Computes2 (.andn d a b) d a b (fun x y => x &&& ~~~ y) ∧
  Computes2 (.shl d a b) d a b (fun x y => BitVec.ofNat 64 (x.toNat * 2 ^ (y.toNat % 64))) ∧
  Computes2 (.shr d a b) d a b (fun x y => BitVec.ofNat 64 (x.toNat / 2 ^ (y.toNat % 64))) ∧
  Computes2 (.sar d a b) d a b (fun x y => BitVec.ofInt 64 (x.toInt / 2 ^ (y.toNat % 64))) ∧
  Computes2 (.min d a b) d a b (fun x y => if x.toInt ≤ y.toInt then x else y) ∧
  Computes2 (.max d a b) d a b (fun x y => if x.toInt ≥ y.toInt then x else y) ∧
  Computes2 (.minn d a b) d a b (fun x y => if x.toNat ≤ y.toNat then x else y) ∧
  Computes2 (.maxn d a b) d a b (fun x y => if x.toNat ≥ y.toNat then x else y) ∧
  Computes1 (.clz d a) d a (fun x => BitVec.ofNat 64 ((List.range 64).findIdx fun i => x.getLsbD (63 - i))) ∧
  Computes1 (.ctz d a) d a (fun x => BitVec.ofNat 64 ((List.range 64).findIdx fun i => x.getLsbD i)) ∧
  Computes1 (.popc d a) d a (fun x => BitVec.ofNat 64 ((List.range 64).countP fun i => x.getLsbD i)) ∧
  Computes1 (.mov d a) d a (fun x => x)

/-- The results of the ALUB group (R106).
Model's choices: log 1, 8. -/
def Obligations.AluBResults : Prop := ∀ d a b c : BitVec 5,
  Computes2 (.cmpeq d a b) d a b (fun x y => truth (decide (x = y))) ∧
  Computes2 (.cmpne d a b) d a b (fun x y => truth (decide (x ≠ y))) ∧
  Computes2 (.cmplt d a b) d a b (fun x y => truth (decide (x.toInt < y.toInt))) ∧
  Computes2 (.cmple d a b) d a b (fun x y => truth (decide (x.toInt ≤ y.toInt))) ∧
  Computes2 (.cmpltn d a b) d a b (fun x y => truth (decide (x.toNat < y.toNat))) ∧
  Computes2 (.cmplen d a b) d a b (fun x y => truth (decide (x.toNat ≤ y.toNat))) ∧
  Computes3 (.sel d a b c) d a b c (fun x y z => if z ≠ 0 then x else y) ∧
  Computes1 (.sext d a 0) d a (fun x => (x.extractLsb' 0 8).signExtend 64) ∧
  Computes1 (.sext d a 1) d a (fun x => (x.extractLsb' 0 16).signExtend 64) ∧
  Computes1 (.sext d a 2) d a (fun x => (x.extractLsb' 0 32).signExtend 64) ∧
  Computes1 (.zext d a 0) d a (fun x => (x.extractLsb' 0 8).setWidth 64) ∧
  Computes1 (.zext d a 1) d a (fun x => (x.extractLsb' 0 16).setWidth 64) ∧
  Computes1 (.zext d a 2) d a (fun x => (x.extractLsb' 0 32).setWidth 64) ∧
  (∀ k, Computes2 (.fshl d a b k) d a b (fun x y => ((x ++ y) <<< k.toNat).extractLsb' 64 64)) ∧
  ∀ k, Computes2 (.fshr d a b k) d a b (fun x y => ((x ++ y) >>> k.toNat).extractLsb' 0 64)

/-- INS (R107): a word of its major code decodes to INS with its five fields where pos + len ≤ 64, and raises cause 0 otherwise; its
result takes the low len bits of b at pos, and a elsewhere.
Model's choices: log 1, 8. -/
def Obligations.InsertField : Prop :=
  (∀ w : BitVec 32, w.extractLsb' 26 6 = 3 →
    let d := w.extractLsb' 21 5
    let pos := w.extractLsb' 5 6
    let len1 := w.extractLsb' 0 5
    (64 < pos.toNat + len1.toNat + 1 → decode (.w32 w) = .error 0) ∧
    (pos.toNat + len1.toNat + 1 ≤ 64 → d = 0 ∨ 16 ≤ d.toNat →
      decode (.w32 w) = .ok (.ins d (w.extractLsb' 16 5) (w.extractLsb' 11 5) pos len1))) ∧
  ∀ (d a b : BitVec 5) (pos : BitVec 6) (len1 : BitVec 5), pos.toNat + len1.toNat + 1 ≤ 64 →
    Computes2 (.ins d a b pos len1) d a b (fun x y =>
      let m : Nat := (2 ^ (len1.toNat + 1) - 1) * 2 ^ pos.toNat
      (x &&& ~~~ BitVec.ofNat 64 m) ||| (BitVec.ofNat 64 (y.toNat % 2 ^ (len1.toNat + 1) * 2 ^ pos.toNat) &&& BitVec.ofNat 64 m))

/-- The results of the LI-format instructions (R108).
Model's choices: log 1, 8. -/
def Obligations.ImmediateResults : Prop := ∀ (d a : BitVec 5) (imm : BitVec 16) (k : BitVec 6),
  Computes1 (.addi d a imm) d a (fun x => x + imm.signExtend 64) ∧
  Computes1 (.andi d a imm) d a (fun x => x &&& imm.signExtend 64) ∧
  Computes1 (.ori d a imm) d a (fun x => x ||| imm.signExtend 64) ∧
  Computes1 (.xori d a imm) d a (fun x => x ^^^ imm.signExtend 64) ∧
  Computes1 (.shli d a k) d a (fun x => BitVec.ofNat 64 (x.toNat * 2 ^ k.toNat)) ∧
  Computes1 (.shri d a k) d a (fun x => BitVec.ofNat 64 (x.toNat / 2 ^ k.toNat)) ∧
  Computes1 (.sari d a k) d a (fun x => BitVec.ofInt 64 (x.toInt / 2 ^ k.toNat)) ∧
  (∀ s who, LeadRuns s who → exec (.li d imm) s = .next (leadNow s who (withResult (s.ls who) d (imm.signExtend 64)))) ∧
  Computes1 (.lih d a imm) d a (fun x => BitVec.ofNat 64 (x.toNat * 2 ^ 16 + imm.toNat)) ∧
  Computes1 (.lea d a imm) d a (fun x => x + imm.signExtend 64 * 64) ∧
  ∀ len1 pos : BitVec 6, pos.toNat + len1.toNat + 1 ≤ 64 →
    Computes1 (.extr d a len1 pos) d a (fun x => BitVec.ofNat 64 (x.toNat / 2 ^ pos.toNat % 2 ^ (len1.toNat + 1)))

/-- The results of the scalar float group (R109 to R111): the exact value rounded once under the mode, in the precision that P
names; f32 from bits [31:0].
Model's choices: log 1, 8. -/
def Obligations.ScalarFloatResults : Prop := ∀ (d a b c : BitVec 5) (rnd : BitVec 2) (p : Bool),
  rnd ≠ 3 →
  let F : Fmt := if p then fmtF32 else fmtF64
  let val (x : Word) : FVal := F.value (x.toNat % 2 ^ F.width)
  let mode : Rnd := if rnd = 0 then .rne else if rnd = 1 then .rtz else .rto
  Computes2 (.fadd d a b rnd p) d a b (fun x y => BitVec.ofNat 64 (F.round mode (FVal.add (val x) (val y)))) ∧
  Computes2 (.fmul d a b rnd p) d a b (fun x y => BitVec.ofNat 64 (F.round mode (FVal.mul (val x) (val y)))) ∧
  Computes3 (.ffma d a b c rnd p) d a b c (fun x y z =>
    BitVec.ofNat 64 (F.round mode (FVal.add (FVal.mul (val x) (val y)) (val z)))) ∧
  Computes2 (.fcmp d a b 0 p) d a b (fun x y => truth (FVal.eq (val x) (val y))) ∧
  Computes2 (.fcmp d a b 1 p) d a b (fun x y => truth (FVal.lt (val x) (val y))) ∧
  Computes2 (.fcmp d a b 2 p) d a b (fun x y => truth (FVal.lt (val x) (val y) || FVal.eq (val x) (val y))) ∧
  Computes2 (.fcmp d a b 3 p) d a b (fun x y => truth ((val x).isNan || (val y).isNan)) ∧
  Computes1 (.fcvt d a 0 rnd) d a (fun x => BitVec.ofNat 64 (fmtF32.round mode (fmtF64.value x.toNat))) ∧
  Computes1 (.fcvt d a 1 rnd) d a (fun x => BitVec.ofNat 64 (fmtF64.round mode (fmtF32.value (x.toNat % 2 ^ 32)))) ∧
  Computes1 (.fcvt d a 2 rnd) d a (fun x => BitVec.ofInt 64 (toIntSat mode (-2 ^ 63) (2 ^ 63 - 1) (fmtF64.value x.toNat))) ∧
  Computes1 (.fcvt d a 3 rnd) d a (fun x => BitVec.ofInt 64 (toIntSat mode 0 (2 ^ 64 - 1) (fmtF64.value x.toNat))) ∧
  Computes1 (.fcvt d a 4 rnd) d a (fun x => BitVec.ofNat 64 (fmtF64.round mode (FVal.ofInt x.toInt))) ∧
  Computes1 (.fcvt d a 5 rnd) d a (fun x => BitVec.ofNat 64 (fmtF64.round mode (FVal.ofInt (x.toNat : Int)))) ∧
  Computes1 (.fcvt d a 6 rnd) d a (fun x => BitVec.ofNat 64 (fmtF16.round mode (fmtF64.value x.toNat))) ∧
  Computes1 (.fcvt d a 7 rnd) d a (fun x => BitVec.ofNat 64 (fmtF64.round mode (fmtF16.value (x.toNat % 2 ^ 16))))

/-- The frame of an instruction that writes one result: nothing beside the lead slice changes, and of the slice only the fetch
address and the destination (R98, R99). The destination field (R77): 0 pushes the result, every older value moves one age further
and t16 is lost; 16 to 31 write n0 to n15 and leave the belt as it is. A source that has not yet arrived holds the instruction at
issue (R102, R103), stated for six instructions: nothing changes but that it is known to wait.
Model's choices: log 1. -/
def Obligations.ResultFrame : Prop :=
  (∀ s who (d : BitVec 5) (v : Word), d = 0 ∨ 16 ≤ d.toNat →
  let t := leadNow s who (withResult (s.ls who) d v)
  SameBeside s t who ∧ SameButResult (s.ls who) (t.ls who) d ∧ (t.ls who).pc = (s.ls who).pc + 4) ∧
  (∀ (l : LeadSlice) (v : Word),
  ((writeDst l 0 v).belt[0] = .val v ∧ (∀ k : Fin 15, (writeDst l 0 v).belt[k.val + 1] = l.belt[k.val]) ∧
    (writeDst l 0 v).n = l.n) ∧
  ∀ k : Fin 16, (writeDst l (BitVec.ofNat 5 (16 + k.val)) v).n = l.n.set k (.val v) ∧
    (writeDst l (BitVec.ofNat 5 (16 + k.val)) v).belt = l.belt) ∧
  ∀ s who (d a b : BitVec 5), LeadReady s who → readSrc (s.ls who) a = none ∨ readSrc (s.ls who) b = none →
    exec (.add d a b) s = .next s.waiting ∧ exec (.sub d a b) s = .next s.waiting ∧
    exec (.mul d a b) s = .next s.waiting ∧ exec (.and d a b) s = .next s.waiting ∧
    exec (.cmpeq d a b) s = .next s.waiting ∧ exec (.shl d a b) s = .next s.waiting

/-! ## The lead slice: control -/

/-- Branches and jumps (R112): their words, with cause 1 where a must be 0 and is not; the next address, and JAL's write of n15; nothing
else changes.
Model's choices: log 1, 8. -/
def Obligations.BranchTargets : Prop :=
  (∀ (a : BitVec 5) (off : BitVec 21),
    let word (op : BitVec 6) : BitVec 32 := op ++ a ++ off
    decode (.w32 (word 0x18)) = .ok (.bz a off) ∧ decode (.w32 (word 0x19)) = .ok (.bnz a off) ∧
    decode (.w32 (word 0x1A)) = (if a = 0 then .ok (.jmp off) else .error 1) ∧
    decode (.w32 (word 0x1B)) = if a = 0 then .ok (.jal off) else .error 1) ∧
  ∀ s who (a : BitVec 5) (off : BitVec 21) (x : Word), LeadRuns s who →
  let l := s.ls who
  let target := l.pc + 4 * off.signExtend 64
  (readSrc l a = some x →
    exec (.bz a off) s = .next (leadNow s who { l with pc := if x = 0 then target else l.pc + 4 }) ∧
    exec (.bnz a off) s = .next (leadNow s who { l with pc := if x ≠ 0 then target else l.pc + 4 })) ∧
  exec (.jmp off) s = .next (leadNow s who { l with pc := target }) ∧
  exec (.jal off) s = .next (leadNow s who { l with pc := target, n := l.n.set 15 (.val (l.pc + 4)) })

/-- JR (R113): its word has a nonzero field beside a only if it raises cause 1; it jumps to the value of a and changes nothing else;
a value that is no multiple of 4 raises cause 3, whose report (R299, R300) is all that changes.
Model's choices: log 1. -/
def Obligations.JumpRegister : Prop :=
  (∀ w : BitVec 32, w.extractLsb' 26 6 = 5 → decode (.w32 w) =
    if w.extractLsb' 21 5 = 0 ∧ w.extractLsb' 0 16 = 0 then .ok (.jr (w.extractLsb' 16 5)) else .error 1) ∧
  ∀ s who (a : BitVec 5) (x : Word), LeadReady s who → readSrc (s.ls who) a = some x →
    let l := s.ls who
    let word : Word := BitVec.ofNat 64 (0x14000000 + a.toNat * 2 ^ 16)
    (x.toNat % 4 = 0 → exec (.jr a) s = .next (leadNow s who { l with pc := x })) ∧
    (x.toNat % 4 ≠ 0 → ∃ t, exec (.jr a) s = .next t ∧ t = report s who 3 l.pc word ∧
      t.ls who = { l with cause := 3, epc := l.pc, tval := word
                          pc := if who = .mgmt then 0x00FF000000000100 else l.pc } ∧
      t.dram = s.dram ∧ t.tags = s.tags ∧ t.mgmt.fw = s.mgmt.fw ∧ t.vales = s.vales ∧ t.hub = s.hub ∧
      (∀ c : Fin 256, (t.core c).scratch = (s.core c).scratch) ∧ ∀ c, who ≠ .core c → t.core c = s.core c)

/-- LPW, CSRRD of the registers of R100, and CSRWR in machine mode (R116, R300, R303); a CSRWR that R100 does not allow in
the current mode raises 326 and changes nothing else (R303): every CSR in task mode, and all but CSRs 0 to 3 in machine mode.
Model's choices: log 1. -/
def Obligations.LoopAndCsr : Prop :=
  (∀ s who (d a : BitVec 5) (k : BitVec 4) (x : Word), LeadReady s who →
  let l := s.ls who
  let reads (n : BitVec 12) (v : Word) : Prop := exec (.csrrd d n) s = .next (leadNow s who (withResult l d v))
  (readSrc l a = some x →
    exec (.lpw a k) s = .next (leadNow s who (nextPc { l with lp := l.lp.set k.toFin (x.extractLsb' 0 32) })) ∧
    (l.machine = true →
      exec (.csrwr a 0) s = .next (leadNow s who (nextPc l)) ∧
      exec (.csrwr a 1) s = .next (leadNow s who (nextPc { l with cause := x.extractLsb' 0 12 })) ∧
      exec (.csrwr a 2) s = .next (leadNow s who (nextPc { l with epc := x })) ∧
      exec (.csrwr a 3) s = .next (leadNow s who (nextPc { l with tval := x })))) ∧
  reads 0 (BitVec.ofNat 64 (l.forkId.toNat * 256 + l.vended.toNat * 4 + l.lane.toNat * 2 + l.machine.toNat)) ∧
  reads 1 (l.cause.setWidth 64) ∧ reads 2 l.epc ∧ reads 3 l.tval ∧ reads 4 l.region ∧ reads 18 s.now ∧
  (∀ j : Fin 16, reads (BitVec.ofNat 12 (64 + j.val)) (l.lp[j].setWidth 64)) ∧
  ∀ c : Fin 256, who = .core c → reads 16 (BitVec.ofNat 64 (c.val / 64 * 256 + c.val)) ∧
    ∀ t, (s.core c).task = some t → reads 17 (BitVec.ofNat 64 t.vale.val)) ∧
  (∀ s who (a : BitVec 5) (n : BitVec 12) (x : Word), LeadReady s who →
  readSrc (s.ls who) a = some x → csrDefined n = true → (s.ls who).machine = false ∨ 4 ≤ n.toNat →
  exec (.csrwr a n) s = .next (report s who 326 (s.ls who).pc (((encode32 (.csrwr a n)).getD 0).setWidth 64)))

/-- TRAP, BRK and ERET (R299, R301). In task mode the three CSRs and their copies in the core block are written, the task is
TRAPPED, and RESUME may pass it; in machine mode the three CSRs are written, the fetch continues at the firmware trap entry, and
ERET returns to LS_EPC. A word that does not decode and a fetch that is denied raise their cause with
the word and the address that R75 and R69 give; ERET in task mode raises 326, and to an address that is no multiple of 4 cause 3. The
words of the three, and cause 1 where a field that must be zero is not.
Model's choices: log 1. -/
def Obligations.TrapsAndReturns : Prop :=
  (∀ s (c : Fin 256) (k : BitVec 6), LeadReady s (.core c) →
  let took (code : BitVec 12) : State :=
    let q := s.core c
    { s.setCore c { q with
        ls := { q.ls with cause := code, epc := q.ls.pc, tval := k.setWidth 64 }
        opening := none, cCause := code, cEpc := q.ls.pc, cTval := k.setWidth 64, run := .trapped, resumePast := true
        waitsOn := none, starved := false, opens := false, pinFill := none, enqGot := [] } with
      stalled := false }
  exec (.trap k) s = .next (took 324) ∧ exec (.brk k) s = .next (took 325)) ∧
  (∀ s (k : BitVec 6), LeadReady s .mgmt →
  let l := s.mgmt.ls
  let took (code : BitVec 12) : State := leadNow s .mgmt
    { l with cause := code, epc := l.pc, tval := k.setWidth 64, pc := 0x00FF000000000100 }
  exec (.trap k) s = .next (took 324) ∧ exec (.brk k) s = .next (took 325) ∧
  (l.machine = true → l.epc.toNat % 4 = 0 → exec .eret s = .next (leadNow s .mgmt { l with pc := l.epc }))) ∧
  (∀ s who (code : BitVec 9) (w : Word), LeadReady s who →
  exec (.illegalEncoding code w) s = .next (report s who (code.setWidth 12) (s.ls who).pc w) ∧
  exec (.fetchDenied code w) s = .next (report s who (code.setWidth 12) (s.ls who).pc w)) ∧
  (∀ s who, LeadReady s who → (s.ls who).machine = false →
  exec .eret s = .next (report s who 326 (s.ls who).pc 0xB4000040)) ∧
  (∀ s, LeadReady s .mgmt → s.mgmt.ls.machine = true → s.mgmt.ls.epc.toNat % 4 ≠ 0 →
  exec .eret s = .next (report s .mgmt 3 s.mgmt.ls.pc 0xB4000040)) ∧
  ∀ w : BitVec 32, w.extractLsb' 26 6 = 0x2D →
  let sub := w.extractLsb' 6 5
  let aux := w.extractLsb' 0 6
  sub = 0 ∨ sub = 1 ∨ sub = 3 → decode (.w32 w) =
    if w.extractLsb' 11 15 = 0 ∧ (sub = 1 → aux = 0) then
      .ok (if sub = 0 then .trap aux else if sub = 1 then .eret else .brk aux)
    else .error 1

/-! ## The lead slice: memory -/

namespace Sys2Proof.Machine

/-- The entry that an instruction at issue appends to the queues (R207). -/
def newEntry (l : LeadSlice) (k : EntryKind) : Entry := { id := l.seq, pc := l.pc, kind := k, sent := none }

/-- The slice after its instruction has appended `e` to the load queue and the store queue as said; where the access can still fail
(`held`: whether it is one that does not), the registers are kept as they stood before it (log 8); the result, if any, takes its
position at once, pending (R103). -/
def queued (l : LeadSlice) (e : Entry) (inLoad inStore : Bool) (held : Option Bool) (d : Option (BitVec 5)) : LeadSlice :=
  let l' := { l with
    seq := l.seq + 1
    lq := if inLoad then l.lq ++ [e] else l.lq
    sq := if inStore then l.sq ++ [e] else l.sq
    held := match held with
      | some sure => l.held ++ [{ id := e.id, sure := sure, fault := none, belt := l.belt, n := l.n, lp := l.lp }]
      | none => l.held }
  match d with
  | some d => nextPc (writeSlot l' d (.pend e.id))
  | none => nextPc l'

/-- Every byte of every memory is as before: DRAM under its keys, the firmware store, every scratchpad. -/
def SameMemory (s u : State) : Prop :=
  u.dram = s.dram ∧ u.tags = s.tags ∧ u.mgmt.fw = s.mgmt.fw ∧ ∀ c : Fin 256, (u.core c).scratch = (s.core c).scratch

/-- The bytes of a size code (R78, R210). -/
def ldBytes (size : BitVec 3) : Nat := match size.toNat with
  | 0 | 4 => 1
  | 1 | 5 => 2
  | 2 | 6 => 4
  | _ => 8

/-- The word of an instruction, as LS_TVAL holds it (R75). -/
def ownWord (i : Instr) : Word := ((encode32 i).getD 0).setWidth 64

/-- Byte `i` of a number. -/
def byteOf (v : Nat) (i : Nat) : Byte := BitVec.ofNat 8 (v / 256 ^ i)

end Sys2Proof.Machine

/-- LD (R207, R210): where the checks of R211 give a place, the load enters the load queue and its result is pending; a full queue
alone makes it wait (R271), since a walk that must wait for a bank (R224) is made when the access takes its step in the queue; a failed
check raises its cause with the address in LS_TVAL, and a poisoned word that no queued store covers raises 353 (R312). A walk recalls the
`.own` copies of the entries that it reads (R206), also where it ends in a cause (R269).
Model's choices: log 1, 8, 44, 50. -/
def Obligations.LoadIssues : Prop := ∀ s who (d base : BitVec 5) (rq : BitVec 2) (size : BitVec 3) (span : BitVec 4)
    (off : BitVec 7) (b : Word), LeadReady s who → size ≠ 7 → readSrc (s.ls who) base = some b →
  let l := s.ls who
  let n := ldBytes size
  let va := b + off.signExtend 64 * BitVec.ofNat 64 n
  let q : Req := { acc := .read, va := va, n := n, rq := rq }
  let found := if leadHeld s who q then .ok (.walk va, none) else leadPlace s who q
  let u := if leadHeld s who q then s else walked s who q
  (∀ code, found = .error code → exec (.ld d base rq size span off) s = .next (report u who code l.pc va)) ∧
  ∀ p lf, found = .ok (p, lf) →
    let bad := loadPoisoned s who va n rq p
    (l.lq.length = 32 → exec (.ld d base rq size span off) s = .next s.waiting) ∧
    (l.lq.length < 32 → bad = false ∨ storeAhead s who l.seq p n = true →
      let e := newEntry l (.load va n (decide (4 ≤ size.toNat)) rq span.toNat p)
      exec (.ld d base rq size span off) s =
        .next (leadNow u who (queued l e true false (some (s.bold && !bad)) (some d)))) ∧
    (l.lq.length < 32 → bad = true → storeAhead s who l.seq p n = false →
      exec (.ld d base rq size span off) s = .next (report (logLead s who) who 353 l.pc (va &&& ~~~ 7#64)))

/-- ST (R207, R210): as LD, with the store queue, the data sampled at issue and no result.
Model's choices: log 1, 8, 44, 50. -/
def Obligations.StoreIssues : Prop := ∀ s who (src base : BitVec 5) (rq : BitVec 2) (size : BitVec 3) (span : BitVec 4)
    (off : BitVec 7) (b v : Word), LeadReady s who → size.toNat < 4 → readSrc (s.ls who) base = some b →
  readSrc (s.ls who) src = some v →
  let l := s.ls who
  let n := ldBytes size
  let va := b + off.signExtend 64 * BitVec.ofNat 64 n
  let q : Req := { acc := .write, va := va, n := n, rq := rq }
  let found := if leadHeld s who q then .ok (.walk va, none) else leadPlace s who q
  let u := if leadHeld s who q then s else walked s who q
  (∀ code, found = .error code → exec (.st src base rq size span off) s = .next (report u who code l.pc va)) ∧
  ∀ p lf, found = .ok (p, lf) →
    (l.sq.length = 32 → exec (.st src base rq size span off) s = .next s.waiting) ∧
    (l.sq.length < 32 → (∀ e o, p ≠ .endpoint e o) →
      exec (.st src base rq size span off) s =
        .next (leadNow u who (queued l (newEntry l (.store va n v rq span.toNat p)) false true
          (if heldPlace va p then some s.bold else none) none)))

/-- The store that closes a packet is a committing access (R306): the next word must be REGION or HALT; any other raises
327, stated for MOV, TRAP and a word that is none.
Model's choices: log 1, 51. -/
def Obligations.CommittingAccess : Prop :=
  (∀ s (c : Fin 256) (src base : BitVec 5) (rq : BitVec 2) (span : BitVec 4)
    (off : BitVec 7) (b v : Word) (e o : BitVec 12), LeadReady s (.core c) →
  readSrc (s.core c).ls base = some b → readSrc (s.core c).ls src = some v → (s.core c).ls.sq.length < 32 →
  let va := b + off.signExtend 64 * 8
  leadPlace s (.core c) { acc := .write, va := va, n := 8, rq := rq } = .ok (.endpoint e o, none) → o.getLsbD 6 = true →
  ∃ t, exec (.st src base rq 3 span off) s = .next t ∧ (t.core c).commit = true ∧
    (t.core c).ls.sq.length = (s.core c).ls.sq.length + 1) ∧
  (∀ s (c : Fin 256) (d a : BitVec 5) (k : BitVec 6),
  leadInTurn s = some (.core c) → canIssue s (.core c) = true → firstReport s (.core c) = none →
  heldUp s (.core c) = false → (s.core c).commit = true →
  exec (.mov d a) s = .next (report s (.core c) 327 (s.core c).ls.pc (((encode32 (.mov d a)).getD 0).setWidth 64)) ∧
  exec (.trap k) s = .next (report s (.core c) 327 (s.core c).ls.pc (((encode32 (.trap k)).getD 0).setWidth 64)) ∧
  ∀ code w, exec (.illegalEncoding code w) s = .next (report s (.core c) 327 (s.core c).ls.pc w))

/-- PF retires and raises nothing, wherever its address lies (R210); where it takes no span (an address outside the global window,
type `.nc`, the management core) it changes nothing else.
Model's choices: log 1, 13. -/
def Obligations.PrefetchRetires : Prop := ∀ s who (base : BitVec 5) (rq : BitVec 2) (span : BitVec 4) (off : BitVec 7)
    (b : Word), LeadReady s who → readSrc (s.ls who) base = some b → (s.ls who).lq.length < 32 →
  (∃ t, exec (.pf base rq span off) s = .next t ∧ t.ls who = nextPc (s.ls who) ∧ t.dram = s.dram ∧ t.tags = s.tags) ∧
  (who = .mgmt ∨ rq = 3 ∨ 2 ^ 56 ≤ (b + off.signExtend 64 * 8).toNat →
    exec (.pf base rq span off) s = .next (leadNow s who (nextPc (s.ls who))))

/-- MARK and FENCE enter their queues (R208, R273): both, or the store queue only for a release; a full queue makes them wait.
Model's choices: log 1. -/
def Obligations.MarkAndFenceIssue : Prop := ∀ s who (scope kind : BitVec 2), LeadReady s who → kind ≠ 3 →
  let l := s.ls who
  (l.lq.length < 32 → l.sq.length < 32 →
    exec .mark s = .next (leadNow s who (queued l (newEntry l .mark) true true none none)) ∧
    exec (.fence scope kind) s = .next (leadNow s who
      (queued l (newEntry l (.fence scope kind)) (decide (kind ≠ 1)) true none none))) ∧
  (l.sq.length = 32 → exec .mark s = .next s.waiting ∧ exec (.fence scope kind) s = .next s.waiting)

/-- AMO and CAS (R275, R276, R306): they enter both queues with their operands, their result is pending, and they commit.
Model's choices: log 1, 8, 44. -/
def Obligations.AtomicsIssue : Prop := ∀ s (c : Fin 256) (d a b x : BitVec 5) (op : BitVec 4) (wide : Bool)
    (va v w : Word) (p : Place) (lf : Option Leaf), LeadReady s (.core c) →
  let l := (s.core c).ls
  let n := if wide then 8 else 4
  readSrc l a = some va → readSrc l b = some v → readSrc l x = some w → l.lq.length < 32 → l.sq.length < 32 →
  let q : Req := { acc := .atomic, va := va, n := n, rq := 3 }
  (if leadHeld s (.core c) q then .ok (.walk va, none) else leadPlace s (.core c) q) = .ok (p, lf) →
  let bad := placePoisoned s (.core c) p n
  bad = false ∨ storeAhead s (.core c) l.seq p n = true →
  let u := if leadHeld s (.core c) q then s else walked s (.core c) q
  let after (k : EntryKind) : State :=
    { u.setCore c { u.core c with
        ls := queued l (newEntry l k) true true (some (s.bold && !bad)) (some d), commit := true } with
      stalled := false }
  exec (.amo d a b op wide) s = .next (after (.amo va n op v p)) ∧
  exec (.cas d a b x wide) s = .next (after (.cas va n w v p))

/-- The checks of a task's access come in the order of R211: the window, then alignment, then the window's own. The
management core's map (R343): firmware memory; the vale windows, of which vale v's is 2^39 bytes from 0x00F0_0000_0000_0000 + v × 2^39
on and takes an aligned 8-byte `.nc` load or store of a channel of a keyed vale, with 131, 129 and 97 as R199 gives them; the register
region, where any other access than an aligned 8-byte `.nc` load or store raises 97 (R313); an address in none of them raises 65, the
gaps between them too.
Model's choices: log 30 (alignment first, then 131, 129, 97 in this order). -/
def Obligations.AccessChecks : Prop :=
  (∀ s (c : Fin 256) (t : Task) (q : Req),
  (windowOk q.va = false → taskPlace s c t q = .error 65) ∧
  (windowOk q.va = true → q.va.toNat % q.n ≠ 0 → taskPlace s c t q = .error 64) ∧
  (windowOk q.va = true → q.va.toNat % q.n = 0 →
    (topByte q.va = 2 → taskPlace s c t q =
      if t.alloc ≤ q.va.toNat % 2 ^ 21 ∧ q.va.toNat % 2 ^ 21 + q.n ≤ t.alloc + t.size
      then .ok (.scratch (q.va.toNat % 2 ^ 21), none) else .error 128) ∧
    (topByte q.va = 3 → q.acc ≠ .write ∨ q.n ≠ 8 → taskPlace s c t q = .error 67) ∧
    (topByte q.va = 1 → inDomain s (domainDev q.va) = false → taskPlace s c t q = .error 68))) ∧
  (∀ s (q : Req),
  let a := q.va.toNat
  (a < 0x00F0000000000000 ∨ 0x0100000000000000 ≤ a → mgmtPlace s q = .error 65) ∧
  (0x00F0080000000000 ≤ a → a < 0x00FF000000000000 → mgmtPlace s q = .error 65) ∧
  (0x00FF000004000000 ≤ a → a < 0x00FF700000000000 → mgmtPlace s q = .error 65) ∧
  (∀ o, o < 0x4000000 → a = 0x00FF000000000000 + o →
    mgmtPlace s q = if a % q.n = 0 then .ok (.firmware o) else .error 64) ∧
  (∀ (v : Fin 16) (pa : Nat), pa < 2 ^ 39 → a = 0x00F0000000000000 + v.val * 2 ^ 39 + pa → mgmtPlace s q =
    if a % q.n ≠ 0 then .error 64
    else if (s.vale v).channels.getLsbD (pa / 2 ^ 30) = false then .error 131
    else if keyed s v = false then .error 129
    else if q.n = 8 ∧ q.rq = 3 ∧ q.acc ≠ .atomic then .ok (.valeWindow v pa) else .error 97) ∧
  (0x00FF700000000000 ≤ a → a < 0x0100000000000000 → mgmtPlace s q =
    if a % q.n ≠ 0 then .error 64
    else if q.n = 8 ∧ q.rq = 3 ∧ q.acc ≠ .atomic then .ok (.block a) else .error 97))


/-- A load at the head of the load queue is performed (R204, R207, R210). From the own scratchpad: its bytes, least significant first, are
extended and reach what waits for them; the entry leaves and nothing else changes. A load of a mapped page that hits a `.wt` or `.si` copy
in L1 has the bytes of the copy, one that hits an exclusive copy the latest bytes, and nothing else changes. One that hits none, of any
type, reads its home under the vale's key, and memory keeps what every reader reads; a type other than `.nc` then takes the words of its
span into L1, with their bytes and, for `.si`, a lease, and no other core keeps an `.own` copy of the word that was read. A load that
consumes a poisoned word raises 353 (R312).
Model's choices: log 1, 8, 12, 21, 44, 76. -/
def Obligations.LoadsPerform : Prop := ∀ s (c : Fin 256) (e : Entry) (rest : List Entry) (va : Word) (n : Nat)
    (sg : Bool) (rq : BitVec 2) (span : Nat), leadInTurn s = some (.core c) →
  let l := (s.core c).ls
  let ends (x : Nat) : LeadSlice :=
    let v : Word := if sg && decide (2 ^ (8 * n - 1) ≤ x) then BitVec.ofInt 64 ((x : Int) - 2 ^ (8 * n)) else BitVec.ofNat 64 x
    dropEntry (arrive l e.id v) e.id
  l.lq = e :: rest → heldFault l e = none →
  (∀ off, e.kind = .load va n sg rq span (.scratch off) → storeAhead s (.core c) e.id (.scratch off) n = false →
    loadPoisoned s (.core c) va n rq (.scratch off) = false →
    exec .loadQueuePerform s = .next (leadNow s (.core c) (ends (memNum (s.core c).scratch off n)))) ∧
  (∀ p, e.kind = .load va n sg rq span p → (∀ a, p ≠ .walk a) → l.sure e.id = false → storeAhead s (.core c) e.id p n = false →
    bankWaits s (.core c) e = false → e.sent = none → loadPoisoned s (.core c) va n rq p = true → olderHeld l e.id = false →
      takesReports s (.core c) = true →
    firstReport s (.core c) = none →
    ∃ t, exec .loadQueuePerform s = .next t ∧ SameMemory s t ∧ (t.core c).ls.cause = 353 ∧ (t.core c).ls.epc = e.pc ∧
      (t.core c).ls.tval = va &&& ~~~ 7#64 ∧ (t.core c).run = .trapped) ∧
  ∀ (v : Fin 16) (key pa : Nat) (cc : Bool), taskVale s c = some v → valeKey s v = some key →
    e.kind = .load va n sg rq span (.dram pa cc) → storeAhead s (.core c) e.id (.dram pa cc) n = false →
    loadPoisoned s (.core c) va n rq (.dram pa cc) = false →
    let hit := l1Hit s (s.core c) (asidOf s v) va rq false
    (∀ x, hit = some x → x.rq ≠ 0 →
      exec .loadQueuePerform s = .next (leadNow s (.core c) (ends (x.data.toNat / 256 ^ (va.toNat % 8) % 256 ^ n)))) ∧
    (∀ x, hit = some x → x.rq = 0 → exec .loadQueuePerform s = .next (leadNow s (.core c) (ends (ofBytes (dramRead s key pa n))))) ∧
    (hit = none → bankBlocks s v none pa = false →
      ∃ t, exec .loadQueuePerform s = .next t ∧ SameMemory s t ∧ (t.core c).ls = ends (ofBytes (dramRead s key pa n)) ∧
        (0 < n → ∀ d, d ≠ c → ∀ y ∈ (t.core d).l1, y.rq = 0 → y.place ≠ .dram (pa / 8 * 8) false) ∧
        (rq = 3 → (t.core c).l1 = (s.core c).l1) ∧
        ∀ lf, rq ≠ 3 → translate s v va.toNat .read = .ok lf → lf.pa = pa →
          ∀ i, va.toNat / 8 % 16 + i ≤ min (va.toNat / 8 % 16 + span) 15 → poisonedAt s .dram ((pa / 8 + i) * 8) 8 = false →
          (∀ y ∈ (s.core c).l1, y.rq ≠ 0 ∨ y.va8 ≠ va.toNat / 8 + i) →
          ∃ y ∈ (t.core c).l1, y.va8 = va.toNat / 8 + i ∧ y.asid = asidOf s v ∧ y.rq = rq ∧
            y.place = .dram ((pa / 8 + i) * 8) lf.cc ∧
            (rq ≠ 0 → y.data.toNat = ofBytes (dramRead s key ((pa / 8 + i) * 8) 8)) ∧
            (rq = 2 → y.ends = s.now.toNat + (s.vale v).lease.toNat * 5 / 6))

/-- A store at the head of the store queue is performed (R40, R204, R207, R210), least significant byte first, and every
other byte is as before: in the own scratchpad, and at the home of a mapped page, read under the vale's key. There no other core keeps
an `.own` copy of the word at its place; the own `.wt` or `.si` copy of the word that the store lies in takes its bytes; a `.own` store
leaves the word exclusive in the own L1.
Model's choices: log 1, 8, 12, 44. -/
def Obligations.StoresPerform : Prop := ∀ s (c : Fin 256) (e : Entry) (rest : List Entry) (va : Word) (n : Nat)
    (data : Word) (rq : BitVec 2) (span : Nat), leadInTurn s = some (.core c) →
  (s.core c).ls.sq = e :: rest → fillBlocks (s.core c) va n = false → heldFault (s.core c).ls e = none →
  heldBack s (.core c) e = false →
  (∀ off, (s.core c).scratch.wf = true → e.kind = .store va n data rq span (.scratch off) →
    ∃ t, exec .storeQueuePerform s = .next t ∧
      (∀ i, i < n → memGet (t.core c).scratch (off + i) = byteOf data.toNat i) ∧
      (∀ a, a < off ∨ off + n ≤ a → memGet (t.core c).scratch a = memGet (s.core c).scratch a) ∧
      (t.core c).ls = dropEntry (s.core c).ls e.id ∧ t.dram = s.dram ∧ t.tags = s.tags ∧
      ∀ d, d ≠ c → t.core d = s.core d) ∧
  ∀ (v : Fin 16) (key pa : Nat) (cc : Bool), DramWfAt s → taskVale s c = some v → valeKey s v = some key →
    e.kind = .store va n data rq span (.dram pa cc) → bankWaits s (.core c) e = false →
    ∃ t, exec .storeQueuePerform s = .next t ∧
      (∀ i, i < n → dramByte t key (pa + i) = byteOf data.toNat i) ∧
      (∀ a, a < pa ∨ pa + n ≤ a → dramByte t key a = dramByte s key a) ∧
      (t.core c).ls = dropEntry (s.core c).ls e.id ∧
      (0 < n → ∀ d, d ≠ c → ∀ y ∈ (t.core d).l1, y.rq = 0 → y.place ≠ .dram (pa / 8 * 8) false) ∧
      (rq ≠ 0 → ∀ x ∈ (s.core c).l1, x.rq ≠ 0 → ∀ cc', x.place = .dram (pa / 8 * 8) cc' → pa % 8 + n ≤ 8 →
        ∃ y ∈ (t.core c).l1, y.va8 = x.va8 ∧ y.asid = x.asid ∧ y.rq = x.rq ∧ y.place = x.place ∧
          ∀ i, i < 8 → (y.data.extractLsb' (8 * i) 8) =
            if pa % 8 ≤ i ∧ i < pa % 8 + n then byteOf data.toNat (i - pa % 8) else x.data.extractLsb' (8 * i) 8) ∧
      (∀ lf, rq = 0 → translate s v va.toNat .write = .ok lf → lf.pa = pa → poisonedAt s .dram (pa / 8 * 8) 8 = false →
        l1Hit s (s.core c) (asidOf s v) va 0 true = none →
        ∃ y ∈ (t.core c).l1, y.va8 = va.toNat / 8 ∧ y.asid = asidOf s v ∧ y.rq = 0 ∧ y.place = .dram (pa / 8 * 8) lf.cc)


/-- An atomic on the own scratchpad at the head of both queues (R275): one read-modify-write; the old value reaches the
destination. AMO writes new(old, v), CAS writes only where the old value equals the compare value. The nine
operations, on 8 bytes.
Model's choices: log 1, 8, 21. -/
def Obligations.ScratchAtomicsPerform : Prop :=
  (∀ s (c : Fin 256) (e : Entry) (rl rs : List Entry) (va : Word) (n off : Nat),
  leadInTurn s = some (.core c) → (s.core c).scratch.wf = true → n = 4 ∨ n = 8 →
  let k := s.core c
  k.ls.lq = e :: rl → k.ls.sq = e :: rs → heldFault k.ls e = none → heldBack s (.core c) e = false → fillBlocks k va n = false →
  placePoisoned s (.core c) (.scratch off) n = false →
  let old := memNum k.scratch off n
  let performed (new : Option Nat) : Prop := ∃ t, exec .storeQueuePerform s = .next t ∧
    memNum (t.core c).scratch off n = new.getD old ∧
    (∀ a, a < off ∨ off + n ≤ a → memGet (t.core c).scratch a = memGet k.scratch a) ∧
    (t.core c).ls = dropEntry (arrive k.ls e.id (BitVec.ofNat 64 old)) e.id ∧ (t.core c).isSealed = true
  (∀ op v, e.kind = .amo va n op v (.scratch off) → performed (some (amoNew op n old (v.toNat % 2 ^ (8 * n))))) ∧
  (∀ cmp new, e.kind = .cas va n cmp new (.scratch off) →
    performed (if old = cmp.toNat % 2 ^ (8 * n) then some (new.toNat % 2 ^ (8 * n)) else none))) ∧
  ∀ old v : BitVec 64,
  amoNew 0 8 old.toNat v.toNat = (old + v).toNat ∧ amoNew 1 8 old.toNat v.toNat = (old &&& v).toNat ∧
  amoNew 2 8 old.toNat v.toNat = (old ||| v).toNat ∧ amoNew 3 8 old.toNat v.toNat = (old ^^^ v).toNat ∧
  amoNew 4 8 old.toNat v.toNat = v.toNat ∧
  amoNew 5 8 old.toNat v.toNat = (if old.toInt ≤ v.toInt then old else v).toNat ∧
  amoNew 6 8 old.toNat v.toNat = (if v.toInt ≤ old.toInt then old else v).toNat ∧
  amoNew 7 8 old.toNat v.toNat = (if old.toNat ≤ v.toNat then old else v).toNat ∧
  amoNew 8 8 old.toNat v.toNat = (if v.toNat ≤ old.toNat then old else v).toNat

/-- A marker at the head of both queues leaves them. A full fence leaves when no older entry stands in either queue, an acquire when no
older one stands in the load queue, a release, which stands in the store queue alone, when no older one stands in either; while an
older entry stands there, it stays. An acquire or a full fence of vale scope or wider drops the `.wt` and `.si` words of L1 at that
instant, the others drop nothing (R205, R208, R273).
Model's choices: log 1. -/
def Obligations.MarkAndFencePerform : Prop := ∀ s (c : Fin 256) (e : Entry) (rl rs : List Entry) (scope : BitVec 2),
  leadInTurn s = some (.core c) →
  let k := s.core c
  heldFault k.ls e = none →
  let left (l1 : List L1Word) (gen : Nat) : State :=
    { s.setCore c { k with ls := dropEntry k.ls e.id, l1 := l1, l1Gen := gen } with stalled := false }
  let acquired : State :=
    if scope = 0 then left k.l1 k.l1Gen else left (k.l1.filter fun x => decide (x.rq = 0)) (k.l1Gen + 1)
  (k.ls.lq = e :: rl → k.ls.sq = e :: rs → (∀ x ∈ rl ++ rs, e.id ≤ x.id) →
    (e.kind = .mark → exec .storeQueuePerform s = .next (left k.l1 k.l1Gen)) ∧
    (e.kind = .fence scope 2 → exec .storeQueuePerform s = .next acquired)) ∧
  (k.ls.lq = e :: rl → e.kind = .fence scope 0 → exec .loadQueuePerform s = .next acquired) ∧
  (k.ls.sq = e :: rs → (∀ x ∈ k.ls.lq ++ rs, e.id ≤ x.id) → e.kind = .fence scope 1 →
    exec .storeQueuePerform s = .next (left k.l1 k.l1Gen)) ∧
  (k.ls.sq = e :: rs → (∃ x ∈ k.ls.lq, x.id < e.id) → e.kind = .fence scope 1 ∨ e.kind = .fence scope 2 →
    exec .storeQueuePerform s = .next s) ∧
  ∀ y ∈ k.ls.lq.head?, k.ls.sq = e :: rs → y.id ≠ e.id → e.kind = .fence scope 0 → exec .storeQueuePerform s = .next s

/-! ## Barriers -/

/-- The barrier instructions on the object of their ID (R226 to R230): its fields EXPECT, ARRIVED and PHASE are read and
written as numbers of 4 bytes in the own scratchpad, in one step; a BARWAIT that finds the phase unflipped waits while a record names the
object, and raises 195 once none has done so at some instant of its wait.
Model's choices: log 1. -/
def Obligations.BarrierResults : Prop := ∀ s (c : Fin 256) (d a : BitVec 5) (id : BitVec 6) (off : Nat) (x : Word),
  LeadReady s (.core c) → barObject s (.core c) id = some (c, off) → readSrc (s.core c).ls a = some x →
  let k := s.core c
  let expect := memNum k.scratch off 4
  let arrived := memNum k.scratch (off + 4) 4
  let phase := memNum k.scratch (off + 8) 4
  let after (b : Bar) : State := { s.setCore c { k with ls := nextPc k.ls, scratch := writeBar k.scratch off b } with
    stalled := false }
  let n := x.toNat % 2 ^ 32
  exec (.barinit a id) s = .next (after ⟨n, 0, 0⟩) ∧
  (arrived < n → exec (.bararm a id) s = .next (after ⟨n, arrived, phase⟩)) ∧
  (n ≠ 0 → arrived = n → exec (.bararm a id) s = .next (after ⟨n, 0, phase ^^^ 1⟩)) ∧
  (n = 0 → exec (.bararm a id) s = .next (after ⟨0, arrived, phase⟩)) ∧
  (n ≠ 0 → n < arrived → exec (.bararm a id) s = .next (report s (.core c) 192 k.ls.pc (ownWord (.bararm a id)))) ∧
  (expect = 0 → exec (.bararrive a id) s = .next (after ⟨0, min (arrived + n) (2 ^ 32 - 1), phase⟩)) ∧
  (expect ≠ 0 → arrived + n < expect → exec (.bararrive a id) s = .next (after ⟨expect, arrived + n, phase⟩)) ∧
  (expect ≠ 0 → arrived + n = expect → exec (.bararrive a id) s = .next (after ⟨expect, 0, phase ^^^ 1⟩)) ∧
  (expect ≠ 0 → expect < arrived + n → exec (.bararrive a id) s =
    .next (report s (.core c) 192 k.ls.pc (ownWord (.bararrive a id)))) ∧
  (phase % 2 ≠ x.toNat % 2 →
    let gone := k.l1.filter fun y => decide (y.rq = 0)
    (k.starved = false → exec (.barwait a id) s = .next { s.setCore c { k with
        ls := nextPc k.ls, l1 := gone, l1Gen := k.l1Gen + 1, waitsOn := none } with stalled := false }) ∧
    exec (.bartest d a id) s = .next { s.setCore c { k with ls := withResult k.ls d 1, l1 := gone, l1Gen := k.l1Gen + 1 } with
      stalled := false }) ∧
  (phase % 2 = x.toNat % 2 →
    exec (.bartest d a id) s = .next (leadNow s (.core c) (withResult k.ls d 0)) ∧
    (k.starved = false → barNamed k off = true → exec (.barwait a id) s =
      .next (s.setCore c { k with waitsOn := some (off, x.getLsbD 0) }).waiting) ∧
    (barNamed k off = false → exec (.barwait a id) s = .next (report s (.core c) 195 k.ls.pc (ownWord (.barwait a id))))) ∧
  (k.starved = true → exec (.barwait a id) s = .next (report s (.core c) 195 k.ls.pc (ownWord (.barwait a id))))


/-! ## The lead slice: streams, engines, steering, regions -/

namespace Sys2Proof.Machine

/-- The lead slice of core `c` stands where its instruction issues, and runs task `t`. -/
def CoreReady (s : State) (c : Fin 256) (t : Task) : Prop := LeadReady s (.core c) ∧ (s.core c).task = some t

/-- The state in which core `c` has become `k` and nothing else has changed. -/
def coreNow (s : State) (c : Fin 256) (k : Core) : State := { s.setCore c k with stalled := false }

/-- A core as it is, its lead slice past the instruction. -/
def Core.past (k : Core) : Core := { k with ls := nextPc k.ls }

/-- The `n` bytes at virtual address `va` are those of the scratchpad from `off` on, inside the task's allocation. -/
def OwnBytes (t : Task) (va : Word) (n off : Nat) : Prop :=
  0 < n ∧ va.toNat = 0x0200000000000000 + off ∧ off + n ≤ 2 ^ 21 ∧ t.alloc ≤ off ∧ off + n ≤ t.alloc + t.size

/-- What an ENQ that has the record `r` becomes in state `u`, the core's engine `e` being the record's: it waits for room, or the
record is at the tail of its queue, a matrix record's rows empty, and the rest of the core as before. -/
def EnqPlaces (s u : State) (c : Fin 256) (a : BitVec 5) (r : Record) : Prop :=
  let k := u.core c
  let e : Fin 4 := (BitVec.ofNat 2 r.engine).toFin
  let x := k.engines[e]
  (16 ≤ x.queue.length → ∃ got, exec (.enq a) s = .next (u.setCore c { k with enqGot := got }).waiting) ∧
  (x.queue.length < 16 → exec (.enq a) s = .next (coreNow u c { k.past with
    engines := k.engines.set e { x with queue := x.queue ++ [r] }, enqGot := []
    lane := if e = 2 then { k.lane with full := k.lane.full &&& ~~~ rowBits (pendingRows r 0) } else k.lane }))

end Sys2Proof.Machine

/-- FORK and JOIN (R114, R115): FORK starts the stream at the lane section's base plus the token's offset and keeps every row,
mask, pointer and steering entry; JOIN of the stream it names ends it where VEND has issued, every write has landed and no entry
but markers is left. A second FORK raises 224, JOIN of no stream 225, of a starved one 227, with entries left 228.
Model's choices: log 1. -/
def Obligations.ForkAndJoin : Prop := ∀ s (c : Fin 256) (t : Task) (id : BitVec 6) (img : Image) (x : Section)
    (f j : SyncEntry), CoreReady s c t → taskImage s t = some img → img.section 2 = some x →
  leadSync s (.core c) 1 id.toNat = some f → leadSync s (.core c) 2 id.toNat = some j →
  let k := s.core c
  let stop (i : Instr) (code : BitVec 12) : State := report s (.core c) code k.ls.pc (ownWord i)
  (k.ls.lane = false → exec (.fork id) s = .next (coreNow s c { k with
    lane := { k.lane with pc := t.image + BitVec.ofNat 64 (x.off + f.valA), levels := [], spacing := 0, restart := .idle,
                          counted := false, popDue := false, ticked := false, overrun := false, stopped := false, starved := false,
                          after := k.ls.seq, body := [] }
    ls := nextPc { k.ls with lane := true, vended := false, forkId := id.setWidth 8 } })) ∧
  (k.ls.lane = true → exec (.fork id) s = .next (stop (.fork id) 224)) ∧
  (k.ls.lane = false ∨ k.ls.forkId.toNat ≠ j.valA → exec (.join id) s = .next (stop (.join id) 225)) ∧
  (k.ls.lane = true → k.ls.forkId.toNat = j.valA →
    (k.ls.vended = true → k.lane.quiet = true → (∀ e ∈ k.steer, e.kind = .marker) →
      exec (.join id) s = .next (coreNow s c { k with
        steer := [], ls := nextPc { k.ls with lane := false, vended := false, forkId := 0 } })) ∧
    (k.ls.vended = true → k.lane.quiet = true → (∃ e ∈ k.steer, e.kind ≠ .marker) →
      exec (.join id) s = .next (stop (.join id) 228)) ∧
    (k.ls.vended = false → k.lane.starved = true → k.steer = [] → exec (.join id) s = .next (stop (.join id) 227)) ∧
    (k.ls.vended = false → k.lane.starved = false → exec (.join id) s = .next s.waiting))

/-- ENQ (R71, R95, R117, R118, R134). It waits for the loads before it. Its reads, wherever they go, end in a record, which goes to the
tail of its engine's queue, in a cause, or in a wait for a bank (R224), which keeps what has been read. In the own scratchpad: an
address that is no multiple of 64 raises 3; CTRL or BAR outside R95's form 4; a reference that is no multiple of 64 3; a pattern outside
R92's form 4; otherwise the record has the 16 numbers there and the patterns that its references name, each from 64 bytes at its signed
distance from the record.
Model's choices: log 1, 29, 44, 52, 64, 66. -/
def Obligations.EnqPlacesRecord : Prop := ∀ s (c : Fin 256) (t : Task) (a : BitVec 5) (addr : Word),
  CoreReady s c t → readSrc (s.core c).ls a = some addr →
  let k := s.core c
  let word := ownWord (.enq a)
  let stops (code : BitVec 12) : Prop := exec (.enq a) s = .next (report s (.core c) code k.ls.pc word)
  (k.ls.lq ≠ [] → exec (.enq a) s = .next s.waiting) ∧
  (k.ls.lq = [] → s.chunk = 0 →
    (∀ u r got, enqRun c t addr word 40 k.enqGot s = .done u r got → EnqPlaces s u c a r) ∧
    (∀ u x, enqRun c t addr word 40 k.enqGot s = .fault u x → exec (.enq a) s = .next (if x.code = 353
      then report (logLead u (.core c)) (.core c) 353 k.ls.pc x.tval else report u (.core c) x.code k.ls.pc x.tval)) ∧
    (∀ u got, enqRun c t addr word 40 k.enqGot s = .on u got →
      exec (.enq a) s = .next (u.setCore c { u.core c with enqGot := got }).waiting) ∧
    (k.enqGot = [] → (∀ x, ErrorAt.scratch c x ∉ s.poison) →
      (addr.toNat % 64 ≠ 0 → stops 3) ∧
      ∀ off, addr.toNat % 64 = 0 → OwnBytes t addr 64 off →
        let f : Vector (BitVec 32) 16 := Vector.ofFn fun i => BitVec.ofNat 32 (memNum k.scratch (off + 4 * i.val) 4)
        let ref (j : Fin 4) : BitVec 32 := f[4 + j.val]
        let aligned : Prop := ∀ j, (ref j).toNat % 64 = 0
        (badCtrl f t.size = true → stops 4) ∧
        (badCtrl f t.size = false → ¬ aligned → stops 3) ∧
        (∀ (ok : Fin 4 → Prop) (pat : Vector (Option Pattern) 4), badCtrl f t.size = false → aligned →
          (∀ j, ok j ↔ (ref j = 0 ∧ pat[j] = none) ∨ (ref j ≠ 0 ∧ ∃ p at_, pat[j] = some p ∧
            OwnBytes t (addr + (ref j).signExtend 64) 64 at_ ∧ parsePattern (memRead k.scratch at_ 64) k.ls.lp t.alloc = some p)) →
          ((∀ j, ok j) → EnqPlaces s s c a { addr := addr, tval := addr, f := f, pat := pat, after := k.ls.seq }) ∧
          (∀ (j : Fin 4) at_, (∀ i, i < j → ok i) → ref j ≠ 0 → OwnBytes t (addr + (ref j).signExtend 64) 64 at_ →
            parsePattern (memRead k.scratch at_ 64) k.ls.lp t.alloc = none → stops 4))))


/-- WPTR and ESTAT (R120, R121, R223): the write pointer of the copy channel, with no L1 copy left that is older than a write of the
channel, and the fields of the queue's status. ECANCEL
(R119): the records of the tag that have not begun are gone from every queue and counted, no other record and no other field of
an engine changes, and it retires where no begun record has the tag.
Model's choices: log 1. -/
def Obligations.EngineStatusAndCancel : Prop :=
  (∀ s (c : Fin 256) (t : Task) (d : BitVec 5) (e : Fin 4) (ch : Bool), CoreReady s c t →
  let k := s.core c
  let x := k.engines[e]
  exec (.wptr d ch) s = .next (coreNow s c { k with
    ls := withResult k.ls d (k.engines[if ch then (1 : Fin 4) else 0]).ptr
    l1 := k.l1.filter fun w => !w.late.getLsbD (if ch then 1 else 0) }) ∧
  (x.queue.length ≤ 16 → exec (.estat d (BitVec.ofNat 2 e.val)) s = .next (leadNow s (.core c) (withResult k.ls d
    (BitVec.ofNat 64 (x.cancelled.toNat * 2 ^ 48 + x.completed.toNat * 2 ^ 32 + (x.latch.getD 0).toNat * 2 ^ 15 +
      (if x.latch.isSome then 2 ^ 14 else 0) + (if x.active = [] then 0 else 2 ^ 7) + x.queue.length)))))) ∧
  (∀ s (c : Fin 256) (t : Task) (tag : BitVec 6), CoreReady s c t →
  (∀ e : Fin 4, ∀ a ∈ (s.core c).engines[e].active, a.r.tag ≠ tag.toNat) →
  ∃ u, exec (.ecancel tag) s = .next u ∧ (u.core c).ls = nextPc (s.core c).ls ∧ (u.core c).steer = (s.core c).steer ∧
    (u.core c).scratch = (s.core c).scratch ∧ u.dram = s.dram ∧
    ∀ e : Fin 4, (u.core c).engines[e] = { (s.core c).engines[e] with
      queue := (s.core c).engines[e].queue.filter fun r => !decide (r.tag = tag.toNat)
      waiting :=
        if ((s.core c).engines[e].queue.head?.any fun r => decide (r.tag = tag.toNat)) = true then none
        else (s.core c).engines[e].waiting
      cancelled := (s.core c).engines[e].cancelled +
        BitVec.ofNat 16 ((s.core c).engines[e].queue.countP fun r => decide (r.tag = tag.toNat)) })

/-- The five pushes (R122, R123): their words; each appends its one entry to a queue of 64, and a push on a full queue waits, or raises
226 where no stream will pop it; a REGION marker takes an entry like any other, and waits for one.
Model's choices: log 1. -/
def Obligations.SteeringPushes : Prop :=
  (∀ (a : BitVec 5) (k : BitVec 4) (sub : Fin 5),
    let word (x : BitVec 6) : BitVec 32 := 0x2B#6 ++ 0#5 ++ a ++ 0#5 ++ BitVec.ofNat 5 sub.val ++ x
    (sub = 0 → decode (.w32 (word (k.setWidth 6))) =
      if k = 0 ∨ k = 4 ∨ k = 8 ∨ k = 12 then (if a = 0 then .ok (.spmask k) else .error 1) else .error 0) ∧
    (sub = 1 → decode (.w32 (word 0)) = .ok (.spmaskn a)) ∧ (sub = 2 → decode (.w32 (word 0)) = .ok (.spcount a)) ∧
    (sub = 3 → decode (.w32 (word 0)) = .ok (.spflag a)) ∧ (sub = 4 → decode (.w32 (word 0)) = .ok (.spval a))) ∧
  (∀ s (c : Fin 256) (t : Task) (live : BitVec 16) (n : Fin 16 → Word), CoreReady s c t → let k := s.core c
    k.ls.lane = true → k.ls.vended = false → k.opening = none → (∀ j : Fin 16, k.ls.n[j] = .val (n j)) → enginesIdle k = true →
    storesPerformed k.ls = true → k.bankOut = 0 →
    ∃ u, exec (.region 0 0 live) s = .next u ∧ (u.core c).ls = k.ls ∧
      (u.core c).steer = if k.steer.length < 64 then k.steer ++ [⟨.marker, k.ls.seq⟩] else k.steer) ∧
  ∀ s (c : Fin 256) (t : Task) (a : BitVec 5) (k4 : BitVec 4) (x : Word)
    (w : Fin 4 → Word), CoreReady s c t → readSrc (s.core c).ls a = some x → (k4 = 0 ∨ k4 = 4 ∨ k4 = 8 ∨ k4 = 12) →
  (∀ j : Fin 4, readSrc (s.core c).ls (BitVec.ofNat 5 (16 + k4.toNat + j.val)) = some (w j)) →
  let k := s.core c
  let pushes (i : Instr) (kind : SteerKind) : Prop :=
    (k.steer.length < 64 → exec i s = .next (coreNow s c { k.past with steer := k.steer ++ [⟨kind, k.ls.seq⟩] })) ∧
    (64 ≤ k.steer.length → k.ls.lane = true → k.ls.vended = false → exec i s = .next s.waiting) ∧
    (64 ≤ k.steer.length → k.ls.lane = false ∨ k.ls.vended = true →
      exec i s = .next (report s (.core c) 226 k.ls.pc (ownWord i)))
  pushes (.spmask k4) (.mask (w 3 ++ w 2 ++ w 1 ++ w 0)) ∧
  pushes (.spmaskn a) (.mask (BitVec.ofFnLE fun l : Fin 256 => decide (l.val < x.toNat))) ∧
  pushes (.spcount a) (.count (x.extractLsb' 0 32)) ∧
  pushes (.spflag a) (.flag (decide (x ≠ 0))) ∧
  pushes (.spval a) (.value x)

/-- REGION outside an open stream and without barriers (R126, R305, R306): where everything before it has come to an end, the
snapshot holds the live named registers, zero for the others, the pins and the lane state; LS_REGION is its address; the seal and
the commit are gone. With an open stream a marker is appended first, and REGION retires once it has been taken; while the steering queue
is full it waits, and a stream that ends meanwhile makes it raise 226 (R123), or, where there is room by then, be recorded as ended.
Model's choices: log 1. -/
def Obligations.RegionSnapshots : Prop := ∀ s (c : Fin 256) (t : Task) (live : BitVec 16) (n : Fin 16 → Word),
  leadInTurn s = some (.core c) → canIssue s (.core c) = true → firstReport s (.core c) = none → dueReport s (.core c) = none →
  heldUp s (.core c) = false → (s.core c).task = some t →
  (∀ k : Fin 16, (s.core c).ls.n[k] = .val (n k)) → enginesIdle (s.core c) = true →
  storesPerformed (s.core c).ls = true → (s.core c).bankOut = 0 → (s.core c).bankStats = [] →
  let k := s.core c
  let saved : Snapshot := { pc := k.ls.pc, live := live, stats := [], bars := [], pins := k.pins, lane := .idle,
                            n := Vector.ofFn fun j => if live.getLsbD j then n j else 0 }
  let retires (x : Snapshot) : Prop := exec (.region 0 0 live) s = .next (coreNow s c { k with
    snap := some x, opening := none, opens := false, commit := false, isSealed := false
    ls := nextPc { k.ls with region := k.ls.pc } })
  (k.opening = none → k.ls.lane = false ∨ k.ls.vended = true →
    (k.opens = false ∨ k.steer.length < 64 →
      retires { saved with lane := if k.ls.lane then .ended k.ls.forkId true k.ls.vended else .idle }) ∧
    (k.opens = true → 64 ≤ k.steer.length →
      exec (.region 0 0 live) s = .next (report s (.core c) 226 k.ls.pc (ownWord (.region 0 0 live))))) ∧
  (k.opening = none → k.ls.lane = true → k.ls.vended = false →
    (k.steer.length < 64 → exec (.region 0 0 live) s = .next { s.setCore c { k with
      steer := k.steer ++ [⟨.marker, k.ls.seq⟩], opens := false, opening := some saved } with stalled := true }) ∧
    (64 ≤ k.steer.length → exec (.region 0 0 live) s = .next (s.setCore c { k with opens := true }).waiting)) ∧
  ∀ o, k.opening = some o →
    ((∀ e ∈ k.steer, e.kind ≠ .marker) → retires { o with lane := k.lane.restart }) ∧
    ((∃ e ∈ k.steer, e.kind = .marker) → exec (.region 0 0 live) s = .next s.waiting)

/-- HALT (R127): a task without a stream, without steering entries and with nothing in progress ends; its core is idle and
holds no task; while an engine fault is latched and not delivered it waits (R297); with steering entries left it raises 228; on the
management core it raises 326.
Model's choices: log 1. -/
def Obligations.HaltEndsTask : Prop := ∀ s,
  (∀ (c : Fin 256) (t : Task), LeadReady s (.core c) → (s.core c).task = some t → (s.core c).ls.lane = false →
    ((∃ e ∈ (s.core c).steer, e.kind ≠ .marker) →
      exec .halt s = .next (report s (.core c) 228 (s.core c).ls.pc 0xB4000080)) ∧
    ((s.core c).steer = [] → undelivered (s.core c) ≠ none → exec .halt s = .next s.waiting) ∧
    ((s.core c).steer = [] → enginesIdle (s.core c) = true → storesPerformed (s.core c).ls = true → inTransit s c = false →
      undelivered (s.core c) = none →
      ∃ u, exec .halt s = .next u ∧ (u.core c).task = none ∧ (u.core c).run = .idle ∧ (u.core c).pins = [])) ∧
  (LeadReady s .mgmt → exec .halt s = .next (report s .mgmt 326 s.mgmt.ls.pc 0xB4000080))

/-- The delivery of a latched engine fault (R297 to R300): the event makes it due at the next issue boundary of the lead slice. There
the lowest engine's undelivered fault is reported in place of an instruction that would issue (stated for MOV): LS_CAUSE names the engine
and the code, LS_EPC the next lead word, LS_TVAL what the latch holds; the latch stays and is not delivered again, and this is so also
while an access of the slice can still fail. A fault of the word itself comes first (stated for TRAP), unless the engine's fault is a
poisoned word (369, 377), which comes before every other (R298).
Model's choices: log 1, 8. -/
def Obligations.EngineFaultDelivered : Prop := ∀ s (c : Fin 256),
  let k := s.core c
  (s.turn = .lead c → undelivered k ≠ none →
    exec .engineFaultDelivery s = .next { s.setCore c { k with due := true } with stalled := false }) ∧
  ∀ (e : Fin 4) (code : BitVec 9) (tval : Word) (d a : BitVec 5) (n : BitVec 6),
  leadInTurn s = some (.core c) → canIssue s (.core c) = true → k.commit = false →
  k.poisoned = none → k.laneFault = none → k.due = true →
  k.engines[e].latch = some code → k.engines[e].undelivered = some tval →
  let poison (j : Fin 4) : Prop := k.engines[j].undelivered ≠ none ∧ (k.engines[j].latch = some 369 ∨ k.engines[j].latch = some 377)
  let reported (u : State) : Prop := SameMemory s u ∧ (u.core c).ls.cause.toNat = e.val * 1024 + 512 + code.toNat ∧
    (u.core c).ls.epc = k.ls.pc ∧ (u.core c).ls.tval = tval ∧ (u.core c).run = .trapped ∧ (u.core c).due = false ∧
    (u.core c).engines[e] = { k.engines[e] with undelivered := none }
  ((∀ j, ¬poison j) → (∀ j, j < e → k.engines[j].undelivered = none) →
    (heldUp s (.core c) = false ∨ failDue k.ls = false → ∃ u, exec (.mov d a) s = .next u ∧ reported u) ∧
    (heldUp s (.core c) = false → exec (.trap n) s = .next (report s (.core c) 324 k.ls.pc (n.setWidth 64)))) ∧
  (poison e → (∀ j, j < e → ¬poison j) →
    (∃ u, exec (.mov d a) s = .next u ∧ reported u) ∧ ∃ u, exec (.trap n) s = .next u ∧ reported u)

/-- The basin instructions (R257 to R261). BPIN waits while a matrix record before it has not completed or an earlier store is not
performed, and for a bank that the header's read meets; then, where a valid basin holds the slice and the pin table and the 24 pinned
basins leave room, it sets the slice's bit in the entry of the header, whose read recalls what other agents hold, and pins the lowest
valid basin of a slice of which none is pinned; a slice that no basin holds is read, put into the basin that R243 chooses and pinned
there. BUNPIN clears the bit and unpins the slice's basin, and waits for nothing. BINVAL of scope core leaves no basin of the tile in the
core; of a wider scope none in any core of the vale. BPROBE reads the slice's fields. BFILL queues on the matrix engine a record of OP
0x10 without FLAGS, whose AUX is 8 + x and whose OPF fields are the header's address.
Model's choices: log 1, 44. -/
def Obligations.BasinInstructions : Prop := ∀ s (c : Fin 256) (t : Task) (d a : BitVec 5) (x : BitVec 3) (hdr : Word),
  CoreReady s c t → readSrc (s.core c).ls a = some hdr →
  let k := s.core c
  let asid := (s.vale t.vale).asid
  let own (y : Fin 32) : Prop :=
    k.basins[y].st = .valid ∧ k.basins[y].asid = asid ∧ k.basins[y].hdr = hdr ∧ k.basins[y].slice = x.toNat
  let bit : BitVec 8 := 1#8 <<< x.toNat
  let settled : Prop := k.engines[2].queue = [] ∧ k.engines[2].active = [] ∧ storesPerformed k.ls = true
  let pinsBecome (u : State) (m : BitVec 8) : Prop := pinBits (u.core c) hdr = m ∧
    ∀ h, h ≠ hdr → pinBits (u.core c) h = pinBits k h
  (¬settled → exec (.bpin a x) s = .next s.waiting ∧ exec (.binval a 0) s = .next s.waiting ∧
    exec (.binval a 1) s = .next s.waiting) ∧
  (settled → k.pinFill = none → headerWaits s t hdr = true → exec (.bpin a x) s = .next s.waiting) ∧
  (settled → k.pinFill = none → headerWaits s t hdr = false → ∀ h, readHeader s t 0 hdr = .ok h → x.toNat < h.s →
    pinBits k hdr ≠ 0 ∨ k.pins.length < 8 →
    let z := noteHeader s t hdr
    (∀ b : Fin 32, own b → (∀ y, own y → b ≤ y) → (∀ y, own y → k.basins[y].pinned = false) → pinnedCount k < 24 →
      ∃ u, exec (.bpin a x) s = .next u ∧ pinsBecome u (pinBits k hdr ||| bit) ∧ u = coreNow z c { (z.core c).past with
        pins := (u.core c).pins, basins := k.basins.set b { k.basins[b] with pinned := true } }) ∧
    ((∃ b : Fin 32, own b ∧ k.basins[b].pinned = true) →
      ∃ u, exec (.bpin a x) s = .next u ∧ pinsBecome u (pinBits k hdr ||| bit) ∧
        u = coreNow z c { (z.core c).past with pins := (u.core c).pins }) ∧
    (∀ s' y tile (b : Fin 32), (∀ y, ¬own y) → pinnedCount k < 24 →
      tileRun (z.setCore c { z.core c with recSeq := k.recSeq + 1 }) c t 0 (TileRead.start k.recSeq hdr h []) = .on s' y →
      y.words = [] → y.tile 0 = .ok tile → victim (s'.core c) = some b →
      ∃ u, exec (.bpin a x) s = .next u ∧ (pinBits (u.core c) hdr).getLsbD x.toNat = true ∧
        (u.core c).basins[b].st = .valid ∧ (u.core c).basins[b].hdr = hdr ∧ (u.core c).basins[b].slice = x.toNat ∧
        (u.core c).ls = nextPc (s'.core c).ls)) ∧
  (∃ u, exec (.bunpin a x) s = .next u ∧ pinsBecome u (pinBits k hdr &&& ~~~ bit) ∧
    u = coreNow s c { k.past with pins := (u.core c).pins, basins := (u.core c).basins } ∧
    ∀ y : Fin 32, (u.core c).basins[y] =
      if k.basins[y].asid = asid ∧ k.basins[y].hdr = hdr ∧ k.basins[y].slice = x.toNat then
        { k.basins[y] with pinned := false } else k.basins[y]) ∧
  (settled → ∀ scope : BitVec 2,
    let reached (e : Fin 256) : Prop := if scope = 0 then e = c else (s.vale t.vale).cores.getLsbD e = true
    let holds (z : Basin) : Prop := z.st ≠ .invalid ∧ z.asid = asid ∧ z.hdr = hdr
    (∀ e, reached e → ∀ y : Fin 32, holds (s.core e).basins[y] →
      (s.core e).basins[y].holder = [] ∧ ((s.core e).basins[y].st = .valid ∨ (s.core e).basins[y].st = .stale)) →
    ∃ u, exec (.binval a scope) s = .next u ∧ SameMemory s u ∧ (u.core c).ls = nextPc k.ls ∧
      ∀ e, (u.core e).pins = (s.core e).pins ∧ ∀ y : Fin 32,
        (reached e → holds (s.core e).basins[y] → (u.core e).basins[y].st = .invalid) ∧
        (¬(reached e ∧ holds (s.core e).basins[y]) → (u.core e).basins[y] = (s.core e).basins[y])) ∧
  (∀ low : Nat, (∀ y, own y → low ≤ y.val) → ((∃ y, own y ∧ y.val = low) ∨ (low = 0 ∧ ∀ y, ¬own y)) →
    exec (.bprobe d a x) s = .next (leadNow s (.core c) (withResult k.ls d
      (BitVec.ofNat 64 (low * 256 + min (validBasins k asid hdr x.toNat).length 7 * 4 +
        (if (pinBits k hdr).getLsbD x.toNat then 2 else 0) + if validBasins k asid hdr x.toNat = [] then 0 else 1))))) ∧
  (k.engines[2].queue.length < 16 →
    ∃ r, exec (.bfill a x) s = .next (coreNow s c { k.past with
        engines := k.engines.set (2 : Fin 4) { k.engines[(2 : Fin 4)] with queue := k.engines[(2 : Fin 4)].queue ++ [r] } }) ∧
      r.op = 0x10 ∧ r.tag = 0 ∧ r.flags = 0 ∧ r.aux = 8 + x.toNat ∧ r.ben = false ∧ r.tval = hdr ∧
      r.opf 0 + r.opf 1 * 2 ^ 32 = hdr.toNat) ∧
  (16 ≤ k.engines[2].queue.length → exec (.bfill a x) s = .next s.waiting)

/-! ## The lane slice -/

namespace Sys2Proof.Machine

/-- The clk in which the next word is reached: one on, unless the pop of a FLAG has begun it (R131, R135). -/
def clkAt (l : LaneSlice) : Nat := if l.ticked then l.clk else l.clk + 1

/-- The lane slice of core `c`, which runs task `t`, stands at the word `i` with the fields `w`, and the word issues (R131, R134 to
R141): a stream is active, no write in flight is due at this clk, no marker waits, the counter has room, FIRST and LAST do not
suppress the word, and the rows it demands and writes are full. -/
def LaneReady (s : State) (c : Fin 256) (t : Task) (i : Instr) (w : LaneWord) : Prop :=
  let k := s.core c
  let l := k.lane
  let op : Nat := match laneOf i with
    | some x => x.1
    | none => 0
  s.turn = .lane c ∧ k.task = some t ∧ k.run = .running ∧ k.ls.lane = true ∧ k.ls.vended = false ∧ l.stopped = false ∧
  storesDone k l.after = true ∧ l.popDue = false ∧ l.overrun = false ∧ (∀ x ∈ l.flight, clkAt l < x.lands) ∧
  (∀ e ∈ k.steer, e.kind ≠ .marker) ∧ (l.counted = true ∨ l.spacing < 64) ∧
  (l.levels = [] ∨ w.first = false ∧ w.last = false) ∧
  (∀ r ∈ demanded op w, l.full.getLsbD r.toNat = true) ∧ (writesRow op w = true → l.full.getLsbD w.dst.toNat = true)

/-- The spacing counter once the word has been reached (R136). -/
def spacingAt (l : LaneSlice) (w : LaneWord) : Nat :=
  if l.counted then l.spacing
  else if w.stop && l.flight.isEmpty && l.gathers.isEmpty then 0 else l.spacing + 1

/-- The slice in the clk of the word, at the next word, with the writes of the word in flight. -/
def laneAfter (l : LaneSlice) (w : LaneWord) (ds : List (Nat × LaneDest)) : LaneSlice :=
  goTo { l with clk := clkAt l, ticked := false, spacing := spacingAt l w
                flight := ds.foldl (fun fs x => insertWrite ⟨clkAt l + x.1, x.2⟩ fs) l.flight } (l.pc + 8) l.levels

/-- The state after the word has issued with the write `d`, which lands `lat` clk later (R135). -/
def laneWrote (s : State) (c : Fin 256) (w : LaneWord) (lat : Nat) (d : LaneDest) : State :=
  coreNow s c { s.core c with lane := laneAfter (s.core c).lane w [(lat, d)] }

/-- Field `l` of `W` bits of a row (R132). -/
def rowField (k : Core) (r : BitVec 8) (W l : Nat) : Nat := (k.lane.rows[r.toFin]).toNat / 2 ^ (W * l) % 2 ^ W

/-- act(l) (R143). -/
def activeAt (k : Core) (w : LaneWord) (l : Nat) : Bool :=
  !w.men || decide (l < 256) && xor w.minv ((k.lane.masks[w.mask.toFin]).getLsbD l)

/-- A write of the first `n` fields of `W` bits of the destination row, field `j` taking `f j` where `p j` holds. -/
def rowWrite (w : LaneWord) (W n : Nat) (f : Nat → Nat) (p : Nat → Bool) : LaneDest :=
  .row w.dst.toFin (BitVec.ofNat 2048 (packLanes W ((List.range n).map f))) (laneEnable W n p)

/-- The rounding of input `j` of a lane word (R87, R145). -/
def laneMode (k : Core) (w : LaneWord) (j : Nat) : Rnd :=
  if w.rnd = 0 then .rne else if w.rnd = 1 then .rtz else if w.rnd = 2 then .rto
  else .rst (rstLane w.c.toNat j k.lane.pc (k.lane.levels.map (·.pass)))

/-- The word `i w` writes the lanes of its type under its mask, lane `l` taking `f core l` (R143). -/
def LaneGives (i : LaneWord → Instr) (lat : Nat) (f : Core → LaneWord → Nat → Nat) : Prop :=
  ∀ s c t w, LaneReady s c t (i w) w → exec (i w) s = .next (laneWrote s c w lat
    (rowWrite w (typeWidth w.ty.toNat) (laneCount w.ty.toNat) (f (s.core c) w) (activeAt (s.core c) w)))

/-- The same for the parts of the lanes of a float type: lane `l` of a complex type has the parts 2l and 2l + 1 (R132). -/
def PartGives (i : LaneWord → Instr) (lat : Nat) (f : Core → LaneWord → Nat → Nat) : Prop :=
  ∀ s c t w, LaneReady s c t (i w) w → 8 ≤ w.ty.toNat →
    let q := if w.ty.toNat = 12 ∨ w.ty.toNat = 13 then 2 else 1
    exec (i w) s = .next (laneWrote s c w lat (rowWrite w (fmtOf w.ty.toNat).width (laneCount w.ty.toNat * q)
      (f (s.core c) w) fun j => activeAt (s.core c) w (j / q)))

/-- Part `j` of a row as a value. -/
def partVal (k : Core) (w : LaneWord) (r : BitVec 8) (j : Nat) : FVal :=
  (fmtOf w.ty.toNat).value (rowField k r (fmtOf w.ty.toNat).width j)

/-- A float word whose part `j` is the exact value `f` rounded once (R143). -/
def FloatGives (i : LaneWord → Instr) (lat : Nat) (f : (Nat → FVal) → (Nat → FVal) → (Nat → FVal) → LaneWord → Nat → FVal) :
    Prop :=
  PartGives i lat fun k w j =>
    (fmtOf w.ty.toNat).round (laneMode k w j) (f (partVal k w w.a) (partVal k w w.b) (partVal k w w.c) w j)

/-- A field of an integer type as a number: signed for types 0 to 3 (R88). -/
def typeInt (ty n : Nat) : Int :=
  if ty < 4 ∧ 2 ^ (typeWidth ty - 1) ≤ n then (n : Int) - 2 ^ typeWidth ty else n

/-- op(x, y) of VRED and VSCAN at the node of level `h` that writes position `i` (R145, R158). -/
def treeNode (k : Core) (w : LaneWord) (h i x y : Nat) : Nat :=
  let F := fmtOf w.ty.toNat
  let fn := w.fn.toNat % 4
  if 8 ≤ w.ty.toNat then
    if fn = 0 then F.round (laneMode k w (i + 256 * h)) (FVal.add (F.value x) (F.value y))
    else F.round .rne (if fn = 1 then FVal.min (F.value x) (F.value y) else FVal.max (F.value x) (F.value y))
  else if fn = 0 then (x + y) % 2 ^ typeWidth w.ty.toNat
  else if fn = 1 then (if typeInt w.ty.toNat x ≤ typeInt w.ty.toNat y then x else y)
  else if fn = 2 then (if typeInt w.ty.toNat x ≥ typeInt w.ty.toNat y then x else y)
  else x ||| y

/-- y[j] after level `h` of the fixed pairwise tree over the lanes `a` (R158). -/
def treeAt (f : Nat → Nat → Nat → Nat → Nat) (a : Nat → Nat) : Nat → Nat → Nat
  | 0, j => a j
  | h + 1, j => f (h + 1) j (treeAt f a h (2 * j)) (treeAt f a h (2 * j + 1))

/-- x[l] after `h` doubling steps of the inclusive prefix over the lanes `a` (R159). -/
def scanAt (f : Nat → Nat → Nat → Nat → Nat) (a : Nat → Nat) : Nat → Nat → Nat
  | 0, l => a l
  | h + 1, l => if 2 ^ h ≤ l then f (h + 1) l (scanAt f a h (l - 2 ^ h)) (scanAt f a h l) else scanAt f a h l

/-- A result of an integer type: clamped with SAT, else modulo 2^w (R153). -/
def typeBits (ty : Nat) (sat : Bool) (i : Int) : Nat :=
  let lo : Int := if ty < 4 then -2 ^ (typeWidth ty - 1) else 0
  let hi : Int := if ty < 4 then 2 ^ (typeWidth ty - 1) - 1 else 2 ^ typeWidth ty - 1
  ((if sat then max lo (min hi i) else i) % 2 ^ typeWidth ty).toNat

end Sys2Proof.Machine

/-- The float words of the lanes (R146, R147, R151, R172): the exact value of each part, rounded once under the word's mode; signs
and conjugates change a sign bit, minima and maxima choose an operand.
Model's choices: log 1. -/
def Obligations.LaneFloatResults : Prop :=
  FloatGives .vadd 3 (fun a b _ _ j => FVal.add (a j) (b j)) ∧
  FloatGives .vsub 3 (fun a b _ _ j => FVal.add (a j) (b j).neg) ∧
  FloatGives .vmul 4 (fun a b _ _ j => FVal.mul (a j) (b j)) ∧
  FloatGives .vfma 4 (fun a b c _ j => FVal.add (FVal.mul (a j) (b j)) (c j)) ∧
  FloatGives .vfms 4 (fun a b c _ j => FVal.add (FVal.mul (a j) (b j)) (c j).neg) ∧
  FloatGives .vsca 3 (fun a _ _ w j => (a j).scale w.c.toInt) ∧
  (let F (w : LaneWord) : Fmt := fmtOf w.ty.toNat
   let bitsOf (k : Core) (w : LaneWord) (j : Nat) : Nat := rowField k w.a (F w).width j
   PartGives .vneg 1 (fun k w j => bitsOf k w j ^^^ 2 ^ ((F w).width - 1)) ∧
   PartGives .vabs 1 (fun k w j => bitsOf k w j % 2 ^ ((F w).width - 1)) ∧
   PartGives .vconj 1 (fun k w j => if j % 2 = 1 then bitsOf k w j ^^^ 2 ^ ((F w).width - 1) else bitsOf k w j) ∧
   PartGives .vmin 3 (fun k w j => (F w).round .rne (FVal.min (partVal k w w.a j) (partVal k w w.b j))) ∧
   PartGives .vmax 3 (fun k w j => (F w).round .rne (FVal.max (partVal k w w.a j) (partVal k w w.b j)))) ∧
  (let re (a : Nat → FVal) (j : Nat) : FVal := a (j / 2 * 2)
   let im (neg : Bool) (a : Nat → FVal) (j : Nat) : FVal := if neg then (a (j / 2 * 2 + 1)).neg else a (j / 2 * 2 + 1)
   let prod (a b : Nat → FVal) (w : LaneWord) (j : Nat) : FVal :=
     if j % 2 = 1 then FVal.add (FVal.mul (re a j) (im (w.fn.getLsbD 0) b j)) (FVal.mul (im (w.fn.getLsbD 1) a j) (re b j))
     else FVal.add (FVal.mul (re a j) (re b j)) (FVal.mul (im (w.fn.getLsbD 1) a j) (im (w.fn.getLsbD 0) b j)).neg
   FloatGives .vcmul 6 (fun a b _ w j => prod a b w j) ∧
   FloatGives .vcfma 6 (fun a b c w j => FVal.add (prod a b w j) (c j)))

/-- The special functions (R152) round their value once; the values of the special operands; VCMP writes the condition to the mask
and zero beyond the last lane (R148); VCVT converts lane by lane and zeroes the lanes beyond (R149).
Model's choices: log 1, 16. -/
def Obligations.LaneFunctionResults : Prop :=
  FloatGives .vrcp 8 (fun a _ _ _ j => (a j).rcp) ∧ FloatGives .vrsq 8 (fun a _ _ _ j => (a j).rsq) ∧
  FloatGives .vsqrt 12 (fun a _ _ _ j => (a j).sqrt) ∧ FloatGives .vexp2 10 (fun a _ _ _ j => (a j).exp2) ∧
  FloatGives .vlog2 10 (fun a _ _ _ j => (a j).log2) ∧ FloatGives .vtanh 14 (fun a _ _ _ j => (a j).tanh) ∧
  (∀ n e, (FVal.fin n 0 e).rcp = .inf n ∧ (FVal.fin n 0 e).rsq = .inf n ∧ (FVal.fin n 0 e).sqrt = .fin n 0 0 ∧
    (FVal.fin n 0 e).log2 = .inf true ∧ (FVal.fin n 0 e).tanh = .fin n 0 0) ∧
  (∀ n, (FVal.inf n).rcp = .fin n 0 0 ∧ (FVal.inf n).tanh = .fin n 1 0) ∧
  ((FVal.inf false).rsq = .fin false 0 0 ∧ (FVal.inf false).sqrt = .inf false ∧ (FVal.inf false).exp2 = .inf false ∧
    (FVal.inf false).log2 = .inf false ∧ (FVal.inf true).rsq = .nan ∧ (FVal.inf true).sqrt = .nan ∧
    (FVal.inf true).exp2 = .fin false 0 0 ∧ (FVal.inf true).log2 = .nan) ∧
  (∀ m e, m ≠ 0 → (FVal.fin true m e).rsq = .nan ∧ (FVal.fin true m e).sqrt = .nan ∧ (FVal.fin true m e).log2 = .nan) ∧
  (∀ s c t w, LaneReady s c t (.vcmp w) w → exec (.vcmp w) s = .next (laneWrote s c w 3 (.mask
    (w.dst.extractLsb' 0 3).toFin
    (BitVec.ofNat 256 (packLanes 1 ((List.range (laneCount w.ty.toNat)).map fun l =>
      let a := partVal (s.core c) w w.a l
      let b := partVal (s.core c) w w.b l
      match (w.fn.extractLsb' 0 3).toNat with
      | 0 => (FVal.eq a b).toNat
      | 1 => (!FVal.eq a b).toNat
      | 2 => (FVal.lt a b).toNat
      | 3 => (FVal.lt a b || FVal.eq a b).toNat
      | _ => (a.isNan || b.isNan).toNat)))
    (BitVec.ofNat 256 (packLanes 1 ((List.range 256).map fun l =>
      (decide (laneCount w.ty.toNat ≤ l) || activeAt (s.core c) w l).toNat)))))) ∧
  ∀ s c t w, LaneReady s c t (.vcvt w) w → w.ty.toNat < 12 →
    let k := s.core c
    let st := (w.fn.extractLsb' 3 4).toNat
    let dt := w.ty.toNat
    let n := min (laneCount dt) (laneCount st)
    exec (.vcvt w) s = .next (laneWrote s c w 3 (rowWrite w (typeWidth dt) (2048 / typeWidth dt)
      (fun l => if l < n then convert dt st w.sat (laneMode k w l) (rowField k w.a (typeWidth st) l) else 0)
      fun l => decide (n ≤ l) || activeAt k w l))

/-- The integer, shift and bit words of the lanes (R153, R154).
Model's choices: log 1. -/
def Obligations.LaneIntegerResults : Prop :=
  let A (k : Core) (w : LaneWord) (l : Nat) : Nat := rowField k w.a (typeWidth w.ty.toNat) l
  let B (k : Core) (w : LaneWord) (l : Nat) : Nat := rowField k w.b (typeWidth w.ty.toNat) l
  let C (k : Core) (w : LaneWord) (l : Nat) : Nat := rowField k w.c (typeWidth w.ty.toNat) l
  let W (w : LaneWord) : Nat := typeWidth w.ty.toNat
  let I (w : LaneWord) (n : Nat) : Int := typeInt w.ty.toNat n
  let res (w : LaneWord) (i : Int) : Nat := typeBits w.ty.toNat w.sat i
  let count (w : LaneWord) (n : Nat) : Nat := if w.fn.getLsbD 0 then w.c.toNat else n % W w
  let signed (w : LaneWord) (n : Nat) : Int := if 2 ^ (W w - 1) ≤ n then (n : Int) - 2 ^ W w else n
  LaneGives .vaddi 1 (fun k w l => res w (I w (A k w l) + I w (B k w l))) ∧
  LaneGives .vsubi 1 (fun k w l => res w (I w (A k w l) - I w (B k w l))) ∧
  LaneGives .vmuli 3 (fun k w l => res w (I w (A k w l) * I w (B k w l))) ∧
  LaneGives .vmulhi 3 (fun k w l => (I w (A k w l) * I w (B k w l) / 2 ^ W w % 2 ^ W w).toNat) ∧
  LaneGives .vand 1 (fun k w l => A k w l &&& B k w l) ∧ LaneGives .vor 1 (fun k w l => A k w l ||| B k w l) ∧
  LaneGives .vxor 1 (fun k w l => A k w l ^^^ B k w l) ∧
  LaneGives .vandn 1 (fun k w l => A k w l &&& (2 ^ W w - 1 - B k w l)) ∧
  LaneGives .vshl 1 (fun k w l => A k w l * 2 ^ count w (B k w l) % 2 ^ W w) ∧
  LaneGives .vshr 1 (fun k w l => A k w l / 2 ^ count w (B k w l)) ∧
  LaneGives .vsar 1 (fun k w l => (signed w (A k w l) / 2 ^ count w (B k w l) % 2 ^ W w).toNat) ∧
  LaneGives .vfshl 1 (fun k w l => (A k w l * 2 ^ W w + B k w l) * 2 ^ count w (C k w l) / 2 ^ W w % 2 ^ W w) ∧
  LaneGives .vfshr 1 (fun k w l => (A k w l * 2 ^ W w + B k w l) / 2 ^ count w (C k w l) % 2 ^ W w) ∧
  LaneGives .vclz 1 (fun k w l => (List.range (W w)).findIdx fun i => (A k w l).testBit (W w - 1 - i)) ∧
  LaneGives .vpopc 1 (fun k w l => (List.range (W w)).countP fun i => (A k w l).testBit i) ∧
  LaneGives .vmini 1 (fun k w l => if I w (A k w l) ≤ I w (B k w l) then A k w l else B k w l) ∧
  LaneGives .vmaxi 1 (fun k w l => if I w (A k w l) ≥ I w (B k w l) then A k w l else B k w l)

/-- The cross-lane and mask words (R155 to R161, R171): lanes chosen by a row, a number or the mask; the fixed pairwise tree and
the doubling scan with each of their operations, sums, minima, maxima and OR, whose sums of integers are plain sums; masks bit by bit,
whatever the mask; the count of a mask's lanes.
Model's choices: log 1. -/
def Obligations.LaneMoveResults : Prop :=
  let A (k : Core) (w : LaneWord) (l : Nat) : Nat := rowField k w.a (typeWidth w.ty.toNat) l
  let B (k : Core) (w : LaneWord) (l : Nat) : Nat := rowField k w.b (typeWidth w.ty.toNat) l
  let L (w : LaneWord) : Nat := laneCount w.ty.toNat
  let M (k : Core) (f : BitVec 8) : LaneMask := k.lane.masks[(f.extractLsb' 0 3).toFin]
  let masks (i : LaneWord → Instr) (f : Core → LaneWord → LaneMask) : Prop := ∀ s c t w, LaneReady s c t (i w) w →
    exec (i w) s = .next (laneWrote s c w 1 (.mask (w.dst.extractLsb' 0 3).toFin (f (s.core c) w) (BitVec.allOnes 256)))
  LaneGives .vshuf 2 (fun k w l => A k w (B k w l % L w)) ∧
  LaneGives .vbcast 2 (fun k w _ => A k w w.c.toNat) ∧
  LaneGives .vrot 2 (fun k w l => A k w ((l + w.c.toNat) % L w)) ∧
  LaneGives .vzero 1 (fun _ _ _ => 0) ∧
  (∀ s c t w, LaneReady s c t (.vsel w) w → exec (.vsel w) s = .next (laneWrote s c w 2
    (rowWrite w (typeWidth w.ty.toNat) (L w)
      (fun l => if activeAt (s.core c) w l then A (s.core c) w l else B (s.core c) w l) fun _ => true))) ∧
  (∀ s c t w, LaneReady s c t (.vred w) w → w.ty.toNat < 8 → w.fn.extractLsb' 0 2 = 0 → exec (.vred w) s =
    .next (laneWrote s c w (2 + Nat.log2 (L w)) (rowWrite w (typeWidth w.ty.toNat) (L w)
      (fun _ => ((List.range (L w)).map (A (s.core c) w)).sum % 2 ^ typeWidth w.ty.toNat) (activeAt (s.core c) w)))) ∧
  (∀ s c t w, LaneReady s c t (.vscan w) w → w.ty.toNat < 8 → w.fn.extractLsb' 0 2 = 0 → exec (.vscan w) s =
    .next (laneWrote s c w (2 + Nat.log2 (L w)) (rowWrite w (typeWidth w.ty.toNat) (L w)
      (fun l => ((List.range (l + 1)).map (A (s.core c) w)).sum % 2 ^ typeWidth w.ty.toNat) (activeAt (s.core c) w)))) ∧
  (∀ s c t w, w.ty.toNat < 8 ∨ w.ty.toNat < 12 ∧ w.fn.toNat % 4 ≠ 3 →
    (LaneReady s c t (.vred w) w → exec (.vred w) s =
      .next (laneWrote s c w (2 + Nat.log2 (L w)) (rowWrite w (typeWidth w.ty.toNat) (L w)
        (fun _ => treeAt (treeNode (s.core c) w) (A (s.core c) w) (Nat.log2 (L w)) 0) (activeAt (s.core c) w)))) ∧
    (LaneReady s c t (.vscan w) w → exec (.vscan w) s =
      .next (laneWrote s c w (2 + Nat.log2 (L w)) (rowWrite w (typeWidth w.ty.toNat) (L w)
        (scanAt (treeNode (s.core c) w) (A (s.core c) w) (Nat.log2 (L w))) (activeAt (s.core c) w))))) ∧
  masks .mand (fun k w => M k w.a &&& M k w.b) ∧ masks .mor (fun k w => M k w.a ||| M k w.b) ∧
  masks .mxor (fun k w => M k w.a ^^^ M k w.b) ∧ masks .mnot (fun k w => ~~~ M k w.a) ∧
  ∀ s c t w, LaneReady s c t (.mpop w) w → exec (.mpop w) s = .next (laneWrote s c w 2 (.row w.dst.toFin
    (BitVec.ofNat 2048 ((List.range (L w)).countP fun l => (M (s.core c) w.a).getLsbD l)) (BitVec.allOnes 2048)))

/-- Steering, replay and pointers (R138, R162 to R164, R169, R173): the entry at the head is popped; VREP opens a level of COUNT
passes or skips its body, VREPF goes by its first FLAG; the words of a body that no buffer holds are fetched to judge it, and a DRAM bank
that one of them waits for holds the word (R224); VRDV reads the pass index; VEND ends the stream.
Model's choices: log 1, 44. -/
def Obligations.LaneControlResults : Prop := ∀ s (c : Fin 256) (t : Task) (w : LaneWord) (rest : List SteerEntry) (n : Nat),
  let k := s.core c
  let l := k.lane
  let popped (x : SteerKind) : Prop := k.steer = ⟨x, n⟩ :: rest ∧ storesDone k n = true
  let reached : LaneSlice := { l with clk := clkAt l, ticked := false, spacing := spacingAt l w, counted := false, starved := false }
  (∀ v, LaneReady s c t (.vpopv w) w → w.fn.getLsbD 0 = false → popped (.value v) →
    exec (.vpopv w) s = .next (coreNow s c { k with steer := rest, lane := laneAfter l w [(1, rowWrite w
      (typeWidth w.ty.toNat) (laneCount w.ty.toNat) (fun _ => v.toNat % 2 ^ typeWidth w.ty.toNat) (activeAt k w))] })) ∧
  (∀ m, LaneReady s c t (.vpopv w) w → w.fn.getLsbD 0 = true → popped (.mask m) →
    exec (.vpopv w) s = .next (coreNow s c { k with steer := rest, lane := laneAfter l w [(1,
      .mask (w.dst.extractLsb' 0 3).toFin m (BitVec.allOnes 256))] })) ∧
  (LaneReady s c t (.vrep w) w → bodyHeld s c t.vale 0x49 w = false →
    nestBad l.levels l.pc w.c.toNat (vendAt s l t.vale) = false → ∀ m, popped (.count m) →
    let z := bodyWalked s c t.vale 0x49 w
    (m ≠ 0 → exec (.vrep w) s = .next (coreNow z c { z.core c with steer := rest, lane := { reached with
      pc := l.pc + 8, levels := ⟨l.pc + 8, w.c.toNat, false, 0, m⟩ :: l.levels
      body := if l.levels = [] then [] else l.body } })) ∧
    (m = 0 → l.levels = [] → exec (.vrep w) s = .next (coreNow z c { z.core c with steer := rest, lane := { reached with
      pc := l.pc + 8 + BitVec.ofNat 64 (8 * w.c.toNat) } }))) ∧
  (LaneReady s c t (.vrepf w) w → bodyHeld s c t.vale 0x4A w = false →
    nestBad l.levels l.pc w.c.toNat (vendAt s l t.vale) = false → ∀ b, popped (.flag b) →
    let z := bodyWalked s c t.vale 0x4A w
    (b = true → exec (.vrepf w) s = .next (coreNow z c { z.core c with steer := rest, lane := { reached with
      pc := l.pc + 8, levels := ⟨l.pc + 8, w.c.toNat, true, 0, 0⟩ :: l.levels
      body := if l.levels = [] then [] else l.body } })) ∧
    (b = false → l.levels = [] → exec (.vrepf w) s = .next (coreNow z c { z.core c with steer := rest, lane := { reached with
      pc := l.pc + 8 + BitVec.ofNat 64 (8 * w.c.toNat) } }))) ∧
  (LaneReady s c t (.vrdv w) w → exec (.vrdv w) s = .next (laneWrote s c w 1 (rowWrite w 32 64
    (fun _ => ((l.levels.map Replay.pass).getD (w.fn.extractLsb' 0 2).toNat 0).toNat) fun _ => true))) ∧
  (LaneReady s c t (.vend w) w → exec (.vend w) s = .next (coreNow s c { k with
    lane := reached, ls := { k.ls with vended := true } })) ∧
  (let p : Fin 8 := (w.fn.extractLsb' 4 3).toFin
   let source : BitVec 32 := (k.lane.rows[w.a.toFin]).extractLsb' 0 32
   let pointer (v : BitVec 32) : State :=
     coreNow s c { k with lane := { laneAfter l w [] with ptrs := l.ptrs.set p v } }
   (LaneReady s c t (.qset w) w →
     exec (.qset w) s = .next (pointer (if w.fn.getLsbD 3 then BitVec.ofNat 32 (w.c.toNat * 256) else source))) ∧
   (LaneReady s c t (.qadd w) w →
     exec (.qadd w) s = .next (pointer (l.ptrs[p] + (if w.fn.getLsbD 3 then w.c.signExtend 32 else source)))))

/-- The scratchpad words of the lanes (R165 to R168): element `j` of `n` bytes at o + j·n, or at o + index·n, where the active
elements are aligned and inside the allocation. VLD and VLDX read the bytes as the stream's own stores in flight leave them, VLDX
leaves its row empty; VST and VSTM put the active bytes in flight for 2 to 4 clk, but never before a store that issued earlier; other
users of their banks put them off by at most 64 clk in all (R135). A misaligned element raises 72, one outside 136.
Model's choices: log 1, 15, 68. -/
def Obligations.LaneMemoryResults : Prop := ∀ s (c : Fin 256) (t : Task) (w : LaneWord),
  let k := s.core c
  let l := k.lane
  let W := typeWidth w.ty.toNat
  let n := W / 8
  let L := laneCount w.ty.toNat
  let p : Fin 8 := (w.fn.extractLsb' 4 3).toFin
  let o : Int := (l.ptrs[p].toNat : Int) + w.c.toInt * 256
  let acts (j : Nat) : Bool := activeAt k w j
  let ptrs := if w.fn.getLsbD 3 then l.ptrs.set p (l.ptrs[p] + 256) else l.ptrs
  let fits (o : Int) (n : Nat) : Prop := 0 ≤ o ∧ o + n ≤ t.size
  let field (o : Int) : Nat := ofBytes ((List.range n).map fun i => laneByte k (t.alloc + o.toNat + i))
  let brings (bits : Row) (at_ : Nat → Int) : Prop :=
    ∀ j, j < L → acts j = true → bits.toNat / 2 ^ (W * j) % 2 ^ W = field (at_ j)
  let plain (j : Nat) : Int := o + (j * n : Nat)
  let idx (j : Nat) : Nat := if j < 128 then rowField k w.b 16 j else rowField k (w.b + 1) 16 (j - 128)
  let indexed (j : Nat) : Int := o + (idx j * n : Nat)
  let clean : Prop := ∀ a, ErrorAt.scratch c a ∉ s.poison
  let ok (at_ : Nat → Int) : Prop := ∀ j, j < L → acts j = true → o % n = 0 ∧ fits (at_ j) n
  let bytes (js : List Nat) : List Host.Cell :=
    js.map fun (j : Nat) => (t.alloc + (o + (j : Nat)).toNat, BitVec.ofNat 8 (rowField k w.a 8 j))
  let lasts (x : LaneWrite) : Prop := x ∈ l.flight ∧ ∃ cs top, x.dest = .store cs top
  let stored (i : Instr) (js : List Nat) : Prop := ∃ lat, 2 ≤ lat ∧ (∀ x, lasts x → x.lands ≤ clkAt l + lat) ∧
    (lat ≤ 4 ∨ ∃ x, lasts x ∧ x.lands = clkAt l + lat) ∧ exec i s = .next (coreNow s c { k with
    lane := { laneAfter l w [(lat, .store (bytes js) (clkAt l + min lat 4 + 64))] with ptrs := ptrs } })
  let raises (i : Instr) (code : BitVec 12) : Prop := ∃ u, exec i s = .next u ∧ SameMemory s u ∧
    (u.core c).laneFault = some ⟨code, l.pc, laneTval i⟩ ∧ (u.core c).lane.stopped = true ∧ (u.core c).lane.rows = l.rows
  (LaneReady s c t (.vld w) w → clean → ok plain →
    ∃ bits, brings bits plain ∧ exec (.vld w) s = .next (coreNow s c { k with lane :=
      { laneAfter l w [(4, .row w.dst.toFin bits (laneEnable W L acts))] with ptrs := ptrs } })) ∧
  (LaneReady s c t (.vldx w) w → clean → ok indexed →
    ∃ bits lands banks, brings bits indexed ∧ clkAt l + 6 ≤ lands ∧
      (∀ i, banks.getLsbD i = true ↔ ∃ j, j < L ∧ acts j = true ∧ (bankBits (t.alloc + (indexed j).toNat) n).getLsbD i = true) ∧
        exec (.vldx w) s = .next (coreNow s c { k with lane :=
      { laneAfter l w [] with
        ptrs := ptrs, full := l.full &&& ~~~ BitVec.ofNat 256 (2 ^ w.dst.toNat)
        gathers := l.gathers ++ [⟨w.dst.toFin, lands, banks, bits, laneEnable W L acts⟩] } })) ∧
  (LaneReady s c t (.vst w) w → ok plain → stored (.vst w) ((List.range 256).filter fun j => acts (j / n))) ∧
  (LaneReady s c t (.vstm w) w →
    let js := (List.range (min (rowField k w.b 32 0) 256)).filter fun j => acts (j / n)
    ((∀ j ∈ js, fits (o + (j : Nat)) 1) → stored (.vstm w) js) ∧
    ((∃ j ∈ js, ¬ fits (o + (j : Nat)) 1) → raises (.vstm w) 136)) ∧
  ((∃ j, j < L ∧ acts j = true) → o % n ≠ 0 →
    (LaneReady s c t (.vld w) w → raises (.vld w) 72) ∧ (LaneReady s c t (.vst w) w → raises (.vst w) 72) ∧
    (LaneReady s c t (.vldx w) w → raises (.vldx w) 72)) ∧
  (o % n = 0 → (∃ j, j < L ∧ acts j = true ∧ ¬ fits (plain j) n) →
    (LaneReady s c t (.vld w) w → raises (.vld w) 136) ∧ (LaneReady s c t (.vst w) w → raises (.vst w) 136))

/-- Landings (R134 to R136): a write that is due replaces the enabled bits of its row, a store its bytes; a store one of whose banks a
copy channel used in the clk stays in flight, one whose banks a gather or the feeder may use lands or stays, and none beyond its latest
clk; no clk passes without a word while the slice can issue one; a gathered row lands whole, not before its earliest clk, and its row is
full; a word that would take the counter to 65 raises 44, once every write has landed, clk after clk, though it be a stop word.
Model's choices: log 1, 15, 55. -/
def Obligations.LaneLandings : Prop := ∀ s (c : Fin 256) (r : Fin 256) (bits en : Row),
  let k := s.core c
  let l := k.lane
  let merged (u : State) : Prop :=
    (∀ j : Fin 2048, ((u.core c).lane.rows[r]).getLsbD j = if en.getLsbD j then bits.getLsbD j else l.rows[r].getLsbD j) ∧
    ∀ q : Fin 256, q ≠ r → (u.core c).lane.rows[q] = l.rows[q]
  (s.turn = .lane c → laneIssues k = true → exec .laneWriteLanding s = .next s) ∧
  (s.turn = .lane c →
    (l.flight = [⟨l.clk + 1, .row r bits en⟩] → laneIssues k = false →
      ∃ u, exec .laneWriteLanding s = .next u ∧ SameMemory s u ∧ merged u ∧ (u.core c).lane.flight = [] ∧
        (u.core c).lane.clk = l.clk + 1) ∧
    (∀ a v top, l.flight = [⟨l.clk + 1, .store [(a, v)] top⟩] → k.scratch.wf = true → laneIssues k = false →
      let used := copyBanks k (l.clk + 1) &&& bankBits a 1
      let read := readBanks k &&& bankBits a 1
      let landed (u : State) : Prop := (u.core c).lane.flight = [] ∧ memGet (u.core c).scratch a = v ∧
        ∀ b, b ≠ a → memGet (u.core c).scratch b = memGet k.scratch b
      let stays (u : State) : Prop := (u.core c).scratch = k.scratch ∧ ∃ lands, l.clk + 1 < lands ∧ lands ≤ top ∧
        (u.core c).lane.flight = [⟨lands, .store [(a, v)] top⟩]
      (top ≤ l.clk + 1 ∨ (used = 0 ∧ read = 0) → ∃ u, exec .laneWriteLanding s = .next u ∧ landed u) ∧
      (l.clk + 1 < top → used ≠ 0 → ∃ u, exec .laneWriteLanding s = .next u ∧ stays u) ∧
      (l.clk + 1 < top → used = 0 → read ≠ 0 → ∃ u, exec .laneWriteLanding s = .next u ∧ (landed u ∨ stays u))) ∧
    (laneActive k = true → l.counted = false → l.popDue = false → 64 ≤ l.spacing → storesDone k l.after = true → l.flight = [] →
      (l.gathers = [] → l.overrun = true ∨ (laneWordAt s c).getLsbD 63 = false →
        ∃ u, exec .stopSpacing s = .next u ∧ SameMemory s u ∧ (u.core c).laneFault = some ⟨44, l.pc, laneWordAt s c⟩ ∧
          (u.core c).lane.stopped = true ∧ (u.core c).lane.rows = l.rows) ∧
      (l.gathers ≠ [] → ∃ u, exec .stopSpacing s = .next u ∧ (u.core c).lane.overrun = true ∧
        (u.core c).laneFault = k.laneFault ∧ (u.core c).lane.rows = l.rows ∧ (u.core c).lane.gathers = l.gathers ∧
        l.clk < (u.core c).lane.clk))) ∧
  (s.turn = .lane c → l.overrun = true → l.flight = [] → ∃ u, exec .laneWriteLanding s = .next u ∧ SameMemory s u ∧
    (u.core c).lane.clk = l.clk + 1 ∧ (u.core c).lane.rows = l.rows ∧ (u.core c).lane.gathers = l.gathers) ∧
  (∀ lands banks, l.gathers = [⟨r, lands, banks, bits, en⟩] →
    (lands ≤ l.clk → ∃ u, exec (.vldxLanding c r) s = .next u ∧ SameMemory s u ∧ merged u ∧ (u.core c).lane.gathers = [] ∧
      (u.core c).lane.full.getLsbD r.val = true ∧ (u.core c).lane.clk = l.clk) ∧
    (l.clk < lands → exec (.vldxLanding c r) s = .next s))

/-! ## The engines of a core -/

namespace Sys2Proof.Machine

/-- Engine `e` of core `c` is in turn, `a` is its oldest record, alone with its number, and no write of it is outstanding. -/
def EngineAt (s : State) (c : Fin 256) (e : Fin 4) (t : Task) (a : Active) (rest : List Active) : Prop :=
  s.turn = .engine c e ∧ (s.core c).task = some t ∧ (s.core c).engines[e].active = a :: rest ∧
  (∀ b ∈ rest, b.num ≠ a.num) ∧ a.acks = []

/-- A copy record that has its last element to move, of a core whose scratchpad is in canonical form and marks no word; nothing of the
element has been moved, and the machine moves an element's words at once (log 52). -/
def CopyAtLast (s : State) (c : Fin 256) (e : Fin 4) (t : Task) (a : Active) (rest : List Active) (op : Nat) : Prop :=
  EngineAt s c e t a rest ∧ a.r.op = op ∧ a.ready = false ∧ copyCount a.r = a.done + 1 ∧ (s.core c).scratch.wf = true ∧
  s.split = false ∧ a.reads = [] ∧ a.words = none ∧ a.writes = [] ∧
  ∀ x, ErrorAt.scratch c x ∉ s.poison

/-- The engine's record `num` has moved one element more and is ready to complete. -/
def movedLast (s u : State) (c : Fin 256) (e : Fin 4) (a : Active) : Prop :=
  ∃ b, b ∈ (u.core c).engines[e].active ∧ b.num = a.num ∧ b.done = a.done + 1 ∧ b.ready = true ∧ b.r = a.r ∧
    (u.core c).engines[e].queue = (s.core c).engines[e].queue ∧ u.dram = s.dram

/-- The scratchpad of `c` holds the number `v` at `off` in `n` bytes, and is otherwise as before. -/
def wroteOwn (s u : State) (c : Fin 256) (off n v : Nat) : Prop :=
  memNum (u.core c).scratch off n = v ∧
  ∀ x, x < off ∨ off + n ≤ x → memGet (u.core c).scratch x = memGet (s.core c).scratch x

/-- An element of the source type in the destination type (R218). -/
def movedValue (r : Record) (k n : Nat) : Nat :=
  if r.stype = r.dtype then n
  else convert r.dtype r.stype r.sat (match r.rnd with
    | 0 => .rne
    | 1 => .rtz
    | 2 => .rto
    | _ => .rst (rstRecord r.addr (r.opf 0) k 0)) n

/-- The three fields of the barrier object at `off` after an add of `n` bytes (R227). -/
def BarFields (m m' : Memory) (off n : Nat) : Prop :=
  let expect := memNum m off 4
  let arrived := memNum m (off + 4) 4
  let phase := memNum m (off + 8) 4
  memNum m' off 4 = expect ∧
  memNum m' (off + 4) 4 =
    (if expect = 0 then min (arrived + n) (2 ^ 32 - 1) else if arrived + n < expect then arrived + n else 0) ∧
  memNum m' (off + 8) 4 = if expect ≠ 0 ∧ expect ≤ arrived + n then phase ^^^ 1 else phase

/-- An add of `n` bytes overruns the object at `off` (R227). -/
def barOverruns (m : Memory) (off n : Nat) : Bool :=
  decide (memNum m off 4 ≠ 0) && decide (memNum m off 4 < memNum m (off + 4) 4 + n)

/-- A record of engine `x` of task `t` completes: with BEN its bytes are added to its barrier object and nothing else of the scratchpad
changes, and an add that overruns latches `code` where nothing is latched; without, the scratchpad and the latch stay. It counts in
DONE (R222, R227, R254). -/
def Completed (m m' : Memory) (x y : Engine) (t : Task) (r : Record) (n : Nat) (code : BitVec 9) : Prop :=
  let off := t.alloc + r.bar
  y.completed = x.completed + 1 ∧ y.queue = x.queue ∧ y.waiting = x.waiting ∧
  (r.ben = false → m' = m ∧ y.latch = x.latch ∧ y.undelivered = x.undelivered) ∧
  (r.ben = true → m.wf = true → BarFields m m' off n ∧ (∀ z, z < off ∨ off + 16 ≤ z → memGet m' z = memGet m z) ∧
    (barOverruns m off n = true ∧ x.latch = none → y.latch = some code ∧ y.undelivered = some r.tval) ∧
    (¬(barOverruns m off n = true ∧ x.latch = none) → y.latch = x.latch ∧ y.undelivered = x.undelivered))

end Sys2Proof.Machine

/-- The copy records (R217 to R222) at an element in the own scratchpad: the k-th source element, converted where the types differ,
is the k-th destination element; CPYFILL writes its value, GATHER reads and SCATTER writes at the table address of the k-th index;
every other byte is as before. Stated for real types at the last element of a record.
Model's choices: log 1, 17 (where source and destination overlap, the source is read when its element is moved), 52, 72. -/
def Obligations.CopyElements : Prop := ∀ s (c : Fin 256) (e : Fin 4) (t : Task) (a : Active) (rest : List Active),
  let r := a.r
  let sw := typeWidth r.stype / 8
  let dw := typeWidth r.dtype / 8
  let m := (s.core c).scratch
  let done (u : State) (off v : Nat) : Prop := wroteOwn s u c off dw v ∧ movedLast s u c e a
  r.stype < 12 → r.dtype < 12 → r.conj = false →
  (∀ p0 p1 src dst, CopyAtLast s c e t a rest 1 → r.pattern 0 = some p0 → r.pattern 1 = some p1 →
    OwnBytes t (p0.elem a.done) sw src → OwnBytes t (p1.elem a.done) dw dst →
    ∃ u, exec .cpy s = .next u ∧ done u dst (movedValue r a.done (memNum m src sw) % 2 ^ (8 * dw))) ∧
  (∀ p1 dst, CopyAtLast s c e t a rest 2 → r.pattern 1 = some p1 → OwnBytes t (p1.elem a.done) dw dst →
    ∃ u, exec .cpyfill s = .next u ∧
      done u dst ((r.opf 1 + 2 ^ 32 * r.opf 2 + 2 ^ 64 * r.opf 3 + 2 ^ 96 * r.opf 4) % 2 ^ (8 * dw))) ∧
  (∀ p0 p1 p2 i off dst, let w := if r.aux % 4 = 1 then 2 else 4
    r.pattern 0 = some p0 → r.pattern 1 = some p1 → r.pattern 2 = some p2 → i % w = 0 → OwnBytes t (p0.elem a.done) w i →
    let n := memNum m i w
    let x : Int := if r.aux % 4 = 2 ∧ 2 ^ 31 ≤ n then (n : Int) - 2 ^ 32 else n
    let entry (p : Pattern) : Word := p.base + BitVec.ofInt 64 x * p.stride[0]
    (CopyAtLast s c e t a rest 5 → OwnBytes t (entry p1) sw off → OwnBytes t (p2.elem a.done) dw dst →
      ∃ u, exec .gather s = .next u ∧ done u dst (movedValue r a.done (memNum m off sw) % 2 ^ (8 * dw))) ∧
    (CopyAtLast s c e t a rest 6 → OwnBytes t (p1.elem a.done) sw off → OwnBytes t (entry p2) dw dst →
      ∃ u, exec .scatter s = .next u ∧ done u dst (movedValue r a.done (memNum m off sw) % 2 ^ (8 * dw))))

/-- The beginning and the end of records, and the reserved bank (R75, R118, R215, R222 to R225). RECORD_BEGIN takes the head of the queue
where the engine has room and earlier stores have been performed, and latches the cause its fields raise; a CPYBULK stays in the queue and
asks for the bank of its first row while its channel holds none, begins where the channel holds that bank, and raises 209 where it holds
another; a completed record adds its bytes to its barrier, where BEN says so, leaves, counts in DONE, and its bytes reach the write
pointer; the channel obtains the bank it waits for, CPYBULK moves a row while it holds it, CPYCLOSE and 50 µs without a CPYBULK end the
reservation.
Model's choices: log 1, 44. -/
def Obligations.RecordsAndBulk : Prop := ∀ s (c : Fin 256) (e : Fin 4) (t : Task),
  let k := s.core c
  let x := k.engines[e]
  let ours (h : BulkHold) : Bool := !(decide (h.core = c) && decide (h.eng = e))
  (∀ r rest, s.turn = .engine c e → k.task = some t → x.queue = r :: rest → x.active = [] →
    storesBefore k r = true → k.run = .running → k.stop ≠ some .capture →
    let taken (u : State) : Prop := SameMemory s u ∧ (u.core c).engines[e].queue = rest
    let failed (u : State) (code : BitVec 9) : Prop := taken u ∧ (u.core c).engines[e].active = [] ∧
      (u.core c).engines[e].latch = some code ∧ (u.core c).engines[e].undelivered = some r.tval
    let begun (u : State) : Prop := taken u ∧ (u.core c).engines[e].latch = x.latch ∧
      ∃ a, (u.core c).engines[e].active = [a] ∧ a.r = r ∧ a.num = k.recSeq ∧ a.done = 0 ∧ a.ready = false
    (checkRecord r = none → r.op ≠ 3 → r.op < 0x10 ∨ 0x12 < r.op → ∃ u, exec .recordBegin s = .next u ∧ begun u) ∧
    (∀ code, checkRecord r = some code → x.latch = none → ∃ u, exec .recordBegin s = .next u ∧ failed u (BitVec.ofNat 9 code)) ∧
    (checkRecord r = none → r.op = 3 → copyCount r ≠ 0 → bulkHeld s c e t r 0 = true → exec .recordBegin s = .next s) ∧
    (∀ b, checkRecord r = none → r.op = 3 → copyCount r ≠ 0 → bulkHeld s c e t r 0 = false → bulkBank s t r 0 = .ok b →
      (heldBank s c e = none → ∃ u since, exec .recordBegin s = .next u ∧ SameMemory s u ∧
        (u.core c).engines[e] = { x with waiting := some (b, since) } ∧ ∀ q, x.waiting = some (b, q) → since = q) ∧
      (heldBank s c e = some b → ∃ u, exec .recordBegin s = .next u ∧ begun u ∧
        (u.core c).engines[e].withdrawn = false ∧ (u.core c).engines[e].lastBulk = s.now.toNat) ∧
      (∀ b', heldBank s c e = some b' → b' ≠ b → x.latch = none → ∃ u, exec .recordBegin s = .next u ∧ failed u 209))) ∧
  (∀ a rest, EngineAt s c e t a rest → e.val < 2 → a.ready = true → ∃ u, exec .copyRecordComplete s = .next u ∧
    let y := (u.core c).engines[e]
    u.dram = s.dram ∧ y.active = rest ∧ y.lastBulk = (if a.r.op = 3 then s.now.toNat else x.lastBulk) ∧
    Completed k.scratch (u.core c).scratch x y t a.r (if a.r.op = 4 then 0 else copyCount a.r * copyWidth a.r) 208 ∧
    y.ptr = if x.ptrStopped = true then x.ptr else x.ptr + BitVec.ofNat 64 (a.done * copyWidth a.r - a.landed)) ∧
  (∀ b since, s.turn = .engine c e → x.waiting = some (b, since) → (∀ h ∈ s.bulk, h.bank ≠ b) →
    (∀ d : Fin 256, ∀ f : Fin 4, f.val < 2 → ∀ q, (s.core d).engines[f].waiting = some (b, q) → since ≤ q) →
    ∃ u, exec .bulkBankReserved s = .next u ∧ SameMemory s u ∧ u.bulk = s.bulk ++ [{ bank := b, core := c, eng := e }] ∧
      (u.core c).engines[e].waiting = none) ∧
  (∀ a rest p1 b pa cc dst key, CopyAtLast s c e t a rest 3 → heldBank s c e = some b → a.r.flags = 0 →
    a.r.pattern 1 = some p1 → valeKey s t.vale = some key → bulkBank s t a.r a.done = .ok b → s.poison = [] →
    (∀ i, i < 8 → walkHeld s t.vale (some (c, e)) ((bulkAddress a.r a.done).toNat + 128 * i) = false) →
    (∀ i, i < 8 → ∃ lf, translate s t.vale ((bulkAddress a.r a.done).toNat + 128 * i) .read = .ok lf ∧
      lf.pa = pa + 128 * i ∧ lf.cc = cc ∧ ∀ h ∈ s.bulk, h.bank = bankOf (pa + 128 * i) → h.core = c ∧ h.eng = e) →
    OwnBytes t (p1.elem a.done) 1024 dst →
    ∃ u, exec .cpybulk s = .next u ∧ movedLast s u c e a ∧
      (∀ i, i < 1024 → memGet (u.core c).scratch (dst + i) = dramByte s key (pa + i)) ∧
      ∀ y, y < dst ∨ dst + 1024 ≤ y → memGet (u.core c).scratch y = memGet k.scratch y) ∧
  (∀ a rest, EngineAt s c e t a rest → a.r.op = 4 → a.ready = false →
    ((heldBank s c e).isSome = true ∨ x.withdrawn = true → ∃ u, exec .cpyclose s = .next u ∧ SameMemory s u ∧
      u.bulk = s.bulk.filter ours ∧ ∃ b, b ∈ (u.core c).engines[e].active ∧ b.num = a.num ∧ b.ready = true) ∧
    (heldBank s c e = none → x.withdrawn = false → x.latch = none →
      ∃ u, exec .cpyclose s = .next u ∧ SameMemory s u ∧ (u.core c).engines[e].latch = some 210)) ∧
  (s.turn = .engine c e → (heldBank s c e).isSome = true → (∀ a ∈ x.active, a.r.op ≠ 3) → x.lastBulk + 50000 ≤ s.now.toNat →
    ∃ u, exec .bulkReservationTimeout s = .next u ∧ SameMemory s u ∧ u.bulk = s.bulk.filter ours ∧
      (u.core c).engines[e].withdrawn = true)

namespace Sys2Proof.Machine

/-- `eb` is the exponent of a block (R182): 0 where every finite element is zero, else the greatest floor(log2 |x|). -/
def IsTop (vs : List FVal) (eb : Int) : Prop :=
  let tops : List Int := vs.filterMap fun v => match v with
    | .fin _ m e => if m = 0 then none else some (Nat.log2 m + e)
    | _ => none
  (tops = [] → eb = 0) ∧ (tops ≠ [] → eb ∈ tops ∧ ∀ x ∈ tops, x ≤ eb)

/-- d_i(x) in a block of exponent `eb`, i from 1 on (R182). -/
def sliceDigit (S i : Nat) (eb : Int) : FVal → Int
  | .fin neg m e =>
    let up := e + (7 * S - 1 - eb)
    let q : Nat := if 0 ≤ up then m * 2 ^ up.toNat else m / 2 ^ (-up).toNat
    let d : Int := (q / 128 ^ (S - i) % 128 : Nat)
    if neg then -d else d
  | _ => 0

/-- Σ over k and over the digit pairs within the budget T of the products of digits `a` and `w` (R181, R183). -/
def digitSum (K S T : Nat) (a w : Nat → Nat → Int) : Int :=
  ((List.range K).map fun k => ((List.range S).map fun x => ((List.range S).map fun z =>
    if x + z + 2 ≤ T then a (x + 1) k * w z k * 128 ^ (2 * S - 2 - x - z) else 0).sum).sum).sum

/-- Twice the value of an e2m1 code (R186). -/
def twiceE2m1 (n : Nat) : Int :=
  let d : Int := [0, 1, 2, 3, 4, 6, 8, 12].getD (n % 8) 0
  if n / 8 % 2 = 1 then -d else d

/-- The rounding mode of a record whose RND is not RST (R217, R248). -/
def recordMode (rnd : Nat) : Rnd := if rnd = 0 then .rne else if rnd = 1 then .rtz else .rto

/-- The value of a part in an output type, and its bits (R250). -/
def partValue (ot x : Nat) : FVal := if ot < 8 then FVal.ofInt (typeInt ot x) else (fmtOf ot).value x
def partBits (ot : Nat) (sat : Bool) (mode : Rnd) (v : FVal) : Nat :=
  if ot < 8 then toIntBits ot sat mode v else (fmtOf ot).round mode v

end Sys2Proof.Machine

/-- The matrix engine as a record begins and fills (R232, R242 to R244, R250, R253). A record of a resident tile holds the basins of its
slices from its begin on, one slice or all of them; where no basin holds the slice it reserves the one that R243 chooses, and once the
tile is read and decoded the basin is being filled with it; no store to the tile may be out at a peer (R262). A WFILL whose basins are
filled is ready. Products: an MMA of integers forms the sum of products over k of each A row with each column of the tile; of sliced real
and complex types the sum over the digit pairs within its budget, under the two exponents, rounded once, a special giving NaN; of e2m1 the
four scaled block sums under τ; its bias row is read. An MTHR compares the counts of common ones with its thresholds.
Model's choices: log 1, 24, 44, 45, 52, 74. -/
def Obligations.MatrixProducts : Prop := ∀ s (c : Fin 256) (t : Task),
  let k := s.core c
  let basin (i : Fin 32) : Basin := k.basins[i]
  k.task = some t →
  (∀ r rest h, s.turn = .engine c 2 → k.engines[2].queue = r :: rest → k.engines[2].active = [] →
    storesBefore k r = true → k.run = .running → k.stop ≠ some .capture → checkRecord r = none →
    r.op = 0x10 → r.flags = 0 → headerWaits s t (headerAddress r) = false →
    tileHeader s c t 3 (headerAddress r) = .ok h → (∀ x ∈ k.basins.toList, x.unfilled = false) →
    let xs := if bit r.aux 3 then [bits r.aux 2 0] else List.range h.s
    let hdr := headerAddress r
    let asid := (s.vale t.vale).asid
    let begun (u : State) (y : Active) : Prop := SameMemory s u ∧ (u.core c).engines[2].queue = rest ∧
      (u.core c).engines[2].active = [y] ∧ y.r = r ∧ y.num = k.recSeq ∧ y.ready = false ∧ y.header = some h
    (∀ x ∈ xs, x < h.s) →
    (∀ b : Nat → Fin 32, (∀ x ∈ xs, ∃ more, validBasins k asid hdr x = b x :: more ∧ (basin (b x)).holder = []) →
      ∃ u y, exec .recordBegin s = .next u ∧ begun u y ∧ y.basins = xs.map (fun x => (x, b x)) ∧ y.tile = none ∧
        ∀ x ∈ xs, (u.core c).basins[b x].holder = [k.recSeq] ∧ (u.core c).basins[b x].st = .valid) ∧
    (∀ x (b : Fin 32), xs = [x] → validBasins k asid hdr x = [] → sentMeets k ((hdr, 64) :: h.ranges) = false → victim k = some b →
      ∃ u y, exec .recordBegin s = .next u ∧ begun u y ∧ y.basins = [(x, b)] ∧
        y.tile = some (TileRead.start k.recSeq hdr h [(x, b)]) ∧ (u.core c).basins[b].st = .reserved ∧
        (u.core c).basins[b].holder = [k.recSeq] ∧ (u.core c).basins[b].hdr = hdr ∧ (u.core c).basins[b].slice = x)) ∧
  ∀ (a : Active) (rest : List Active) h, k.engines[2].active = a :: rest → (∀ b ∈ rest, b.num ≠ a.num) → a.ready = false →
  a.header = some h →
  (∀ x z s' y tile (b : Fin 32), a.r.op = 0x10 → a.tile = some x → x.into = [(z, b)] → (basin b).st = .reserved →
    a.num ∈ (basin b).holder → (∀ i : Fin 32, i ≠ b → (basin i).unfilled = false) → rest = [] →
    tileRun s c t 3 x = .on s' y → y.words = [] → y.tile 3 = .ok tile →
    ∃ u, exec (.wfill c a.num) s = .next u ∧ (u.core c).basins[b].st = .filling ∧
      (u.core c).basins[b].hdr = x.hdr ∧ (u.core c).basins[b].slice = z ∧ (u.core c).basins[b].header = x.header ∧
      (∀ i : Fin 128, ((u.core c).basins[b].data)[i] = (tile.rows.getD z []).getD i.val 0) ∧
      (∀ i : Fin 64, ((u.core c).basins[b].exps)[i] = tile.exps.getD i.val 0) ∧ (u.core c).basins[b].scales = tile.scales) ∧
  (stillFilling k a.num = false →
    (a.r.op = 0x10 → ∃ u, exec (.wfill c a.num) s = .next u ∧ SameMemory s u ∧
      ∃ y, y ∈ (u.core c).engines[2].active ∧ y.num = a.num ∧ y.ready = true ∧ y.basins = a.basins) ∧
    (∀ p (b : Nat → Fin 32) (off : Nat → Nat → Nat) (boff : Nat → Nat), a.r.op = 0x11 → a.outs = [] →
      a.basins = (List.range h.s).map (fun x => (x, b x)) → 0 < h.s → (∀ x, x < h.s → (basin (b x)).header = h) →
      (∀ y ∈ rest, a.num < y.num) → a.r.pattern 0 = some p → (∀ x, ErrorAt.scratch c x ∉ s.poison) →
      let r := a.r
      let S := h.s
      let K := p.count[0]
      let at_ : Nat := bits r.flags 4 0
      let ot : Nat := bits r.flags 8 5
      let T := 16 * bits r.aux 20 20 + bits r.aux 3 0
      let w := if h.fmt = 16 then 1 else typeWidth at_ / 8
      let mode := recordMode (bits r.flags 10 9)
      bits r.flags 10 9 ≠ 3 → K ≤ (if h.fmt = 16 then 64 else 128) →
      (∀ m i, m < mmaRows p → i < K → OwnBytes t (p.elem (m * K + i)) w (off m i) ∧ off m i % w = 0) →
      (∀ pb, r.pattern 1 = some pb → ∀ j, j < nout ot →
        OwnBytes t (pb.elem j) (typeWidth ot / 8) (boff j) ∧ boff j % (typeWidth ot / 8) = 0) →
      (h.fmt = 16 → mmaRows p ≤ k.scales.length) →
      ∃ u, exec (.mma c a.num) s = .next u ∧ SameMemory s u ∧
        (u.core c).scales = (if h.fmt = 16 then k.scales.drop (mmaRows p) else k.scales) ∧
        ∃ y, y ∈ (u.core c).engines[2].active ∧ y.num = a.num ∧ y.outs.length = mmaRows p ∧
        (∀ pb, r.pattern 1 = some pb → ∀ j, j < nout ot → (y.bias.getD j 0).toNat = memNum k.scratch (boff j) (typeWidth ot / 8)) ∧
        let el (m j : Nat) : Nat := ((y.outs.getD m []).getD j 0).toNat
        let A (m i : Nat) : Nat := memNum k.scratch (off m i) w
        let B (z i col : Nat) : Int := (basin (b z)).digit (BitVec.ofNat 7 i).toFin col
        let E (col : Nat) : Int := (basin (b 0)).exps[(BitVec.ofNat 6 col).toFin]
        let bad (v : FVal) : Prop := v = .nan ∨ v = .inf true ∨ v = .inf false
        let F := fmtOf ot
        (h.fmt = 0 ∨ h.fmt = 4 → S = 1 → T = 0 → at_ = 0 ∨ at_ = 4 → ot = 2 ∨ ot = 3 → (basin (b 0)).special = 0 →
          ∀ m j, m < mmaRows p → j < h.n → el m j = typeBits ot (bit r.flags 11)
            ((List.range K).map fun i => typeInt at_ (A m i) * B 0 i j).sum) ∧
        (8 ≤ h.fmt ∧ h.fmt ≤ 11 ∨ h.fmt = 14 ∨ h.fmt = 15 → atypeFits h.fmt at_ = true → 8 ≤ ot ∧ ot ≤ 11 → S < T →
          ∀ m j ea, m < mmaRows p → j < h.n → j < 64 →
          let v (i : Nat) : FVal := (fmtOf at_).value (A m i)
          IsTop ((List.range K).map v) ea →
          ((∃ i, i < K ∧ bad (v i)) ∨ (basin (b 0)).special.getLsbD j = true → el m j = F.nan) ∧
          ((∀ i, i < K → ¬ bad (v i)) → (basin (b 0)).special.getLsbD j = false →
            el m j = F.round mode ((FVal.ofInt (digitSum K S T (fun x i => sliceDigit S x ea (v i)) fun z i => B z i j)).scale
              (ea + E j - 14 * S + 2)))) ∧
        (h.fmt = 12 ∨ h.fmt = 13 → at_ = h.fmt → ot = 12 ∨ ot = 13 → S < T →
          ∀ m j ea, m < mmaRows p → j < h.n → j < 32 →
          let half := 2 ^ (4 * w)
          let re (i : Nat) : FVal := (fmtOf at_).value (A m i % half)
          let im (i : Nat) : FVal := (fmtOf at_).value (A m i / half)
          let sg (n : Nat) : Int := if bit r.flags n then -1 else 1
          let ar (x i : Nat) : Int := sliceDigit S x ea (re i)
          let ai (x i : Nat) : Int := sg 13 * sliceDigit S x ea (im i)
          let br (z i : Nat) : Int := B z i (2 * j)
          let bi (z i : Nat) : Int := sg 14 * B z i (2 * j + 1)
          let res (n : Int) : Nat := F.round mode ((FVal.ofInt n).scale (ea + E (2 * j) - 14 * S + 2))
          let both (x y : Nat) : Nat := x + y * 2 ^ (typeWidth ot / 2)
          IsTop ((List.range K).map re ++ (List.range K).map im) ea →
          ((∃ i, i < K ∧ (bad (re i) ∨ bad (im i))) ∨ (basin (b 0)).special.getLsbD (2 * j) = true → el m j = both F.nan F.nan) ∧
          ((∀ i, i < K → ¬ bad (re i) ∧ ¬ bad (im i)) → (basin (b 0)).special.getLsbD (2 * j) = false →
            el m j = both (res (digitSum K S T ar br - digitSum K S T ai bi)) (res (digitSum K S T ar bi + digitSum K S T ai br)))) ∧
        (h.fmt = 16 → S = 1 → 8 ≤ ot ∧ ot ≤ 11 → ∀ m j, m < mmaRows p → j < h.n →
          let tau := fmtBf16.value h.tau.toNat
          let code (m q : Nat) : Nat := A m (q / 2) / 16 ^ (q % 2) % 16
          let term (q : Nat) : FVal :=
            let P := ((List.range 32).map fun i =>
              if 32 * q + i < 2 * K then twiceE2m1 (code m (32 * q + i)) * B 0 (32 * q + i) j else 0).sum
            ((FVal.ofInt P).mul (fmtE3m5.value ((k.scales.getD m 0).toNat / 256 ^ q % 256))).mul
              (fmtE3m5.value ((basin (b 0)).scales.getD (64 * q + j) 0).toNat)
          let V := ((FVal.add (FVal.add (FVal.add (term 0) (term 1)) (term 2)) (term 3)).mul tau).scale (-2)
          (bad tau → el m j = F.nan) ∧ (¬ bad tau → el m j = if V.isZero = true then 0 else F.round mode V))) ∧
    ∀ p (b : Fin 32) (off : Nat → Nat), a.r.op = 0x12 → a.outs = [] → a.basins = [(0, b)] →
      a.r.pattern 0 = some p → a.r.opf 2 + 512 ≤ t.size → t.alloc + t.size ≤ 2 ^ 21 →
      (∀ x, ErrorAt.scratch c x ∉ s.poison) →
      (∀ m, m < p.size → OwnBytes t (p.elem m) 16 (off m) ∧ off m % 16 = 0) →
      ∃ u, exec (.mthr c a.num) s = .next u ∧ SameMemory s u ∧ ∃ y, y ∈ (u.core c).engines[2].active ∧ y.num = a.num ∧
        y.outs.length = (p.size + 3) / 4 ∧ ∀ m n, m < p.size → n < 512 →
          (((y.outs.getD (m / 4) []).getD ((512 * (m % 4) + n) / 128) 0).getLsbD (n % 128) = true ↔
            n < h.n ∧ (memGet k.scratch (t.alloc + a.r.opf 2 + n)).toNat ≤
              (List.finRange 128).countP fun i => (memNum k.scratch (off m) 16).testBit i.val && ((basin b).data[i]).getLsbD n))

/-- What ends a matrix record (R134, R227, R241, R242, R250, R251, R254): a fill that completes makes its basin valid, or stale
where its record holds basins of the tile that have turned stale (R262); output row p of
an MTHR is written whole and its accumulator row is full; output row p of an MMA puts each element, after ACC and BIAS with their one
rounding, ACT and POOL, into its field of the ρ accumulator rows, from the upper half on with COLOFF, keeps the other fields and makes
the rows full; while a basin of the record is filled again nothing lands and nothing completes; a record whose rows have landed adds its
bytes to its barrier where BEN says so, leaves, counts in DONE and gives up its basins.
Model's choices: log 1, 24, 74. -/
def Obligations.MatrixLandings : Prop := ∀ s (c : Fin 256),
  let k := s.core c
  (∀ b : Fin 32, (k.basins[b]).st = .filling → ∃ u, exec (.fillComplete c b) s = .next u ∧ SameMemory s u ∧
    (u.core c).basins[b].st = (if oldVersion k (k.basins[b]) then .stale else .valid) ∧
    (u.core c).basins[b].data = (k.basins[b]).data ∧
    (u.core c).basins[b].hdr = (k.basins[b]).hdr ∧ (u.core c).basins[b].slice = (k.basins[b]).slice) ∧
  (∀ t a rest, EngineAt s c 2 t a rest → stillFilling k a.num = true →
    (a.r.op ≠ 0x10 → a.ready = false → exec .rowLanding s = .next s) ∧
    (a.ready = true → exec .matrixRecordComplete s = .next s)) ∧
  (∀ t a rest, EngineAt s c 2 t a rest → a.ready = false → a.landed < outCount a.r → a.outs ≠ [] → stillFilling k a.num = false →
    (∀ (d : Fin 256), a.r.op = 0x12 → d.val = bits a.r.aux 11 4 + a.landed →
      ∃ u, exec .rowLanding s = .next u ∧ SameMemory s u ∧ (u.core c).lane.full.getLsbD d.val = true ∧
        (u.core c).lane.rows[d] = BitVec.ofNat 2048 (packLanes 128 ((a.outs.getD a.landed []).map BitVec.toNat)) ∧
        ∀ q : Fin 256, q ≠ d → (u.core c).lane.rows[q] = k.lane.rows[q]) ∧
    (a.r.op = 0x11 → bits a.r.flags 10 9 ≠ 3 →
      let r := a.r
      let p := a.landed
      let N := (a.outs.headD []).length
      let ot : Nat := bits r.flags 8 5
      let q := if 12 ≤ ot then 2 else 1
      let W := typeWidth ot / q
      let mode := recordMode (bits r.flags 10 9)
      let first := if bit r.flags 21 then 64 else 0
      let d (i : Nat) : Nat := outRow r p + i
      let field (l : LaneSlice) (i : Nat) : Nat :=
        (l.rows[(BitVec.ofNat 8 (d (W * i / 2048))).toFin]).toNat / 2 ^ (W * i % 2048) % 2 ^ W
      let last (x : Nat) : Nat := x % 2 ^ W
      let sum (m i : Nat) : Nat :=
        let y := ((a.outs.getD m []).getD (i / q) 0).toNat / 2 ^ (W * (i % q)) % 2 ^ W
        if bit r.flags 12 = false ∧ bit r.flags 17 = false then y
        else
          let v := partValue ot y
          let v := if bit r.flags 12 then FVal.add v (partValue ot (field k.lane (first + i))) else v
          let v := if bit r.flags 17 then
            FVal.add v (partValue ot ((a.bias.getD (i / q) 0).toNat / 2 ^ (W * (i % q)) % 2 ^ W)) else v
          partBits ot (bit r.flags 11) mode v
      let act (x : Nat) : Nat :=
        if bits r.flags 16 15 = 0 ∨ 8 ≤ ot ∧ (partValue ot x).isNan = true then x
        else if bits r.flags 16 15 = 1 then elementMax ot x 0
        else elementMin ot (elementMax ot x (bound ot (mLO r))) (bound ot (mHI r))
      let elem (i : Nat) : Nat :=
        if bit r.flags 18 then elementMax ot (act (sum (2 * p) i)) (act (sum (2 * p + 1) i)) else act (sum p i)
      otypeOk ot = true → (12 ≤ ot → bits r.flags 16 15 = 0 ∧ bit r.flags 18 = false) →
      (bit r.flags 21 = true → ot = 8 ∨ ot = 9) → W * (first + q * N) ≤ 2048 * rho ot → outRow r p + rho ot ≤ 256 →
      (∀ m, ∀ y ∈ a.outs.getD m [], y.toNat < 2 ^ typeWidth ot) →
      ∃ u, exec .rowLanding s = .next u ∧ SameMemory s u ∧
        (∀ i, i < rho ot → (u.core c).lane.full.getLsbD (d i) = true) ∧
        (∀ i, W * i < 2048 * rho ot → field (u.core c).lane i =
          if first ≤ i ∧ i < first + q * N then last (elem (i - first)) else field k.lane i) ∧
        ∀ z : Fin 256, z.val < d 0 ∨ d (rho ot) ≤ z.val → (u.core c).lane.rows[z] = k.lane.rows[z])) ∧
  (∀ t a rest h, EngineAt s c 2 t a rest → a.ready = true → stillFilling k a.num = false → a.header = some h →
    ∃ u, exec .matrixRecordComplete s = .next u ∧ u.dram = s.dram ∧ (u.core c).engines[2].active = rest ∧
      Completed k.scratch (u.core c).scratch k.engines[2] (u.core c).engines[2] t a.r
        (if a.r.op = 0x10 then 8192 * (if bit a.r.aux 3 then 1 else h.s)
         else if a.r.op = 0x11 then 256 * rho (bits a.r.flags 8 5) * outCount a.r else 256 * outCount a.r) 216 ∧
      ∀ b : Fin 32, a.num ∉ (u.core c).basins[b].holder)

/-- Collectives (R325 to R327). A record that fits its group joins the exchange with its source bytes when the collective engine
serves its vale; a SEQ that is neither the last one nor the next, or that is not another member's, raises 308. The completed exchange
keeps for an ALLREDUCE the sum or the OR of every member's elements, for an ALLGATHER every member's bytes in rank order, for a
BROADCAST the root's; the waiting record's destination receives them and the record completes, its bytes added to its barrier where BEN
says so.
Model's choices: log 1, 9, 46, 60. -/
def Obligations.Collectives : Prop := ∀ s (c : Fin 256),
  let k := s.core c
  let x := k.engines[3]
  (∀ (t : Task) (a : Active) (rest : List Active), let r := a.r
    let g : Fin 64 := (BitVec.ofNat 6 r.aux).toFin
    let seq := BitVec.ofNat 32 (r.opf 0)
    let w := typeWidth (bits r.flags 7 4) / 8
    EngineAt s c 3 t a rest → r.op = 0x20 → checkGroup r t.vale s.hub.grpCfg[g] = none → (s.hub.colls[g]).pend = none →
    (∀ (p0 : Pattern) (src : Nat → Nat), (∀ q res, (s.hub.colls[g]).last = some (q, res) → seq = q + 1) →
      (∀ q, (s.hub.colls[g]).other = some q → q = seq) → a.reads = [] → a.words = none →
        arbitrates s (collAsks s) s.hub.lastColl t.vale = true →
      r.pattern 0 = some p0 → (∀ i, i < p0.size → OwnBytes t (p0.elem i) w (src i)) → (∀ x, ErrorAt.scratch c x ∉ s.poison) →
      let joined : Joined := { seq := seq, core := c, num := a.num, flags := r.flags, aux := r.aux
                               data := (List.range p0.size).flatMap fun i => memRead k.scratch (src i) w }
      ∃ u, exec .coll s = .next u ∧ SameMemory s u ∧ u.hub.colls[g] = { s.hub.colls[g] with pend := some joined }) ∧
    ((∃ q res, (s.hub.colls[g]).last = some (q, res) ∧ seq ≠ q ∧ seq ≠ q + 1) ∨
      ((s.hub.colls[g]).last = none ∧ ∃ q, (s.hub.colls[g]).other = some q ∧ q ≠ seq) → x.latch = none →
      ∃ u, exec .coll s = .next u ∧ SameMemory s u ∧ u.hub.colls = s.hub.colls ∧ (u.core c).engines[3].active = rest ∧
        (u.core c).engines[3].latch = some 308)) ∧
  ∀ (g : Fin 64) (p : Joined) (others : List (List Byte)),
    let rank := (s.hub.grpCfg[g].extractLsb' 0 10).toNat
    let all := others.take rank ++ [p.data] ++ others.drop rank
    let w := typeWidth (bits p.flags 7 4) / 8
    (s.hub.colls[g]).pend = some p → p.core = c → others.length + 1 = (s.hub.grpCfg[g].extractLsb' 32 11).toNat →
    rank ≤ others.length →
    let gives (res : List Byte) : Prop :=
      let kept (u : State) : Prop := exec (.collExchangeComplete g others) s = .next u ∧
        u.hub.colls[g] = { last := some (p.seq, res), pend := none, other := none }
      (x.active = [] → ∃ u, kept u ∧ SameMemory s u) ∧
      (∀ t a rest p1 dst, k.task = some t → x.active = a :: rest → (∀ b ∈ rest, b.num ≠ a.num) → a.num = p.num →
        a.writes = [] → a.r.flags = p.flags → a.r.pattern 1 = some p1 → k.scratch.wf = true → res.length % w = 0 →
        (∀ i, i < res.length / w → OwnBytes t (p1.elem i) w (dst + w * i)) →
        ∃ u m, kept u ∧ (u.core c).engines[3].active = rest ∧
          Completed m (u.core c).scratch x (u.core c).engines[3] t a.r (p1.size * w) 208 ∧ m.wf = true ∧
          memRead m dst res.length = res ∧ ∀ y, y < dst ∨ dst + res.length ≤ y → memGet m y = memGet k.scratch y)
    (∀ ty n, p.flags = 2 ^ 4 * ty → ty = 2 ∨ ty = 3 ∨ ty = 6 ∨ ty = 7 → (∀ o ∈ all, o.length = w * n) →
      gives ((List.range n).flatMap fun i => toBytes w ((all.map fun o => ofBytes ((o.drop (w * i)).take w)).sum % 2 ^ (8 * w)))) ∧
    (∀ ty n, p.flags = 3 * 2 ^ 8 + 2 ^ 4 * ty → ty = 2 ∨ ty = 3 ∨ ty = 6 ∨ ty = 7 → (∀ o ∈ all, o.length = w * n) →
      gives ((List.range n).flatMap fun i => toBytes w ((all.map fun o => ofBytes ((o.drop (w * i)).take w)).foldl (· ||| ·) 0))) ∧
    (∀ ty, p.flags = 2 + 2 ^ 4 * ty → ty < 14 → (∀ o ∈ others, o.length = p.data.length) → gives all.flatten) ∧
    (∀ ty, p.flags = 1 + 2 ^ 4 * ty → ty < 14 → ∀ root, all[bits p.aux 15 6]? = some root → root.length % w = 0 →
      gives root)

/-! ## Bank units -/

/-- The words of a bank run (R57, R284, R286, R290, R291): while the vale owns the channel and is keyed, BKRD, BKWR and BKAMO reach the
8 bytes of the bank-local offset where the check passes, and wait while a channel holds the bank; an offset that fails the check, or a
channel that the vale no longer owns, ends the run with status 260; BKRED of no element gives 0, of integers their sum, least, greatest
or OR, of floats their exact sum rounded once; a write to an image's page ends the run with status 260; BKSEND sends its source to an
empty combiner, and combines it with what the combiner holds; BKEND ends the run; an ALU word has the lead slice's result.
Model's choices: log 1, 12, 39, 44, 75. -/
def Obligations.BankWords : Prop := ∀ s (ch : Fin 512) (i : Nat) (sv : Serve) (run : BankRun) (d a b : BitVec 5) (key : Nat),
  s.turn = .bank ch i → (s.chan ch).serving = some sv → sv.runs[i]? = some run → run.finished = false →
  valeKey s sv.cmd.vale = some key → DramWfAt s →
  let ran (u : State) (run' : BankRun) : Prop :=
    ∃ sv', (u.chan ch).serving = some sv' ∧ sv'.runs = sv.runs.set i run' ∧ sv'.status = sv.status
  let past (run : BankRun) : BankRun := { run with pc := run.pc + 1 }
  let faulted (u : State) : Prop := ∃ sv', (u.chan ch).serving = some sv' ∧ sv'.ended = sv.ended + 1 ∧
    sv'.runs = sv.runs.set i { run with finished := true } ∧ sv'.status = (if sv.status = 0 then 260 else sv.status)
  let owned : Prop := ownsPa s sv.cmd.vale (bankAddress sv.cmd 0) = true
  let x := runSrc run a
  let y := runSrc run b
  (∀ p, bankCheck sv.cmd run.bank x.toNat 8 = some p → owned →
    let pa := bankAddress sv.cmd p
    (bankHeld s none (bankOf pa) = true → exec (.bkrd d a) s = .next s.waiting ∧
      (bankDenied s sv.cmd p = false → exec (.bkwr a b) s = .next s.waiting)) ∧
    (bankHeld s none (bankOf pa) = false →
      let old := ofBytes (dramRead s key pa 8)
      let wrote (u : State) (v : Nat) : Prop := (∀ j, j < 8 → dramByte u key (pa + j) = byteOf v j) ∧
        ∀ z, z < pa ∨ pa + 8 ≤ z → dramByte u key z = dramByte s key z
      (∃ u, exec (.bkrd d a) s = .next u ∧ SameMemory s u ∧ ran u (past (runWrite run d (BitVec.ofNat 64 old)))) ∧
      (bankDenied s sv.cmd p = false → (∃ u, exec (.bkwr a b) s = .next u ∧ ran u (past run) ∧ wrote u y.toNat) ∧
        ∀ op : BitVec 4, op.toNat < 9 → ∃ u, exec (.bkamo d a b op true) s = .next u ∧
          ran u (past (runWrite run d (BitVec.ofNat 64 old))) ∧ wrote u (amoNew op 8 old y.toNat)))) ∧
  (∀ p, bankCheck sv.cmd run.bank x.toNat 8 = some p → inImage (s.vale sv.cmd.vale) (sv.cmd.base / 2 ^ 21 * 2 ^ 21 + p) = true →
    (∃ u, exec (.bkwr a b) s = .next u ∧ SameMemory s u ∧ faulted u) ∧
    ∀ op, ∃ u, exec (.bkamo d a b op true) s = .next u ∧ SameMemory s u ∧ faulted u) ∧
  (bankCheck sv.cmd run.bank x.toNat 8 = none ∨ ¬ owned →
    (∃ u, exec (.bkrd d a) s = .next u ∧ SameMemory s u ∧ faulted u) ∧
    ∃ u, exec (.bkwr a b) s = .next u ∧ SameMemory s u ∧ faulted u) ∧
  (∀ (ty : BitVec 4) (p : Nat → Nat), let w := typeWidth ty.toNat / 8
    ty.toNat < 12 → 1 ≤ y.toNat → y.toNat ≤ 1024 → owned →
    (∀ e, e < y.toNat → bankCheck sv.cmd run.bank (x.toNat + e * w) w = some (p e) ∧
      bankHeld s none (bankOf (bankAddress sv.cmd (p e))) = false) →
    let els := (List.range y.toNat).map fun e => ofBytes (dramRead s key (bankAddress sv.cmd (p e)) w)
    let gives (op : BitVec 2) (v : Word) : Prop := ∃ u, exec (.bkred d a b op ty) s = .next u ∧ SameMemory s u ∧
      ran u (past (runWrite run d v))
    (ty.toNat < 8 →
      gives 0 (BitVec.ofInt 64 (els.map (intVal ty.toNat)).sum) ∧
      (∀ m ∈ els, (∀ n ∈ els, intVal ty.toNat m ≤ intVal ty.toNat n) → gives 1 (BitVec.ofInt 64 (intVal ty.toNat m))) ∧
      (∀ m ∈ els, (∀ n ∈ els, intVal ty.toNat n ≤ intVal ty.toNat m) → gives 2 (BitVec.ofInt 64 (intVal ty.toNat m))) ∧
      gives 3 (BitVec.ofNat 64 (els.foldl (· ||| ·) 0))) ∧
    (8 ≤ ty.toNat → let F := fmtOf ty.toNat
      gives 0 (BitVec.ofNat 64 (F.round .rne ((els.tail.map F.value).foldl FVal.add (F.value (els.headD 0))))) ∧
      gives 1 (BitVec.ofNat 64 (els.tail.foldl (fun m e => F.round .rne (FVal.min (F.value m) (F.value e))) (els.headD 0))) ∧
      gives 2 (BitVec.ofNat 64 (els.tail.foldl (fun m e => F.round .rne (FVal.max (F.value m) (F.value e))) (els.headD 0))))) ∧
  (y = 0 → ∀ op ty, ∃ u, exec (.bkred d a b op ty) s = .next u ∧ SameMemory s u ∧ ran u (past (runWrite run d 0))) ∧
  (let sends (v : Word) : Prop := ∃ u, exec (.bksend a) s = .next u ∧ SameMemory s u ∧ ran u (past run) ∧
     ∃ sv', (u.chan ch).serving = some sv' ∧ sv'.combiner = some v
   let ty := sv.cmd.ctype
   let cop := sv.cmd.cop
   (sv.combiner = none → (ty ≠ 10 → sends x) ∧ (ty = 10 → sends ((x.extractLsb' 0 32).setWidth 64))) ∧
   ∀ v, sv.combiner = some v →
     (ty = 3 ∨ ty = 7 →
       (cop = 0 → sends (v + x)) ∧
       (cop = 1 → sends (if intVal ty v.toNat ≤ intVal ty x.toNat then v else x)) ∧
       (cop = 2 → sends (if intVal ty v.toNat ≤ intVal ty x.toNat then x else v)) ∧
       (cop = 3 → sends (v ||| x))) ∧
     (ty = 10 ∨ ty = 11 →
       let F := fmtOf ty
       let f (z : Word) : FVal := F.value (z.toNat % 2 ^ F.width)
       (cop = 0 → sends (BitVec.ofNat 64 (F.round .rne (FVal.add (f v) (f x))))) ∧
       (cop = 1 → sends (BitVec.ofNat 64 (F.round .rne (FVal.min (f v) (f x))))) ∧
       (cop = 2 → sends (BitVec.ofNat 64 (F.round .rne (FVal.max (f v) (f x))))))) ∧
  (∃ u, exec .bkend s = .next u ∧ SameMemory s u ∧ ∃ sv', (u.chan ch).serving = some sv' ∧ sv'.ended = sv.ended + 1 ∧
    sv'.status = sv.status ∧ sv'.runs = sv.runs.set i { run with finished := true }) ∧
  (∃ u, exec (.add d a b) s = .next u ∧ SameMemory s u ∧ ran u (past (runWrite run d (x + y)))) ∧
  ∃ u, exec (.xor d a b) s = .next u ∧ SameMemory s u ∧ ran u (past (runWrite run d (x ^^^ y)))

/-- Bank commands (R57, R224, R227, R281 to R289): a RUN that passes its checks starts a run with n0 to n4 as said in every bank of its
mask; an INSTALL reads its slot, waiting while a copy channel holds its bank, and installs or removes its handler; a command that fails a
check is served with its status (256, 257, 258, 5) and no run. A command whose runs have ended, or that has none, leaves its status
record of 16 bytes in the task's allocation, with 0 for the result where it had no run, and with BEN adds its bytes to its barrier, 1,024
for each bank of its mask or 256 for an INSTALL, an add that overruns making the status 259; of a task that is gone it writes nothing.
Model's choices: log 1, 44. -/
def Obligations.BankCommands : Prop := ∀ s (ch : Fin 512),
  (∀ (x : BankCmd) (rest : List BankCmd), (s.chan ch).serving = none → (s.chan ch).fifo = x :: rest →
    let serves (u : State) (status : BitVec 32) (runs : List BankRun) : Prop := SameMemory s u ∧ (u.chan ch).fifo = rest ∧
      ∃ code, (u.chan ch).serving =
        some { cmd := x, code := code, status := status, runs := runs, combiner := none, ended := 0 }
    (x.cmd = 1 → badFormat x = false → badRange s ch x = false →
      ((s.chan ch).handlers[x.h].isSome = true → ∃ u, exec (.run ch) s = .next u ∧ serves u 0
        (((List.finRange 32).filter fun b => (x.words[0]).getLsbD (32 + b.val)).map fun b =>
          { bank := b, pc := 0, belt := Vector.replicate 16 0, finished := false
            n := #v[x.words[3], x.words[4], BitVec.ofNat 64 b.val, BitVec.ofNat 64 ((x.words[1]).toNat % 2 ^ 21),
                    BitVec.ofNat 64 ((x.words[2]).toNat % 2 ^ 32), 0, 0, 0, 0, 0, 0, 0, 0, 0, 0, 0] })) ∧
      ((s.chan ch).handlers[x.h] = none → ∃ u, exec (.run ch) s = .next u ∧ serves u 257 [])) ∧
    (x.cmd ≠ 2 → (badFormat x = true → ∃ u, exec (.run ch) s = .next u ∧ serves u 258 []) ∧
      (badFormat x = false → badRange s ch x = true → ∃ u, exec (.run ch) s = .next u ∧ serves u 256 [])) ∧
    (x.cmd = 2 → (badFormat x = true → ∃ u, exec (.install ch) s = .next u ∧ serves u 258 []) ∧
      (badFormat x = false → badRange s ch x = true → ∃ u, exec (.install ch) s = .next u ∧ serves u 256 [])) ∧
    (∀ pa cc, x.cmd = 2 → badFormat x = false → badRange s ch x = false → x.pa = some (pa, cc) →
      (bankBlocks s x.vale none pa = true → exec (.install ch) s = .next s) ∧
      (bankBlocks s x.vale none pa = false →
        let ws := slotWords (valeRead s x.vale pa 256)
        ((∀ w ∈ ws, w = 0) → ∃ u, exec (.install ch) s = .next u ∧ serves u 0 [] ∧ (u.chan ch).handlers[x.h] = none) ∧
        ((∃ w ∈ ws, w ≠ 0) → handlerSlotOk ws = true → ∃ u, exec (.install ch) s = .next u ∧ serves u 0 [] ∧
          (u.chan ch).handlers[x.h] = some ws) ∧
        ((∃ w ∈ ws, w ≠ 0) → handlerSlotOk ws = false → ∃ u, exec (.install ch) s = .next u ∧ serves u 5 [] ∧
          (u.chan ch).handlers = (s.chan ch).handlers)))) ∧
  ∀ sv, (s.chan ch).serving = some sv → (∀ r ∈ sv.runs, r.finished = true) →
    let k := s.core sv.cmd.core
    ((k.task = none ∨ ∃ t, k.task = some t ∧ t.epoch ≠ sv.cmd.epoch) → exec (.bankCommandComplete ch) s =
      .next { s.setChan ch { s.chan ch with serving := none } with stalled := false }) ∧
    ∀ t, k.task = some t → t.epoch = sv.cmd.epoch → sv.ended < 2 ^ 32 → k.scratch.wf = true →
      let off := t.alloc + sv.cmd.stat
      let bar := t.alloc + sv.cmd.bar
      let n := if sv.cmd.cmd = 2 then 256 else 1024 * ((List.range 32).countP fun b => (sv.cmd.words[0]).getLsbD (32 + b))
      let leaves (u : State) (status : Nat) : Prop := exec (.bankCommandComplete ch) s = .next u ∧ (u.chan ch).serving = none ∧
        let m := (u.core sv.cmd.core).scratch
        memNum m off 4 = status ∧ memNum m (off + 4) 4 = sv.ended ∧
        memNum m (off + 8) 8 = (if sv.runs = [] then 0 else (sv.combiner.getD 0).toNat) ∧
        (u.core sv.cmd.core).bankOut = k.bankOut - 1
      let kept (u : State) (z : Nat) : Prop := memGet (u.core sv.cmd.core).scratch z = memGet k.scratch z
      (sv.cmd.ben = false → ∃ u, leaves u sv.status.toNat ∧ ∀ z, z < off ∨ off + 16 ≤ z → kept u z) ∧
      (sv.cmd.ben = true → off + 16 ≤ bar ∨ bar + 16 ≤ off →
        ∃ u, leaves u (if barOverruns k.scratch bar n = true then 259 else sv.status.toNat) ∧
          BarFields k.scratch (u.core sv.cmd.core).scratch bar n ∧
          ∀ z, z < off ∨ off + 16 ≤ z → z < bar ∨ bar + 16 ≤ z → kept u z)

/-! ## Packets, mailboxes, the fabric -/

/-- Packets and mailboxes (R25, R34, R57, R281, R282, R302): an 8-byte store with the closing bit delivers its packet whole to the mailbox
of its window, to the task mailbox, to a channel's FIFO; a full task mailbox or FIFO makes the closing store wait, and the packet with
it, as does the walk of a BASE that waits for a bank (R224); a channel that the vale does not own, and a W5 outside R282, refuse it with
67; a window that does not decode answers an error; 10 µs after its first word an open packet whose closing store does not wait is
dropped and counted, by the timeout or by the store that finds it so old; a pop shows the oldest packet.
Model's choices: log 1, 8, 9, 44, 54, 58. -/
def Obligations.PacketsAndMailboxes : Prop := ∀ s (c : Fin 256) (v : Fin 16) (data : Word),
  let f (u : State) : Iface := (u.vale v).iface
  let waiting (u : State) (ep : BitVec 12) (p : OpenPacket) : Prop := SameMemory s u ∧ (u.core c).ls = (s.core c).ls ∧
    openPacket u (.core c) (.task ep) = some { p with waits := true }
  (∀ (id : BitVec 32) (k : Fin 8),
    (winDecodes s v k = true → ((f s).wins[k]).kind = 2 → winServes s v (f s).wins[k] id true = true →
      openPacket s (.host id) (.window v k) = none → (f s).mbx.length < 32 →
      ∃ u, exec (.endpointStore (.host id) (.window v k) 0x40 8 data) s = .next u ∧ SameMemory s u ∧
        (f u).mbx = (f s).mbx ++ [{ src := .host id, words := [data] }] ∧ u.outbox = .hostReply id (some []) :: s.outbox) ∧
    (winDecodes s v k = false →
      exec (.endpointStore (.host id) (.window v k) 0x40 8 data) s =
        .next { s with outbox := .hostReply id none :: s.outbox }) ∧
    (∀ p, openPacket s (.host id) (.window v k) = some p → p.since + 10000 < s.now.toNat → p.waits = false →
      (f s).drop ≠ BitVec.allOnes 64 →
      ∃ u, exec (.packetTimeout (.host id) (.window v k)) s = .next u ∧ SameMemory s u ∧
        openPacket u (.host id) (.window v k) = none ∧ (f u).drop = (f s).drop + 1)) ∧
  (∀ p rest, (f s).mbx = p :: rest → p.words.length ≤ 8 →
    ∃ u, exec (.mbxPop v 0) s = .next u ∧ SameMemory s u ∧ (f u).mbx = rest ∧ (f u).ifc = (f s).ifc ∧
      (f u).head.toNat = (sourceId p.src).toNat * 2 ^ 32 + p.words.length * 2 ^ 8 + 1 ∧
      ∀ i : Fin 8, (f u).words[i] = p.words.getD i.val 0) ∧
  ((f s).mbx = [] → ∃ u, exec (.mbxPop v 0) s = .next u ∧ SameMemory s u ∧ (f u).head = 0 ∧ ∀ i : Fin 8, (f u).words[i] = 0) ∧
  (∀ p rest, s.hub.tmbx = p :: rest → p.words.length ≤ 8 → ∃ u, exec .tmbxPop s = .next u ∧ SameMemory s u ∧ u.hub.tmbx = rest ∧
    u.hub.tHead.toNat = p.core.val * 2 ^ 40 + p.vale.val * 2 ^ 32 + p.words.length * 2 ^ 8 + 1 ∧
    ∀ i : Fin 8, u.hub.tWords[i] = p.words.getD i.val 0) ∧
  ∀ e rest va n rq span ep off, (s.core c).ls.sq = e :: rest → e.kind = .store va n data rq span (.endpoint ep off) →
    heldBack s (.core c) e = false → heldFault (s.core c).ls e = none →
    let left (u : State) : Prop := (u.core c).ls = dropEntry (s.core c).ls e.id
    (taskVale s c = some v → ep = 1 → off = 0x40 → openPacket s (.core c) (.task ep) = none →
      (s.hub.tmbx.length < 64 → ∃ u, exec (.taskMailboxPacket c) s = .next u ∧ SameMemory s u ∧ left u ∧
        u.hub.tmbx = s.hub.tmbx ++ [{ core := c, vale := v, words := [data] }]) ∧
      (64 ≤ s.hub.tmbx.length → exec (.taskMailboxPacket c) s = .next s)) ∧
    ∀ p, openPacket s (.core c) (.task ep) = some p →
      (p.since + 10000 < s.now.toNat → p.waits = true) →
      (∀ k, taskVale s c = some v → ep = 1 → p.words.length = k + 1 → k < 7 → off = 0x40 + 8 * (BitVec.ofNat 12 k + 1) →
        (s.hub.tmbx.length < 64 → ∃ u, exec (.taskMailboxPacket c) s = .next u ∧ SameMemory s u ∧ left u ∧
          u.hub.tmbx = s.hub.tmbx ++ [{ core := c, vale := v, words := p.words ++ [data] }]) ∧
        (64 ≤ s.hub.tmbx.length → ∃ u, exec (.taskMailboxPacket c) s = .next u ∧ waiting u ep p)) ∧
      ∀ (ch : Fin 512) t, (s.core c).task = some t → ep.toNat = 0x100 + ch.val → off = 0x68 → p.words.length = 5 →
        let owned : Bool := (s.vale t.vale).channels.getLsbD ch
        let room : Prop := (s.chan ch).fifo.length < 8 ∧ baseHeld s t.vale (p.words.getD 1 0) = false
        (owned = false ∨ bankTailOk t data.toNat = false → firstReport s (.core c) = none → (s.core c).ls.sure e.id = false →
          olderHeld (s.core c).ls e.id = false → takesReports s (.core c) = true →
          ∃ u, exec (.bankPacketTaken c ch) s = .next u ∧ SameMemory s u ∧ (u.core c).ls.cause = 67 ∧ (u.core c).ls.epc = e.pc ∧
            (u.core c).ls.tval = va ∧ (u.core c).run = .trapped ∧
            (owned = true → openPacket u (.core c) (.task ep) = none)) ∧
        (owned = true → bankTailOk t data.toNat = true →
          (room → ∃ u x, exec (.bankPacketTaken c ch) s = .next u ∧
            (u.chan ch).fifo = (s.chan ch).fifo ++ [x] ∧ x.words.toList = p.words ++ [data] ∧ x.core = c ∧ x.vale = t.vale ∧
            (u.core c).bankOut = (s.core c).bankOut + 1 ∧ left u) ∧
          (¬ room → ∃ u, exec (.bankPacketTaken c ch) s = .next u ∧ waiting u ep p))

/-- Domain accesses (R190, R204, R276 to R278, R307, R320, R321, R342). As a home, where no other access is being served here: a bound
peer's read answers the latest bytes under the vale's key and its write is performed and noted as the last of its source, once no copy
channel holds a bank that they reach (R224); until then a read changes nothing, and a write is entered, behind which the later writes of
its source wait; a write that a later one of its source has passed changes nothing; an unbound one is answered so. As a source: an answer
completes the load whose request it names, so that no request of it is left, a refusal, an unbound answer and a timeout end the access
with 290, 291 and 289 at its own address, and a write is performed when the returned prefix passes it, unless that comes too late; an
answer to no request that is out at the device it comes from, or to one that left more than 20 µs ago, reaches nothing, and before 20 µs
there is no timeout. A `.si` word whose lease has ended is dropped, and no other.
Model's choices: log 1, 8, 9, 12, 27, 44, 52. -/
def Obligations.DomainAccesses : Prop := ∀ s (c : Fin 256) (v : Fin 16) (key : Nat) (q : PeerRequest),
  let entered : State := { s with hub := { s.hub with inbound := s.hub.inbound ++ [{ asks := .inl q, run := none }] } }
  let noted (u : State) : Prop := ∀ o, q.order = some o → ∃ x ∈ u.hub.inSeqs, x.dev = q.dev ∧ x.core = o.core ∧ x.who = o.who ∧
    x.path = o.path ∧ x.era = o.era ∧ x.last = o.seq
  let fresh : Prop := s.split = false ∧ s.hub.inbound = [] ∧ arrivesInOrder s q = true
  ((∀ x ∈ s.hub.inbound, x.asks ≠ .inl q) →
    (arrivesInOrder s q = false → exec (.domainRequest q) s = .next s) ∧
    (arrivesInOrder s q = true → peerHeld s q = true ∨ waitsBehind s q = true →
      exec (.domainRequest q) s = .next (if q.op = .read ∨ q.order = none then s else entered))) ∧
  (fresh → boundVale s q.dev q.vale = none → ∃ u, exec (.domainRequest q) s = .next u ∧ SameMemory s u ∧ u.hub.inbound = [] ∧
    u.outbox = .reply q.dev .unbound :: s.outbox) ∧
  (∀ lf, fresh → boundVale s q.dev q.vale = some v → q.addr.toNat < 2 ^ 46 → valeKey s v = some key → 1 ≤ q.len →
    q.addr.toNat % 128 + q.len ≤ 128 → DramWfAt s → peerHeld s q = false →
    (q.op = .read → translate s v q.addr.toNat .read = .ok lf → poisonedAt s .dram lf.pa q.len = false →
      ∃ u, exec (.domainRequest q) s = .next u ∧ SameMemory s u ∧
        u.outbox = .reply q.dev (.data (dramRead s key lf.pa q.len)) :: s.outbox) ∧
    (∀ bs, q.op = .write bs → bs.length = q.len → translate s v q.addr.toNat .write = .ok lf →
      ∃ u, exec (.domainRequest q) s = .next u ∧ u.outbox = .reply q.dev (.data []) :: s.outbox ∧ noted u ∧
        (∀ i, i < q.len → dramByte u key (lf.pa + i) = bs.getD i 0) ∧
        ∀ z, z < lf.pa ∨ lf.pa + q.len ≤ z → dramByte u key z = dramByte s key z)) ∧
  (∀ dev id ans b, (∀ r, requestOf s id = some r → r.dev ≠ dev) →
    exec (.domainResponse dev id ans) s = .next s ∧ exec (.domainTimeout dev id b) s = .next s) ∧
  (∀ r, requestOf s r.id = some r →
    let late : Prop := r.since + 20000 < s.now.toNat
    (late → ∀ ans, exec (.domainResponse r.dev r.id ans) s = .next s) ∧
    (¬ late → ∀ b, exec (.domainTimeout r.dev r.id b) s = .next s) ∧
    ∀ e, r.core = c → r.who = .lead → entryOf (s.core c).ls r.num = some e →
    let l := (s.core c).ls
    let gone (u : State) : Prop := ∀ y ∈ u.hub.reqs, y.core = c → y.who = .lead → y.num ≠ r.num
    let fails (i : Instr) (code : BitVec 12) : Prop := ∃ u, exec i s = .next u ∧ SameMemory s u ∧ gone u ∧
      (u.core c).ls.cause = code ∧ (u.core c).ls.epc = e.pc ∧ (u.core c).ls.tval = entryVa e.kind ∧ (u.core c).run = .trapped
    (¬ late → r.emul = none → ∀ va n span pl bs, e.kind = .load va n false 3 span pl →
      ∃ u, exec (.domainResponse r.dev r.id (.data bs)) s = .next u ∧ SameMemory s u ∧ gone u ∧
        (u.core c).ls = dropEntry (arrive l e.id (BitVec.ofNat 64 (ofBytes (bs.take n)))) e.id) ∧
    (l.sure e.id = false → olderHeld l e.id = false → firstReport s (.core c) = none → takesReports s (.core c) = true →
      answered r e.kind = false →
      (¬ late → fails (.domainResponse r.dev r.id .denied) 290 ∧ fails (.domainResponse r.dev r.id .unbound) 291) ∧
      (late → ∀ b, fails (.domainTimeout r.dev r.id b) 289)) ∧
    (∀ va n x rq span pl m k, e.kind = .store va n x rq span pl → (∀ z o, pl ≠ .endpoint z o) → r.wseq = some k →
      (∀ y ∈ s.hub.reqs, y.core = c → y.who = .lead → y.path = r.path → y = r) →
      let w := seqOf s c .lead r.path
      (m - w.acked).toNat ≤ (w.next - w.acked).toNat → ackedBy { w with acked := m } k = true →
      (¬ late → fillBlocks (s.core c) va n = false →
        ∃ u, exec (.switchCounterReturn c .lead r.path m) s = .next u ∧ SameMemory s u ∧ gone u ∧
          (u.core c).ls = dropEntry l e.id ∧ (seqOf u c .lead r.path).acked = m) ∧
      (late → ∃ u, exec (.switchCounterReturn c .lead r.path m) s = .next u ∧ SameMemory s u ∧ requestOf u r.id = some r ∧
        (u.core c).ls = l ∧ (seqOf u c .lead r.path).acked = m))) ∧
  ∀ va8, ∃ u, exec (.leaseExpiry c va8) s = .next u ∧ SameMemory s u ∧ ∀ x, x ∈ (u.core c).l1 ↔
    x ∈ (s.core c).l1 ∧ ¬(x.va8 = va8 ∧ x.rq = 2 ∧ x.ends ≤ s.now.toNat)

/-- The phases of a port (R278, R316 to R318, R324): which event leads where, the lanes mapped, the paths a trained port offers to
devices that had none; a good flit in order is handed on once and frees what it acknowledges, a good one out of order changes nothing;
a bad one, whatever its header says, is replayed, and after three replays in a row whose first flit is bad the port retrains.
Model's choices: log 1, 27, 62. -/
def Obligations.PortPhases : Prop := ∀ s (p : Fin 18) (good : BitVec 5) (who : Partner) (l : Fin 5) (x : Flit) (first : Bool),
  let y := s.ports[p]
  let becomes (i : Instr) (z : Port) : Prop := exec i s = .next (s.setPort p z)
  let enters (i : Instr) (phase : PortPhase) : Prop := ∃ u, exec i s = .next u ∧ (u.ports[p]).phase = phase ∧
    ∀ q : Fin 18, q ≠ p → u.ports[q] = s.ports[q]
  let four (m : BitVec 5) : Prop := 4 ≤ (List.range 5).countP fun i => m.getLsbD i
  let left := y.good &&& ~~~ BitVec.ofNat 5 (2 ^ l.val)
  (y.phase = .down → becomes (.retrain p) { y with phase := .train, failed := false } ∧
    becomes (.partnerDetected p) { y with phase := .train, failed := false } ∧
    (y.failed = true → becomes (.trainingRetry p) { y with phase := .train, failed := false })) ∧
  (y.phase = .train → enters (.trainingFailure p) .down ∧ (∀ u, exec (.trainingFailure p) s = .next u →
    (u.ports[p]).failed = true) ∧
    (four good → ∃ u, exec (.trainingDone p good who) s = .next u ∧
      u.ports = s.ports.set p { y with phase := .up, lanes := lowestFour good, good := good, partner := some who } ∧
      ∀ d : BitVec 10, (∀ z, pathFor s d = some z → pathFor u d = some z) ∧
        (pathFor s d = none → (∃ z ∈ who.vias, z.dev = d) → (pathFor u d).isSome = true))) ∧
  (y.phase = .retrain → enters (.retrainFailure p) .down ∧ (four good → becomes (.retrainComplete p good)
    { y with phase := .up, good := good, lanes := lowestFour good, inRow := 0 })) ∧
  enters (.disable p) .down ∧
  (y.phase = .repair → y.replaying = false → becomes (.laneMapSwitch p) { y with phase := .up, lanes := lowestFour y.good }) ∧
  (y.phase = .up → y.lanes.getLsbD l = true →
    (four left → becomes (.laneFailure p l) { y with good := left, phase := .repair }) ∧
    (¬ four left → becomes (.laneFailure p l) { y with good := left, phase := .retrain })) ∧
  (y.phase = .up ∨ y.phase = .repair →
    (flitGood x = true → x.seq ≠ y.expect → exec (.flitReceive p x first) s = .next s) ∧
    (flitGood x = true → x.seq = y.expect → becomes (.flitReceive p x first)
      { y with expect := y.expect + 1, handed := y.handed + 1, inRow := 0, replaying := false, credits := x.credits
               replay := keepUnacked x.ack y.replay }) ∧
    (flitGood x = false →
      (y.replaying = false → becomes (.flitReceive p x first) { y with replaying := true }) ∧
      (y.replaying = true → exec (.flitReceive p x false) s = .next s) ∧
      (y.replaying = true → y.replays ≠ BitVec.allOnes 32 →
        (y.inRow < 2 → becomes (.flitReceive p x true) { y with replays := y.replays + 1, inRow := y.inRow + 1 }) ∧
        (y.inRow = 2 → becomes (.flitReceive p x true)
          { y with replays := y.replays + 1, phase := .retrain, inRow := 0, replaying := false }))))

/-! ## The interface, security, vales -/

/-- The bytes 0x000 to 0x19F of a report on vale `v`, field by field (R38). -/
def ReportLayout (s : State) (v : Fin 16) : Prop :=
  let x := s.vale v
  let f := x.iface
  let bs := reportBody s v
  let part (off n : Nat) : List Byte := (bs.drop off).take n
  let field (off n : Nat) (w : Nat) : Prop := ofBytes (part off n) = w
  bs.length = 0x1A0 ∧ field 0 4 0x50524649 ∧ field 4 2 1 ∧
  field 6 1 (match f.phase with
    | .unlocked => 0
    | .locked => 1
    | .run => 2
    | .error => 3) ∧
  field 7 1 ((List.finRange 8).countP fun k => ((f.wins[k]).attr.getLsbD 63)) ∧
  field 8 8 (Config.serial.toNat % 2 ^ 32 * 2 ^ 32 + f.gen.toNat * 2 ^ 16 + v.val) ∧ field 0x10 1 v.val ∧ field 0x11 7 0 ∧
  field 0x18 8 f.host.toNat ∧ (∀ k : Fin 4, field (0x20 + 8 * k) 8 (f.nonce[k]).toNat) ∧ field 0x40 48 s.sec.fwDigest.toNat ∧
  field 0x70 48 x.meas.toNat ∧
  part 0xA0 48 = sha384 (toBytes 32 x.cores.toNat ++ toBytes 16 x.slices.toNat ++ toBytes 64 x.channels.toNat ++
    toBytes 8 x.key.toNat ++ toBytes 8 x.asid.toNat ++ toBytes 8 x.prio.toNat) ∧
  field 0xD0 4 x.exts.toNat ∧ field 0xD4 12 0 ∧
  ∀ k : Fin 8, field (0xE0 + 24 * k) 8 (f.wins[k]).base.toNat ∧ field (0xE0 + 24 * k + 8) 8 (f.wins[k]).size.toNat ∧
    field (0xE0 + 24 * k + 16) 8 (f.wins[k]).attr.toNat

/-- The interface block (R31 to R38, R313): the commands in the states that allow them, a command refused elsewhere or while a scrub
runs, the layout of a report, sampled when REPORT is taken, the end of a report and of a scrub, the events that lead to ERROR, the
nonce, and a host's read through a memory window, which waits while a copy channel holds a bank that it reaches (R224), where no other
access is being served here.
Model's choices: log 1, 9, 12, 44, 52, 59, 69. -/
def Obligations.InterfaceBlock : Prop := ∀ s (v : Fin 16),
  let x := s.vale v
  let f (u : State) : Iface := (u.vale v).iface
  let idle : Prop := (f s).scrubBusy = false ∧ (f s).reportBusy = false
  let frozen : Prop := (f s).phase = .locked ∨ (f s).phase = .run
  let errors (i : Instr) (cause : BitVec 9) : Prop := ∃ u, exec i s = .next u ∧ SameMemory s u ∧ (f u).phase = .error ∧
    (f u).cause = cause ∧ (f u).scrubBusy = true ∧ (f u).mbx = [] ∧ (u.vale v).graphs = [] ∧
    (f u).report = (if (f s).reportBusy = true ∨ cause = 320 then 0 else (f s).report)
  (idle → (f s).phase = .unlocked → x.ownsAny = true → x.rstate = .stable → x.graphs = [] → x.images = [] → (f s).host ≠ 0 →
    (∃ k : Fin 8, ((f s).wins[k]).attr.getLsbD 63 = true) →
    ∃ u, exec (.lock v) s = .next u ∧ SameMemory s u ∧ (f u).phase = .locked ∧ (f u).result = 0 ∧ (u.vale v).meas = 0 ∧
      (u.vale v).exts = 0 ∧
      u.sec.slots[x.key.toFin] = some (s.sec.keys + 1)) ∧
  (idle → (f s).phase ≠ .unlocked → ∃ u, exec (.lock v) s = .next u ∧ SameMemory s u ∧ f u = { f s with result := 1 }) ∧
  (idle → (f s).phase = .locked → ∃ u, exec (.start v) s = .next u ∧ SameMemory s u ∧
    f u = { f s with phase := .run, result := 0 }) ∧
  ((f s).scrubBusy = false → frozen → ∃ u, exec (.stop v) s = .next u ∧ SameMemory s u ∧ (f u).scrubBusy = true ∧
    (f u).stopping = true ∧
    (f u).phase = (f s).phase ∧ (f u).mbx = [] ∧ (f u).ifc = [] ∧ (u.vale v).graphs = [] ∧ (f u).result = 0) ∧
  (idle → (f s).phase = .error → ∃ u, exec (.reset v) s = .next u ∧ SameMemory s u ∧ (f u).phase = .unlocked ∧
    (f u).gen = (f s).gen + 1) ∧
  ReportLayout s v ∧
  (idle → frozen → ∃ u, exec (.report v) s = .next u ∧ SameMemory s u ∧ (f u).reportBusy = true ∧ (f u).report = (f s).report ∧
    (f u).job = some (BitVec.ofNat 3328 (ofBytes (reportBody s v)))) ∧
  ((f s).scrubBusy = true → ∃ u, exec (.start v) s = .next u ∧ SameMemory s u ∧ f u = { f s with result := 2 }) ∧
  (∀ body, (f s).job = some body → ∃ u, exec (.reportComplete v) s = .next u ∧ SameMemory s u ∧ (f u).reportBusy = false ∧
    (f u).job = none ∧
    (f u).report.extractLsb' 0 3328 = body) ∧
  ((f s).scrubBusy = true → valeBusy s v = false → ∃ u, exec (.scrubComplete v) s = .next u ∧ (f u).scrubBusy = false ∧
    (f u).phase = (if (f s).stopping then .unlocked else (f s).phase) ∧ (u.vale v).images = [] ∧ (u.vale v).meas = 0 ∧
    (∀ c : Fin 256, x.cores.getLsbD c = true → (u.core c).scratch = [] ∧ (u.core c).l1 = [] ∧ (u.core c).lane = LaneSlice.zero) ∧
    (x.ownsAny = true → u.sec.slots[x.key.toFin] = none)) ∧
  (frozen → errors (.integrityFailure v) 321) ∧
  (¬ frozen → exec (.integrityFailure v) s = .next s) ∧
  (∀ a data off, blockOf a.toNat = (.iface v, off) → ifFrozenReg off = true → frozen →
    errors (.frozenRegisterWrite a data none) 320) ∧
  (∀ a data k, blockOf a.toNat = (.iface v, 0x20 + 8 * k) → k < 4 → ∃ u, exec (.registerWrite a data) s = .next u ∧ SameMemory s u ∧
    ∀ j : Fin 4, (f u).nonce[j] = if j.val = k then data else (f s).nonce[j]) ∧
  ∀ (q : HostAccess) (k : Fin 8) (w : Win) lf key, winAt s q.addr = some (v, k, w) → winServes s v w q.src false = true →
    w.kind = 4 → q.write = none → valeKey s v = some key → s.split = false → s.hub.inbound = [] →
    let va := ((w.attr.extractLsb' 12 44).toNat * 4096 + (q.addr.toNat - w.base.toNat)) % 2 ^ 56
    1 ≤ q.len → va % 128 + q.len ≤ 128 → translate s v va .read = .ok lf →
    (vaHeld s v none va .read = true → exec (.hostWindowAccess q) s = .next s) ∧
    (vaHeld s v none va .read = false → poisonedAt s .dram lf.pa q.len = false →
      ∃ u, exec (.hostWindowAccess q) s = .next u ∧ SameMemory s u ∧
        u.outbox = .hostReply q.src (some (dramRead s key lf.pa q.len)) :: s.outbox)

/-- The security engine (R35, R39, R42): each command where it is not refused, BUSY and CONFLICT, and RESULT at the end; one that reads
memory waits while a copy channel holds a bank that it reads (R224).
Model's choices: log 1, 19, 36, 44. -/
def Obligations.SecurityCommands : Prop := ∀ s (k : Fin 64),
  let busy (u : State) : Prop := u.sec.busy = true ∧ u.sec.outcome = 0
  (s.sec.busy = true → exec (.arm k) s = .next { s with sec := { s.sec with result := 2 } } ∧
    exec (.zero k) s = .next { s with sec := { s.sec with result := 2 } } ∧
    exec .secCommandComplete s = .next { s with sec := { s.sec with busy := false, result := s.sec.outcome } }) ∧
  (s.sec.busy = false →
    (s.sec.slots[k] = none → ∃ u, exec (.arm k) s = .next u ∧ SameMemory s u ∧ busy u ∧
      u.sec.slots = s.sec.slots.set k (some (s.sec.keys + 1)) ∧
      u.sec.keys = s.sec.keys + 1) ∧
    (s.sec.slots[k] ≠ none → exec (.arm k) s = .next { s with sec := { s.sec with result := 3 } }) ∧
    (namedBy s (BitVec.ofNat 6 k.val) = none → ∃ u, exec (.zero k) s = .next u ∧ SameMemory s u ∧ busy u ∧
      u.sec.slots = s.sec.slots.set k none) ∧
    (namedBy s (BitVec.ofNat 6 k.val) ≠ none → exec (.zero k) s = .next { s with sec := { s.sec with result := 3 } }) ∧
    (∀ (j : Fin 8) bs, k.val = j.val →
      let locked (v : Fin 16) : Prop := (s.vale v).iface.phase = .locked ∨ (s.vale v).iface.phase = .run
      let changed (u : State) : Prop := busy u ∧ ∀ v : Fin 16,
        (locked v → (u.vale v).iface.phase = .error ∧ (u.vale v).iface.cause = 323) ∧
        (¬ locked v → (u.vale v).iface.phase = (s.vale v).iface.phase)
      (secHeld s s.sec.addr 96 = true → exec (.signerSet k) s = .next s) ∧
      (secHeld s s.sec.addr 96 = false → machRead s s.sec.addr 96 = some bs →
        onCurve (bigEndian (bs.take 48), bigEndian (bs.drop 48)) = true →
        ∃ u, exec (.signerSet k) s = .next u ∧ SameMemory s u ∧ changed u ∧ u.sec.signers = s.sec.signers.set j
          (some (BitVec.ofNat 384 (bigEndian (bs.take 48)), BitVec.ofNat 384 (bigEndian (bs.drop 48))))) ∧
      (∃ u, exec (.signerClear k) s = .next u ∧ SameMemory s u ∧ changed u ∧ u.sec.signers = s.sec.signers.set j none) ∧
      (∀ img, stageHeld s = false → stagedImage s = some img → ∃ u, exec .fwStage s = .next u ∧ SameMemory s u ∧ changed u ∧
        u.sec.staged = some img)) ∧
    (stageHeld s = true → exec .fwStage s = .next s) ∧
    (stageHeld s = false → stagedImage s = none → exec .fwStage s = .next { s with sec := { s.sec with result := 6 } }) ∧
    (∀ img, s.sec.staged = some img → s.mgmt.fw.wf = true → ∃ u, exec .fwActivate s = .next u ∧ busy u ∧ u.sec.staged = none ∧
      u.sec.fwDigest = BitVec.ofNat 384 (ofBytes (sha384 img)) ∧ u.mgmt.ls.pc = 0x00FF000000000000 ∧
      u.mgmt.ls.machine = true ∧ ∀ i, i < img.length → memGet u.mgmt.fw i = img.getD i 0) ∧
    (s.sec.staged = none → exec .fwActivate s = .next { s with sec := { s.sec with result := 3 } }))

/-- The vale registers, the memory control block and CC_FRAME (R35, R47, R49, R197, R198, R200): what each write that is not refused
changes, with RESULT 0; the refusals of R47 and R197; SHOOT and its end. An ASID that is replaced leaves no translation and no L1 word of
the vale's cores (R213); no slice keeps a line of a frame that is registered (R201).
Model's choices: log 1, 14, 42, 78, 85; log 64 for which refusal of several is reported: the reserved bits of KEY, ASID and TRANS_ROOT
before a graph in flight, that before NO_KEY and CONFLICT. -/
def Obligations.ValeRegisters : Prop := ∀ s (v : Fin 16) (data : Word),
  let x := s.vale v
  let only (i : Instr) (y : Vale) : Prop := exec i s = .next (s.setVale v y)
  (x.iface.phase = .unlocked →
    (x.rstate ≠ .stable → only (.valeKeyWrite v data) { x with result := 2 } ∧
      only (.valeAsidWrite v data) { x with result := 2 } ∧ only (.valePrioWrite v data) { x with result := 2 }) ∧
    (x.rstate = .stable →
      (64 ≤ data.toNat → only (.valeKeyWrite v data) { x with result := 6 }) ∧
      (data.toNat < 64 → (x.graphs ≠ [] → only (.valeKeyWrite v data) { x with result := 2 }) ∧
        (x.graphs = [] → (noKey s v (data.extractLsb' 0 6) = true → only (.valeKeyWrite v data) { x with result := 7 }) ∧
          (noKey s v (data.extractLsb' 0 6) = false →
            only (.valeKeyWrite v data) { x with key := data.extractLsb' 0 6, keyLost := false, result := 0 }))) ∧
      (2 ^ 16 ≤ data.toNat → only (.valeAsidWrite v data) { x with result := 6 }) ∧
      (data.toNat < 2 ^ 16 → (x.graphs ≠ [] → only (.valeAsidWrite v data) { x with result := 2 }) ∧
        (x.graphs = [] →
          let taken : Prop := ∃ w : Fin 16, w ≠ v ∧ (s.vale w).ownsAny = true ∧ (s.vale w).asid.toNat = data.toNat
          (taken → only (.valeAsidWrite v data) { x with result := 3 }) ∧
          (¬ taken → let y : Vale := { x with asid := data.extractLsb' 0 16, result := 0 }
            (x.asid = y.asid → only (.valeAsidWrite v data) y) ∧
            (x.asid ≠ y.asid → ∃ u, exec (.valeAsidWrite v data) s = .next u ∧ SameMemory s u ∧ u.vale v = y ∧
              (∀ e ∈ u.pages, e.asid ≠ x.asid) ∧
              ∀ c : Fin 256, x.cores.getLsbD c = true → ∀ z ∈ (u.core c).l1, z.asid ≠ x.asid)))) ∧
      (4 ≤ data.toNat → only (.valePrioWrite v data) { x with result := 6 }) ∧
      (data.toNat < 4 → only (.valePrioWrite v data) { x with prio := data.extractLsb' 0 2, result := 0 })) ∧
    (2 ^ 39 ≤ data.toNat ∨ data.toNat % 4096 ≠ 0 → only (.transRootWrite v data) { x with memResult := 6 }) ∧
    (data.toNat < 2 ^ 39 → data.toNat % 4096 = 0 →
      (x.graphs ≠ [] → only (.transRootWrite v data) { x with memResult := 2 }) ∧
      (x.graphs = [] → only (.transRootWrite v data) { x with root := BitVec.ofNat 27 (data.toNat / 4096), memResult := 0 })) ∧
    (256 ≤ data.toNat → data.toNat ≤ 16384 →
      only (.leaseWrite v data) { x with lease := BitVec.ofNat 15 data.toNat, memResult := 0 }) ∧
    (data.toNat < 256 ∨ 16384 < data.toNat → only (.leaseWrite v data) { x with memResult := 6 })) ∧
  (x.rstate = .stable → only (.clearerr v) { x with predErr := false, predNode := 0, wrErr := false, result := 0 }) ∧
  (x.shootBusy = false → only (.shoot v) { x with shootBusy := true, memResult := 0 }) ∧
  (x.shootBusy = true → only (.shoot v) { x with memResult := 2 } ∧ ∃ u, exec (.shootComplete v) s = .next u ∧ SameMemory s u ∧
    (u.vale v).shootBusy = false ∧ (∀ e ∈ u.pages, e.asid ≠ x.asid) ∧
    ∀ c : Fin 256, x.cores.getLsbD c = true → ∀ y ∈ (u.core c).l1, y.asid ≠ x.asid) ∧
  ∀ (ch : Fin 512) (k : Fin 32),
    let frame : BitVec 10 := BitVec.ofBool (data.getLsbD 63) ++ data.extractLsb' 0 9
    let y : Channel := { s.chan ch with frames := (s.chan ch).frames.set k frame }
    ((∀ j, 9 ≤ j → j < 63 → data.getLsbD j = false) →
      (data.getLsbD 63 = false → exec (.ccFrameWrite ch k data) s = .next (s.setChan ch y)) ∧
      (data.getLsbD 63 = true → ∃ u, exec (.ccFrameWrite ch k data) s = .next u ∧ SameMemory s u ∧ u.chans = (s.setChan ch y).chans ∧
        ∀ (i : Fin 128) z, z ∈ u.l2[i] ↔ z ∈ s.l2[i] ∧ ccLine u z.line = false)) ∧
    ((∃ j, 9 ≤ j ∧ j < 63 ∧ data.getLsbD j = true) → exec (.ccFrameWrite ch k data) s = .next s)

/-- The steps of a resize (R57 to R66): a RESIZE with something to join is BUSY in GROW_PENDING; a joining slice or core becomes the
vale's own, a core scrubbed and idle; a leaving core that is free is scrubbed; the walker migrates its sets in order, and each line of the
set that the new hash places elsewhere leaves its slice; a migration entry moves its frame's bytes and its leaf, and the last one ends
CHANNEL_MOVE once no access is left in the channels that leave; it waits while a copy channel holds a bank of the frame, of its new place
or of its leaf, as a RESIZE does for one of its list (R224); SETTLE ends with RESULT 0 once they serve no command.
Model's choices: log 1, 12, 35, 40, 41, 44. -/
def Obligations.ResizeSteps : Prop := ∀ s (v : Fin 16) (r : Resize),
  let x := s.vale v
  (resizeHeld s v = true → exec (.resize v) s = .next s) ∧
  (resizeHeld s v = false → resizeRefusal s v = none → x.nextSlices &&& ~~~ x.slices ≠ 0 → ∃ u z, exec (.resize v) s = .next u ∧
    SameMemory s u ∧
    (u.vale v).result = 2 ∧
    (u.vale v).rstate = .growPending ∧ (u.vale v).resize = some z ∧ z.joinC = x.nextCores &&& ~~~ x.cores ∧
    z.joinS = x.nextSlices &&& ~~~ x.slices ∧ z.joinCh = x.nextChannels &&& ~~~ x.channels ∧
    z.leaveC = x.cores &&& ~~~ x.nextCores ∧ z.leaveCh = x.channels &&& ~~~ x.nextChannels) ∧
  (∀ code, resizeHeld s v = false → resizeRefusal s v = some code → exec (.resize v) s = .next (s.setVale v { x with result := code })) ∧
  (x.resize = some r →
    (∀ i : Fin 128, x.rstate = .growPending → r.joinS.getLsbD i = true → r.joinC ≠ 0 →
      ∃ u, exec (.joiningResourceOwned v (.slice i)) s = .next u ∧ (u.vale v).slices.getLsbD i = true ∧
        (u.vale v).resize = some { r with joinS := r.joinS &&& ~~~ BitVec.ofNat 128 (2 ^ i.val) } ∧
        (u.vale v).rstate = .growPending) ∧
    (∀ c : Fin 256, x.rstate = .growPending → r.joinC.getLsbD c = true → r.joinCh ≠ 0 →
      ∃ u, exec (.joiningResourceOwned v (.core c)) s = .next u ∧ (u.vale v).cores.getLsbD c = true ∧ (u.core c).run = .idle ∧
        (u.core c).scratch = [] ∧ (u.core c).ls = LeadSlice.zero) ∧
    (∀ c : Fin 256, r.transC.getLsbD c = true → r.leaveC = 0 → (s.core c).task = none →
      ∃ u, exec (.leavingCoreFree v c) s = .next u ∧ (u.core c).run = .idle ∧ (u.core c).scratch = [] ∧
        (u.core c).ls = LeadSlice.zero) ∧
    (∀ g : Nat, g < 1023 → x.rstate = .rehash → (∀ j, j < g → r.migrated.getLsbD j = true) → r.migrated.getLsbD g = false →
      ∃ u, exec (.rehashSet v) s = .next u ∧ SameMemory s u ∧ u.cores = s.cores ∧
        u.vale v = { x with resize := some { r with migrated := r.migrated ||| BitVec.ofNat 1024 (2 ^ g) } } ∧
        ∀ i : Fin 128, r.oldS.getLsbD i = true → ∀ y ∈ u.l2[i], homeSet y.line = g → homeSlice r.newS y.line = some i) ∧
    (∀ m rest, x.rstate = .channelMove → r.migr = m :: rest → migrHeld s m = true → exec (.migrationEntry v) s = .next s) ∧
    (∀ m key, x.rstate = .channelMove → r.migr = [m] → migrHeld s m = false → m.log2 = 12 → valeKey s v = some key → DramWfAt s →
      m.dst + 4096 ≤ m.pte ∨ m.pte + 8 ≤ m.dst →
      let e := ofBytes (dramRead s key m.pte 8)
      ∃ u, exec (.migrationEntry v) s = .next u ∧ (∀ i, i < 4096 → dramByte u key (m.dst + i) = dramByte s key (m.src + i)) ∧
        ofBytes (dramRead u key m.pte 8) % 2 ^ 39 = (e % 2 ^ 12 + m.dst) % 2 ^ 39 ∧
        (accessesLeft u v r.leaveCh = false → (u.vale v).rstate = .settle ∧ (u.vale v).channels = x.channels &&& ~~~ r.leaveCh) ∧
        (accessesLeft u v r.leaveCh = true → (u.vale v).rstate = .channelMove ∧ (u.vale v).channels = x.channels)) ∧
    (x.rstate = .settle → (∃ ch : Fin 512, r.transCh.getLsbD ch = true ∧ ((s.chan ch).fifo ≠ [] ∨ (s.chan ch).serving ≠ none)) →
      exec (.settleComplete v) s = .next s) ∧
    (x.rstate = .settle → (∀ ch : Fin 512, r.transCh.getLsbD ch = true → (s.chan ch).fifo = [] ∧ (s.chan ch).serving = none) →
      ∃ u, exec (.settleComplete v) s = .next u ∧ SameMemory s u ∧ (u.vale v).rstate = .stable ∧
      (u.vale v).result = 0 ∧
      (u.vale v).resize = none))

/-! ## Cores, the hub, the graph engine -/

/-- The core block (R299, R307, R309 to R312, R330): CAPTURE, DISCARD and ABORT ask a running task to stop, RESUME lets a stopped one
run, past a TRAP or BRK; where the state allows none, CAPTURE and RESUME answer BUSY or EMPTY, and DISCARD EMPTY; the capture writes its
image at CTX_ADDR; a discarded task leaves its core; the last task of an aborted graph ends it; soft errors are counted, marked, though
not before an access that does not fail has consumed the word, and, for a basin, answered by another replica, one of its record's own
first.
Model's choices: log 1, 8, 21, 24, 38, 56. -/
def Obligations.CoreCommands : Prop := ∀ s (c : Fin 256),
  let k := s.core c
  (coreLocked s c = true → exec (.capture c) s = .next (s.setCore c { k with result := 1 })) ∧
  (coreState s c = 0 → coreLocked s c = false → exec (.capture c) s = .next (s.setCore c { k with result := 4 }) ∧
    exec (.resume c) s = .next (s.setCore c { k with result := 4 }) ∧
    exec (.discard c) s = .next (s.setCore c { k with result := 4 })) ∧
  (coreState s c = 3 → coreLocked s c = false → exec (.capture c) s = .next (s.setCore c { k with result := 2 }) ∧
    exec (.resume c) s = .next (s.setCore c { k with result := 2 }) ∧
    exec (.discard c) s = .next (s.setCore c { k with result := 4 })) ∧
  (coreState s c = 1 → k.run = .running →
    (coreLocked s c = false → exec (.capture c) s = .next (s.setCore c { k with run := .stopping, stop := some .capture })) ∧
    exec (.discard c) s = .next (s.setCore c { k with run := .stopping, stop := some .discard }) ∧
    exec (.resume c) s = .next (s.setCore c { k with result := 2 }) ∧
    (∀ t y, k.task = some t → (s.vale t.vale).graph t.graph = some y → ∃ u, exec (.abort c) s = .next u ∧ SameMemory s u ∧
      (u.core c).run = .stopping ∧ (u.core c).stop = some .abort ∧
      (u.vale t.vale).graph t.graph = some { y with aborted := true })) ∧
  (coreState s c = 2 ∨ coreState s c = 4 → exec (.resume c) s = .next (s.setCore c { k with
    run := .running, resumePast := false, result := 0
    lane := { k.lane with stopped := k.laneFault.isSome || k.poisoned.isSome }
    ls := { k.ls with pc := if k.resumePast then k.ls.epc + 4 else k.ls.pc } })) ∧
  (∀ t off, k.stop = some .capture → k.task = some t → captureReady k = true → s.mgmt.fw.wf = true →
    k.ctxAddr.toNat = 0x00FF000000000000 + off → off + (captureImage k t).length ≤ 2 ^ 26 →
    ∃ u, exec (.captureComplete c) s = .next u ∧ (u.core c).run = .captured ∧ (u.core c).stop = none ∧
      (u.core c).ctxValid = true ∧ (u.core c).result = 0 ∧
      ∀ i, i < (captureImage k t).length → memGet u.mgmt.fw (off + i) = (captureImage k t).getD i 0) ∧
  (∀ t y, k.stop = some .discard → k.task = some t → discardReady k = true → k.isSealed = false →
    inTransit s c = false → (s.vale t.vale).graph t.graph = some y → y.aborted = false →
    ∃ u e, exec (.discardProceed c) s = .next u ∧ (u.core c).task = none ∧ (u.core c).run = .idle ∧ (u.core c).result = 0 ∧
      e ∈ (u.vale t.vale).fifos[3] ∧ e.graph = t.graph ∧ e.node = t.node ∧ e.again = some { inst := t.inst, snap := k.snap }) ∧
  (∀ (v : Fin 16) y, (s.vale v).graph y.num = some y → y.aborted = true → graphRuns s v y.num = false →
    ∃ u, exec (.graphAbortComplete v y.num) s = .next u ∧ (u.vale v).graph y.num = none ∧
      ∀ z ∈ (s.vale v).graphs, z.num ≠ y.num → z ∈ (u.vale v).graphs) ∧
  (∀ agent : Fin 4, k.corrected ≠ BitVec.allOnes 32 → exec (.correctedError c agent) s = .next (s.setCore c
    { k with corrected := k.corrected + 1, mcLast := BitVec.ofNat 9 (352 + 8 * agent.val) })) ∧
  (∀ w n, w = .dram n ∨ w = .scratch c n ∨ w = .firmware n → w ∉ s.poison →
    let struck : State := { s with poison := w :: s.poison }
    (someFailsSure struck = false → exec (.uncorrectableError w) s = .next struck) ∧
    (someFailsSure struck = true → someFailsSure s = false → exec (.uncorrectableError w) s = .next s)) ∧
  ∀ (b o : Fin 32) t a rest, k.task = some t → k.engines[2].active = a :: rest → k.basins[b].holder = [a.num] →
    k.basins[b].st = .valid → a.r.op = 0x11 → a.ready = false → a.retried = false → a.tile = none →
    (∀ y : Fin 32, k.basins[y].unfilled = false) →
    (∀ y : Fin 32, k.basins[y].st ≠ .stale) →
    let mine (y : Fin 32) : Prop := a.num ∈ k.basins[y].holder
    let other (y : Fin 32) : Prop := y ≠ b ∧ k.basins[y].st = .valid ∧ k.basins[y].asid = k.basins[b].asid ∧
      k.basins[y].hdr = k.basins[b].hdr ∧ k.basins[y].slice = k.basins[b].slice
    other o → ((mine o ∧ ∀ y, other y → mine y → o ≤ y) ∨ ((∀ y, other y → ¬ mine y) ∧ ∀ y, other y → o ≤ y)) →
    ∃ u, exec (.basinParityError c b) s = .next u ∧ SameMemory s u ∧ (u.core c).mcLast = 376 ∧ (u.core c).basins[b].st = .filling ∧
      (u.core c).basins[b].data = k.basins[o].data ∧ (u.core c).basins[b].holder = [a.num]

/-- The hub (R214, R294, R295, R323, R331, R332): TEARDOWN and its end, gating and waking, power, which lowers LIMIT
while it is above WATTS, and the activates that are delayed.
Model's choices: log 1, 40, 41, 22. -/
def Obligations.HubCommands : Prop := ∀ s (v : Fin 16) (c : Fin 256) (i : Fin 128) (data : Word),
  let x := s.vale v
  let h := s.hub
  (x.iface.phase = .locked ∨ x.iface.phase = .run →
    exec (.teardown v) s = .next { s with hub := { h with result := 1 } }) ∧
  (x.iface.phase = .unlocked → x.rstate ≠ .stable ∨ h.teardown ≠ none →
    exec (.teardown v) s = .next { s with hub := { h with result := 2 } }) ∧
  (x.iface.phase = .unlocked → x.rstate = .stable → h.teardown = none → ∃ u, exec (.teardown v) s = .next u ∧ SameMemory s u ∧
    u.hub = { h with result := 0, teardown := some v } ∧ (u.vale v).graphs = []) ∧
  (h.teardown = some v → valeBusy s v = false → x.rstate = .stable → ∃ u, exec .teardownComplete s = .next u ∧ u.hub.teardown = none ∧
    u.vale v = { Vale.zero with iface := x.iface, commands := x.commands } ∧
    (x.ownsAny = true → u.sec.slots[x.key.toFin] = none) ∧
    ∀ d : Fin 256, x.cores.getLsbD d = true → (u.core d).scratch = [] ∧ (u.core d).ls = LeadSlice.zero) ∧
  (data.toNat < 2 ^ 32 → (s.core c).task = none → ∃ u, exec (.gateBanksWrite c data) s = .next u ∧
    u.hub.gateBanks = h.gateBanks.set c (data.extractLsb' 0 32) ∧ u.hub.offBanks[c] = data.extractLsb' 0 32 ∧
    ∀ b : Fin 32, h.offBanks[c].getLsbD b = true → data.getLsbD b = false → (u.hub.wakingBanks[c]).getLsbD b = true) ∧
  (data.toNat < 2 ^ 16 → ∃ u, exec (.gateWaysWrite i data) s = .next u ∧ SameMemory s u ∧
    u.hub.gateWays = h.gateWays.set i (data.extractLsb' 0 16) ∧
    ∀ w : Fin 16, (h.gateWays[i]).getLsbD w = true → data.getLsbD w = false → (u.hub.wakingWays[i]).getLsbD w = true) ∧
  (∀ b : Fin 32, ∃ u, exec (.wakeEnd (.bank c b)) s = .next u ∧ SameMemory s u ∧ (u.hub.wakingBanks[c]).getLsbD b = false ∧
    ∀ d : Fin 32, d ≠ b → (u.hub.wakingBanks[c]).getLsbD d = (h.wakingBanks[c]).getLsbD d) ∧
  (∀ power vdd, h.pwrLimit < power → 360 ≤ vdd.toNat → vdd ≤ h.vdd → vdd.toNat ≤ 550 →
    ∃ u, exec (.powerLimiting power vdd) s = .next u ∧ SameMemory s u ∧
      u.hub = { h with power := power, limiting := true, vdd := vdd } ∧
      ∀ k : Fin 8, (u.hbm[k]).limit ≠ 0 ∧ (1 < (s.hbm[k]).written → (u.hbm[k]).limit < (s.hbm[k]).written)) ∧
  (∀ power vdd, power ≤ h.pwrLimit → 360 ≤ vdd.toNat → vdd.toNat ≤ 550 →
    ∃ u, exec (.powerLimiting power vdd) s = .next u ∧ SameMemory s u ∧
      u.hub = { h with power := power, limiting := false, vdd := vdd } ∧
      ∀ k : Fin 8, (u.hbm[k]).limit = (s.hbm[k]).written) ∧
  ∀ k : Fin 8, ((s.hbm[k]).limit = 0 ∨ (s.hbm[k]).count < (s.hbm[k]).limit → exec (.activateDelay k) s = .next s) ∧
    ((s.hbm[k]).limit ≠ 0 → (s.hbm[k]).limit ≤ (s.hbm[k]).count → (s.hbm[k]).delayed ≠ BitVec.allOnes 32 →
      exec (.activateDelay k) s = .next { s with hbm := s.hbm.set k { s.hbm[k] with delayed := (s.hbm[k]).delayed + 1 } })

/-- The loader and the graph engine (R15 to R20, R27, R47, R51 to R54, R198, R224): the commands that pass their checks and their
answers, a LOAD when the loader serves its vale, which drops every cached translation of the pages that it denies and then reads; a
predicate that is nonzero queues its node, dispatch starts the chosen core at the image's entry with its registers, the shadow and the
ages. A read that reaches a bank that a copy channel holds makes its command wait.
Model's choices: log 1, 15, 19, 31, 44, 60. -/
def Obligations.LoaderAndGraphs : Prop := ∀ s (v : Fin 16) (m : Command),
  let x := s.vale v
  let q := popCommand s v
  let answered (u q : State) (a : Word) (cmd status : Nat) : Prop := u = respond q v a m.tag cmd status 0 0
  (nextCommand s = some (v, m) →
    (m.cmd = 2 → arbitrates s (asksLoader s) s.hub.lastLoad v = false → exec .load s = .next s) ∧
    (m.cmd = 2 → arbitrates s (asksLoader s) s.hub.lastLoad v = true →
      let q := popCommand { s with hub := { s.hub with lastLoad := v } } v
      let base := (m.word 1).toNat
      let p := shootRange q v base 4096
      let len := headerLength p v (m.word 1)
      let r := shootRange p v base len
      (∀ e ∈ r.pages, e.asid = x.asid → e.page * 4096 + 4096 ≤ base ∨ base + max len 4096 ≤ e.page * 4096) ∧
      (loadRefused q v = true → ∃ u, exec .load s = .next u ∧ answered u q (m.word 2) 2 10) ∧
      (loadRefused q v = false →
        (rangeHeld r v base (max len 4096) .read = true → exec .load s = .next s) ∧
        (rangeHeld r v base (max len 4096) .read = false →
          (∀ status, checkImage r v (m.word 1) = .error status → ∃ u, exec .load s = .next u ∧
            answered u (noteRange r v base (max len 4096)) (m.word 2) 2 status) ∧
          ∀ img, checkImage r v (m.word 1) = .ok img →
            (writesInFlight r v img.base.toNat img.len = true → exec .load s = .next s) ∧
            (writesInFlight r v img.base.toNat img.len = false → ∃ u, exec .load s = .next u ∧ u.pages = r.pages ∧
              (u.vale v).load = some { resp := m.word 2, tag := m.tag, image := img } ∧
              (u.vale v).commands = x.commands.tail)))) ∧
    (m.cmd = 3 → loadRefused q v = false → (∃ i ∈ x.images, i.base = m.word 1) → ∃ u, exec .unload s = .next u ∧
      answered u (q.setVale v ((q.vale v).leaveImage (m.word 1))) (m.word 2) 3 0) ∧
    (m.cmd = 1 → launchRefused q v = false →
      let total := bits (m.word 0).toNat 31 16
      let len := (m.word 3).toNat % 2 ^ 32
      let reads := launchReads q v (m.word 1) (m.word 2) total len
      let n := reads.foldl (fun s r => if topByte r.1 = 0 then noteRange s v r.1.toNat r.2 else s) q
      engineFull (q.vale v) total = false → total ≤ 16384 →
      ((∃ r ∈ reads, graphHeld q v r.1 r.2 = true) → exec .launch s = .next s) ∧
      ∀ ns, (∀ r ∈ reads, graphHeld q v r.1 r.2 = false) → checkGraph n v (m.word 1) (m.word 2) total len = .ok ns →
        ∃ u, exec .launch s = .next u ∧ answered u (acceptGraph n v ns (m.word 4) (m.word 5)) (m.word 6) 1 0 ∧
          ∃ y ∈ (u.vale v).graphs, y.num = s.hub.graphSeq + 1 ∧ y.nodes.length = ns.length)) ∧
  (∀ j ds, s.turn = .graph v → x.load = some j → rangeHeld s v j.image.base.toNat j.image.len .read = false →
    let p := noteRange (s.setVale v { x with load := none }) v j.image.base.toNat j.image.len
    imageDigests p v j.image = some ds → signaturesOk p v j.image ds = true → handlersOk p v j.image = true →
    ∃ u, exec .loadComplete s = .next u ∧ (u.vale v).images = x.images ++ [j.image] ∧ (u.vale v).load = none ∧
      (u.vale v).exts = x.exts + BitVec.ofNat 32 ds.length ∧
      ∀ d, ds = [d] → (u.vale v).meas = BitVec.ofNat 384 (ofBytes (sha384 (toBytes 48 x.meas.toNat ++ d)))) ∧
  (∀ j, s.turn = .graph v → x.load = some j → rangeHeld s v j.image.base.toNat j.image.len .read = true →
    exec .loadComplete s = .next s) ∧
  (∀ base, (∃ i ∈ x.images, i.base = base ∧ i.leaving = true) → imageUsed s v base = false →
    ∃ u, exec (.imageUnloadComplete v base) s = .next u ∧ SameMemory s u ∧ ∀ i, i ∈ (u.vale v).images ↔ i ∈ x.images ∧
      i.base ≠ base) ∧
  (∀ g n nd bs, s.turn = .graph v → x.preds = [(g, n)] → x.node g n = some nd → graphHeld s v nd.predAt 4 = false →
    graphRead (noteRange s v nd.predAt.toNat 4) v nd.predAt 4 = some bs → ofBytes bs ≠ 0 → ∃ u, exec .predicateReadComplete s = .next u ∧
      SameMemory s u ∧ (u.vale v).preds = [] ∧
      (u.vale v).fifos[nd.prio] = x.fifos[nd.prio] ++ [{ graph := g, node := n, next := 0, since := s.now.toNat, again := none }]) ∧
  (∀ (f : Fin 4) e nd img c, s.turn = .graph v → keyed s v = true → scrubbing s v = false → headEntry x = some (f, e) →
    e.again = none → x.node e.graph e.node = some nd → x.images.find? (fun i => decide (i.base = nd.image)) = some img →
    chooseCore s v nd.tiles img.scratch = some c →
    ∃ u t, exec .dispatch s = .next u ∧ (u.core c).task = some t ∧ (u.core c).run = .running ∧ t.vale = v ∧
      t.inst = e.next ∧ t.size = img.scratch ∧ t.alloc ∈ allocPlaces s c img.scratch ∧ (u.core c).ls.pc = entryAddress img ∧
      (u.core c).ls.n[(0 : Fin 16)] = .val nd.args ∧ (u.core c).ls.n[(1 : Fin 16)] = .val (BitVec.ofNat 64 e.next) ∧
      (u.core c).ls.n[(3 : Fin 16)] = .val (0x0200000000000000 + BitVec.ofNat 64 t.alloc) ∧
      (u.core c).ls.belt = Vector.replicate 16 (.val 0) ∧ (u.vale v).rot.toNat = (c.val + 1) % 256) ∧
  (∀ (c : Fin 256) g rest, x.lag = g :: rest → g.core = c →
    let tags := (x.shadow[c].filter fun t => !decide (t.basin = g.basin)) ++ g.tag.toList
    exec (.shadowUpdate v c) s = .next (s.setVale v { x with lag := rest, shadow := x.shadow.set c tags })) ∧
  ∀ (f : Fin 3) e rest, x.fifos[f.castSucc] = e :: rest → 100000 < s.now.toNat - e.since →
    let up := x.fifos[f.succ] ++ [{ e with since := s.now.toNat }]
    exec (.fifoAgePromotion v f) s = .next (s.setVale v { x with fifos := (x.fifos.set f.castSucc rest).set f.succ up })

/-! ## The machine as a whole -/

/-- A step runs the decoded instruction: when nothing is scheduled, the agent in turn does not wait and its fetch waits for no bank
(R224), the word at its fetch address is decoded and step is exec of it, after which time has passed (log 1, log 2 name the agenda, the
turn and the elapsed time; log 18 the activates of that time). Before it the fetch has passed the word's line through L1 into the
slice's fetch buffer (R69, log 61), and a lane word, once fetched, is held until it issues, in a replay until that ends (R70, R138):
memory and everything else of the slice are as before.
Model's choices: log 1, 2, 18, 44, 61. -/
def Obligations.StepRunsDecoded : Prop := ∀ s i w,
  s.agenda = [] → s.stalled = false →
  let runs (s' : State) : Prop := ∀ t, exec i s' = .next t →
    step s = .next { t with
      now := t.now + BitVec.ofNat 64 (Config.elapsedNs s.ticks), ticks := t.ticks + 1, hbm := passActivates s.ticks t.hbm }
  (s.turn = .mgmt → machineFetch s s.mgmt.ls.pc = .ok w → decodeLead (declaredIds s .mgmt) (BitVec.ofNat 32 w) = .ok i →
    runs s) ∧
  (∀ (c : Fin 256) v, taskVale s c = some v → let k := s.core c
    (s.turn = .lead c → canIssue s (.core c) = true → fetchHeld s c false k.ls.pc = false →
      taskFetch s k k.ls.buf v 1 0 4 k.ls.pc = .ok w → decodeLead (declaredIds s (.core c)) (BitVec.ofNat 32 w) = .ok i →
      let f := noteLeadFetch s c
      runs f ∧ SameMemory s f ∧ { (f.core c).ls with buf := k.ls.buf } = k.ls ∧ (f.core c).lane = k.lane) ∧
    (s.turn = .lane c → laneActive k = true → fetchHeld s c true k.lane.pc = false → decodeLane (BitVec.ofNat 64 w) = .ok i →
      (k.lane.held k.lane.pc = some (BitVec.ofNat 64 w) → runs s) ∧
      (taskFetch s k k.lane.buf v 2 1 8 k.lane.pc = .ok w → k.lane.held k.lane.pc = none →
        let f := noteFetch s c
        let kept := if k.lane.levels = [] then [] else k.lane.body
        runs f ∧ SameMemory s f ∧ (f.core c).ls = k.ls ∧
          { (f.core c).lane with buf := k.lane.buf } = { k.lane with body := (k.lane.pc, BitVec.ofNat 64 w) :: kept }))) ∧
  ∀ ch r sv run, s.turn = .bank ch r → runInTurn s = some (ch, r, sv, run) → decodeHandler (handlerWord sv run) = .ok i → runs s

/-- Every step keeps every memory of the machine in canonical form: DRAM with its key tags, the firmware store, every scratchpad.
Model's choices: log 1. -/
def Obligations.StepKeepsMemories : Prop := ∀ s t, MemoriesWf s → step s = .next t → MemoriesWf t

/-- What reset leaves (R101, R309, R343): machine mode at the first word of firmware memory, TIME 0, every core idle without a task,
every interface UNLOCKED, every vale without resources, every key slot EMPTY, every port DOWN, and memories in canonical form.
MANAGEMENT_RESET restarts the management core and DEVICE_RESET the device so.
Model's choices: log 1, 4, 37. -/
def Obligations.ResetState : Prop :=
  let fresh (t : State) : Prop := t.mgmt.ls.pc = 0x00FF000000000000 ∧ t.mgmt.ls.machine = true ∧ t.turn = .mgmt
  let all (t : State) : Prop := fresh t ∧ t.now = 0 ∧
    (∀ c : Fin 256, (t.core c).run = .idle ∧ (t.core c).task = none) ∧
    (∀ v : Fin 16, (t.vale v).iface.phase = .unlocked ∧ (t.vale v).cores = 0 ∧ (t.vale v).slices = 0 ∧ (t.vale v).channels = 0 ∧
      (t.vale v).lease = 2048) ∧
    (∀ k : Fin 64, t.sec.slots[k] = none) ∧ ∀ p : Fin 18, (t.ports[p]).phase = .down
  all State.reset ∧ MemoriesWf State.reset ∧
  (∀ s, ∃ t, exec .managementReset s = .next t ∧ fresh t ∧ t.dram = s.dram ∧ t.cores = s.cores ∧ t.vales = s.vales ∧
    t.mgmt.fw = s.mgmt.fw) ∧
  ∀ s, ∃ t, exec .deviceReset s = .next t ∧ all t ∧ t.mgmt.fw = s.mgmt.fw
end

