-- ==== Sys2Proof/Laws/Encoding.lean ====
section
/-! SUPPORT. Laws/Encoding.lean: every field of every word format of the encoder reads back (R76 to R87, R286). -/
namespace Sys2Proof.Laws

/-- A field of a joined word that lies above its low part. -/
theorem extract_hi {m n : Nat} (x : BitVec m) (y : BitVec n) (st len : Nat) (h : n ≤ st) :
    (x ++ y).extractLsb' st len = x.extractLsb' (st - n) len := by
  apply BitVec.eq_of_getLsbD_eq
  intro i hi
  have : ¬ st + i < n := by omega
  simp [BitVec.getLsbD_append, hi, this]
  congr 1; omega

/-- A field of a joined word that lies within its low part. -/
theorem extract_lo {m n : Nat} (x : BitVec m) (y : BitVec n) (st len : Nat) (h : st + len ≤ n) :
    (x ++ y).extractLsb' st len = y.extractLsb' st len := by
  apply BitVec.eq_of_getLsbD_eq
  intro i hi
  simp [BitVec.getLsbD_append, hi]
  intro h'
  omega

/-- A bit is the field of width 1 at its place. -/
theorem getLsbD_of_field {n : Nat} (w : BitVec n) (i : Nat) (b : Bool) (h : w.extractLsb' i 1 = BitVec.ofBool b) :
    w.getLsbD i = b := by
  have h0 := congrArg (fun z : BitVec 1 => z.getLsbD 0) h
  simpa using h0

/-! Formats LR and LS. -/

theorem wordLR_op (op : Nat) (d a b f : BitVec 5) (x : BitVec 6) :
    BitVec.extractLsb' (n := 32) 26 6 (wordLR op d a b f x) = BitVec.ofNat 6 op := by
  show BitVec.extractLsb' (n := 6 + 5 + 5 + 5 + 5 + 6) 26 6 (BitVec.ofNat 6 op ++ d ++ a ++ b ++ f ++ x) = _
  rw [extract_hi _ _ _ _ (by decide), extract_hi _ _ _ _ (by decide), extract_hi _ _ _ _ (by decide), extract_hi _ _ _ _ (by decide), extract_hi _ _ _ _ (by decide)]
  exact BitVec.extractLsb'_eq_self

theorem wordLR_d (op : Nat) (d a b f : BitVec 5) (x : BitVec 6) :
    BitVec.extractLsb' (n := 32) 21 5 (wordLR op d a b f x) = d := by
  show BitVec.extractLsb' (n := 6 + 5 + 5 + 5 + 5 + 6) 21 5 (BitVec.ofNat 6 op ++ d ++ a ++ b ++ f ++ x) = _
  rw [extract_hi _ _ _ _ (by decide), extract_hi _ _ _ _ (by decide), extract_hi _ _ _ _ (by decide), extract_hi _ _ _ _ (by decide), extract_lo _ _ _ _ (by decide)]
  exact BitVec.extractLsb'_eq_self

theorem wordLR_a (op : Nat) (d a b f : BitVec 5) (x : BitVec 6) :
    BitVec.extractLsb' (n := 32) 16 5 (wordLR op d a b f x) = a := by
  show BitVec.extractLsb' (n := 6 + 5 + 5 + 5 + 5 + 6) 16 5 (BitVec.ofNat 6 op ++ d ++ a ++ b ++ f ++ x) = _
  rw [extract_hi _ _ _ _ (by decide), extract_hi _ _ _ _ (by decide), extract_hi _ _ _ _ (by decide), extract_lo _ _ _ _ (by decide)]
  exact BitVec.extractLsb'_eq_self

theorem wordLR_b (op : Nat) (d a b f : BitVec 5) (x : BitVec 6) :
    BitVec.extractLsb' (n := 32) 11 5 (wordLR op d a b f x) = b := by
  show BitVec.extractLsb' (n := 6 + 5 + 5 + 5 + 5 + 6) 11 5 (BitVec.ofNat 6 op ++ d ++ a ++ b ++ f ++ x) = _
  rw [extract_hi _ _ _ _ (by decide), extract_hi _ _ _ _ (by decide), extract_lo _ _ _ _ (by decide)]
  exact BitVec.extractLsb'_eq_self

theorem wordLR_f (op : Nat) (d a b f : BitVec 5) (x : BitVec 6) :
    BitVec.extractLsb' (n := 32) 6 5 (wordLR op d a b f x) = f := by
  show BitVec.extractLsb' (n := 6 + 5 + 5 + 5 + 5 + 6) 6 5 (BitVec.ofNat 6 op ++ d ++ a ++ b ++ f ++ x) = _
  rw [extract_hi _ _ _ _ (by decide), extract_lo _ _ _ _ (by decide)]
  exact BitVec.extractLsb'_eq_self

theorem wordLR_x (op : Nat) (d a b f : BitVec 5) (x : BitVec 6) :
    BitVec.extractLsb' (n := 32) 0 6 (wordLR op d a b f x) = x := by
  show BitVec.extractLsb' (n := 6 + 5 + 5 + 5 + 5 + 6) 0 6 (BitVec.ofNat 6 op ++ d ++ a ++ b ++ f ++ x) = _
  rw [extract_lo _ _ _ _ (by decide)]
  exact BitVec.extractLsb'_eq_self

/-! Format LI. -/

theorem wordLI_op (op : Nat) (d a : BitVec 5) (imm : BitVec 16) :
    BitVec.extractLsb' (n := 32) 26 6 (wordLI op d a imm) = BitVec.ofNat 6 op := by
  show BitVec.extractLsb' (n := 6 + 5 + 5 + 16) 26 6 (BitVec.ofNat 6 op ++ d ++ a ++ imm) = _
  rw [extract_hi _ _ _ _ (by decide), extract_hi _ _ _ _ (by decide), extract_hi _ _ _ _ (by decide)]
  exact BitVec.extractLsb'_eq_self

theorem wordLI_d (op : Nat) (d a : BitVec 5) (imm : BitVec 16) :
    BitVec.extractLsb' (n := 32) 21 5 (wordLI op d a imm) = d := by
  show BitVec.extractLsb' (n := 6 + 5 + 5 + 16) 21 5 (BitVec.ofNat 6 op ++ d ++ a ++ imm) = _
  rw [extract_hi _ _ _ _ (by decide), extract_hi _ _ _ _ (by decide), extract_lo _ _ _ _ (by decide)]
  exact BitVec.extractLsb'_eq_self

theorem wordLI_a (op : Nat) (d a : BitVec 5) (imm : BitVec 16) :
    BitVec.extractLsb' (n := 32) 16 5 (wordLI op d a imm) = a := by
  show BitVec.extractLsb' (n := 6 + 5 + 5 + 16) 16 5 (BitVec.ofNat 6 op ++ d ++ a ++ imm) = _
  rw [extract_hi _ _ _ _ (by decide), extract_lo _ _ _ _ (by decide)]
  exact BitVec.extractLsb'_eq_self

theorem wordLI_imm (op : Nat) (d a : BitVec 5) (imm : BitVec 16) :
    BitVec.extractLsb' (n := 32) 0 16 (wordLI op d a imm) = imm := by
  show BitVec.extractLsb' (n := 6 + 5 + 5 + 16) 0 16 (BitVec.ofNat 6 op ++ d ++ a ++ imm) = _
  rw [extract_lo _ _ _ _ (by decide)]
  exact BitVec.extractLsb'_eq_self

/-! Format LB. -/

theorem wordLB_op (op : Nat) (a : BitVec 5) (off : BitVec 21) :
    BitVec.extractLsb' (n := 32) 26 6 (wordLB op a off) = BitVec.ofNat 6 op := by
  show BitVec.extractLsb' (n := 6 + 5 + 21) 26 6 (BitVec.ofNat 6 op ++ a ++ off) = _
  rw [extract_hi _ _ _ _ (by decide), extract_hi _ _ _ _ (by decide)]
  exact BitVec.extractLsb'_eq_self

theorem wordLB_a (op : Nat) (a : BitVec 5) (off : BitVec 21) :
    BitVec.extractLsb' (n := 32) 21 5 (wordLB op a off) = a := by
  show BitVec.extractLsb' (n := 6 + 5 + 21) 21 5 (BitVec.ofNat 6 op ++ a ++ off) = _
  rw [extract_hi _ _ _ _ (by decide), extract_lo _ _ _ _ (by decide)]
  exact BitVec.extractLsb'_eq_self

theorem wordLB_off (op : Nat) (a : BitVec 5) (off : BitVec 21) :
    BitVec.extractLsb' (n := 32) 0 21 (wordLB op a off) = off := by
  show BitVec.extractLsb' (n := 6 + 5 + 21) 0 21 (BitVec.ofNat 6 op ++ a ++ off) = _
  rw [extract_lo _ _ _ _ (by decide)]
  exact BitVec.extractLsb'_eq_self

/-! Format LM. -/

theorem wordLM_op (op : Nat) (d base : BitVec 5) (rq : BitVec 2) (size : BitVec 3) (span : BitVec 4) (off : BitVec 7) :
    BitVec.extractLsb' (n := 32) 26 6 (wordLM op d base rq size span off) = BitVec.ofNat 6 op := by
  show BitVec.extractLsb' (n := 6 + 5 + 5 + 2 + 3 + 4 + 7) 26 6 (BitVec.ofNat 6 op ++ d ++ base ++ rq ++ size ++ span ++ off) = _
  rw [extract_hi _ _ _ _ (by decide), extract_hi _ _ _ _ (by decide), extract_hi _ _ _ _ (by decide), extract_hi _ _ _ _ (by decide), extract_hi _ _ _ _ (by decide), extract_hi _ _ _ _ (by decide)]
  exact BitVec.extractLsb'_eq_self

theorem wordLM_d (op : Nat) (d base : BitVec 5) (rq : BitVec 2) (size : BitVec 3) (span : BitVec 4) (off : BitVec 7) :
    BitVec.extractLsb' (n := 32) 21 5 (wordLM op d base rq size span off) = d := by
  show BitVec.extractLsb' (n := 6 + 5 + 5 + 2 + 3 + 4 + 7) 21 5 (BitVec.ofNat 6 op ++ d ++ base ++ rq ++ size ++ span ++ off) = _
  rw [extract_hi _ _ _ _ (by decide), extract_hi _ _ _ _ (by decide), extract_hi _ _ _ _ (by decide), extract_hi _ _ _ _ (by decide), extract_hi _ _ _ _ (by decide), extract_lo _ _ _ _ (by decide)]
  exact BitVec.extractLsb'_eq_self

theorem wordLM_base (op : Nat) (d base : BitVec 5) (rq : BitVec 2) (size : BitVec 3) (span : BitVec 4) (off : BitVec 7) :
    BitVec.extractLsb' (n := 32) 16 5 (wordLM op d base rq size span off) = base := by
  show BitVec.extractLsb' (n := 6 + 5 + 5 + 2 + 3 + 4 + 7) 16 5 (BitVec.ofNat 6 op ++ d ++ base ++ rq ++ size ++ span ++ off) = _
  rw [extract_hi _ _ _ _ (by decide), extract_hi _ _ _ _ (by decide), extract_hi _ _ _ _ (by decide), extract_hi _ _ _ _ (by decide), extract_lo _ _ _ _ (by decide)]
  exact BitVec.extractLsb'_eq_self

theorem wordLM_rq (op : Nat) (d base : BitVec 5) (rq : BitVec 2) (size : BitVec 3) (span : BitVec 4) (off : BitVec 7) :
    BitVec.extractLsb' (n := 32) 14 2 (wordLM op d base rq size span off) = rq := by
  show BitVec.extractLsb' (n := 6 + 5 + 5 + 2 + 3 + 4 + 7) 14 2 (BitVec.ofNat 6 op ++ d ++ base ++ rq ++ size ++ span ++ off) = _
  rw [extract_hi _ _ _ _ (by decide), extract_hi _ _ _ _ (by decide), extract_hi _ _ _ _ (by decide), extract_lo _ _ _ _ (by decide)]
  exact BitVec.extractLsb'_eq_self

theorem wordLM_size (op : Nat) (d base : BitVec 5) (rq : BitVec 2) (size : BitVec 3) (span : BitVec 4) (off : BitVec 7) :
    BitVec.extractLsb' (n := 32) 11 3 (wordLM op d base rq size span off) = size := by
  show BitVec.extractLsb' (n := 6 + 5 + 5 + 2 + 3 + 4 + 7) 11 3 (BitVec.ofNat 6 op ++ d ++ base ++ rq ++ size ++ span ++ off) = _
  rw [extract_hi _ _ _ _ (by decide), extract_hi _ _ _ _ (by decide), extract_lo _ _ _ _ (by decide)]
  exact BitVec.extractLsb'_eq_self

theorem wordLM_span (op : Nat) (d base : BitVec 5) (rq : BitVec 2) (size : BitVec 3) (span : BitVec 4) (off : BitVec 7) :
    BitVec.extractLsb' (n := 32) 7 4 (wordLM op d base rq size span off) = span := by
  show BitVec.extractLsb' (n := 6 + 5 + 5 + 2 + 3 + 4 + 7) 7 4 (BitVec.ofNat 6 op ++ d ++ base ++ rq ++ size ++ span ++ off) = _
  rw [extract_hi _ _ _ _ (by decide), extract_lo _ _ _ _ (by decide)]
  exact BitVec.extractLsb'_eq_self

theorem wordLM_off (op : Nat) (d base : BitVec 5) (rq : BitVec 2) (size : BitVec 3) (span : BitVec 4) (off : BitVec 7) :
    BitVec.extractLsb' (n := 32) 0 7 (wordLM op d base rq size span off) = off := by
  show BitVec.extractLsb' (n := 6 + 5 + 5 + 2 + 3 + 4 + 7) 0 7 (BitVec.ofNat 6 op ++ d ++ base ++ rq ++ size ++ span ++ off) = _
  rw [extract_lo _ _ _ _ (by decide)]
  exact BitVec.extractLsb'_eq_self

/-! The scalar float group. -/

theorem wordFloat_op (d a b x : BitVec 5) (rnd : BitVec 2) (p : Bool) (sub : Nat) :
    BitVec.extractLsb' (n := 32) 26 6 (wordFloat d a b x rnd p sub) = BitVec.ofNat 6 4 := by
  show BitVec.extractLsb' (n := 6 + 5 + 5 + 5 + 5 + 2 + 1 + 3) 26 6 (BitVec.ofNat 6 4 ++ d ++ a ++ b ++ x ++ rnd ++ BitVec.ofBool p ++ BitVec.ofNat 3 sub) = _
  rw [extract_hi _ _ _ _ (by decide), extract_hi _ _ _ _ (by decide), extract_hi _ _ _ _ (by decide), extract_hi _ _ _ _ (by decide), extract_hi _ _ _ _ (by decide), extract_hi _ _ _ _ (by decide), extract_hi _ _ _ _ (by decide)]
  exact BitVec.extractLsb'_eq_self

theorem wordFloat_d (d a b x : BitVec 5) (rnd : BitVec 2) (p : Bool) (sub : Nat) :
    BitVec.extractLsb' (n := 32) 21 5 (wordFloat d a b x rnd p sub) = d := by
  show BitVec.extractLsb' (n := 6 + 5 + 5 + 5 + 5 + 2 + 1 + 3) 21 5 (BitVec.ofNat 6 4 ++ d ++ a ++ b ++ x ++ rnd ++ BitVec.ofBool p ++ BitVec.ofNat 3 sub) = _
  rw [extract_hi _ _ _ _ (by decide), extract_hi _ _ _ _ (by decide), extract_hi _ _ _ _ (by decide), extract_hi _ _ _ _ (by decide), extract_hi _ _ _ _ (by decide), extract_hi _ _ _ _ (by decide), extract_lo _ _ _ _ (by decide)]
  exact BitVec.extractLsb'_eq_self

theorem wordFloat_a (d a b x : BitVec 5) (rnd : BitVec 2) (p : Bool) (sub : Nat) :
    BitVec.extractLsb' (n := 32) 16 5 (wordFloat d a b x rnd p sub) = a := by
  show BitVec.extractLsb' (n := 6 + 5 + 5 + 5 + 5 + 2 + 1 + 3) 16 5 (BitVec.ofNat 6 4 ++ d ++ a ++ b ++ x ++ rnd ++ BitVec.ofBool p ++ BitVec.ofNat 3 sub) = _
  rw [extract_hi _ _ _ _ (by decide), extract_hi _ _ _ _ (by decide), extract_hi _ _ _ _ (by decide), extract_hi _ _ _ _ (by decide), extract_hi _ _ _ _ (by decide), extract_lo _ _ _ _ (by decide)]
  exact BitVec.extractLsb'_eq_self

theorem wordFloat_b (d a b x : BitVec 5) (rnd : BitVec 2) (p : Bool) (sub : Nat) :
    BitVec.extractLsb' (n := 32) 11 5 (wordFloat d a b x rnd p sub) = b := by
  show BitVec.extractLsb' (n := 6 + 5 + 5 + 5 + 5 + 2 + 1 + 3) 11 5 (BitVec.ofNat 6 4 ++ d ++ a ++ b ++ x ++ rnd ++ BitVec.ofBool p ++ BitVec.ofNat 3 sub) = _
  rw [extract_hi _ _ _ _ (by decide), extract_hi _ _ _ _ (by decide), extract_hi _ _ _ _ (by decide), extract_hi _ _ _ _ (by decide), extract_lo _ _ _ _ (by decide)]
  exact BitVec.extractLsb'_eq_self

theorem wordFloat_x (d a b x : BitVec 5) (rnd : BitVec 2) (p : Bool) (sub : Nat) :
    BitVec.extractLsb' (n := 32) 6 5 (wordFloat d a b x rnd p sub) = x := by
  show BitVec.extractLsb' (n := 6 + 5 + 5 + 5 + 5 + 2 + 1 + 3) 6 5 (BitVec.ofNat 6 4 ++ d ++ a ++ b ++ x ++ rnd ++ BitVec.ofBool p ++ BitVec.ofNat 3 sub) = _
  rw [extract_hi _ _ _ _ (by decide), extract_hi _ _ _ _ (by decide), extract_hi _ _ _ _ (by decide), extract_lo _ _ _ _ (by decide)]
  exact BitVec.extractLsb'_eq_self

theorem wordFloat_rnd (d a b x : BitVec 5) (rnd : BitVec 2) (p : Bool) (sub : Nat) :
    BitVec.extractLsb' (n := 32) 4 2 (wordFloat d a b x rnd p sub) = rnd := by
  show BitVec.extractLsb' (n := 6 + 5 + 5 + 5 + 5 + 2 + 1 + 3) 4 2 (BitVec.ofNat 6 4 ++ d ++ a ++ b ++ x ++ rnd ++ BitVec.ofBool p ++ BitVec.ofNat 3 sub) = _
  rw [extract_hi _ _ _ _ (by decide), extract_hi _ _ _ _ (by decide), extract_lo _ _ _ _ (by decide)]
  exact BitVec.extractLsb'_eq_self

theorem wordFloat_p (d a b x : BitVec 5) (rnd : BitVec 2) (p : Bool) (sub : Nat) :
    BitVec.extractLsb' (n := 32) 3 1 (wordFloat d a b x rnd p sub) = BitVec.ofBool p := by
  show BitVec.extractLsb' (n := 6 + 5 + 5 + 5 + 5 + 2 + 1 + 3) 3 1 (BitVec.ofNat 6 4 ++ d ++ a ++ b ++ x ++ rnd ++ BitVec.ofBool p ++ BitVec.ofNat 3 sub) = _
  rw [extract_hi _ _ _ _ (by decide), extract_lo _ _ _ _ (by decide)]
  exact BitVec.extractLsb'_eq_self

theorem wordFloat_sub (d a b x : BitVec 5) (rnd : BitVec 2) (p : Bool) (sub : Nat) :
    BitVec.extractLsb' (n := 32) 0 3 (wordFloat d a b x rnd p sub) = BitVec.ofNat 3 sub := by
  show BitVec.extractLsb' (n := 6 + 5 + 5 + 5 + 5 + 2 + 1 + 3) 0 3 (BitVec.ofNat 6 4 ++ d ++ a ++ b ++ x ++ rnd ++ BitVec.ofBool p ++ BitVec.ofNat 3 sub) = _
  rw [extract_lo _ _ _ _ (by decide)]
  exact BitVec.extractLsb'_eq_self

/-! INS. -/

theorem wordIns_op (d a b : BitVec 5) (pos : BitVec 6) (len1 : BitVec 5) :
    BitVec.extractLsb' (n := 32) 26 6 (BitVec.ofNat 6 3 ++ d ++ a ++ b ++ pos ++ len1) = BitVec.ofNat 6 3 := by
  show BitVec.extractLsb' (n := 6 + 5 + 5 + 5 + 6 + 5) 26 6 (BitVec.ofNat 6 3 ++ d ++ a ++ b ++ pos ++ len1) = _
  rw [extract_hi _ _ _ _ (by decide), extract_hi _ _ _ _ (by decide), extract_hi _ _ _ _ (by decide), extract_hi _ _ _ _ (by decide), extract_hi _ _ _ _ (by decide)]
  exact BitVec.extractLsb'_eq_self

theorem wordIns_d (d a b : BitVec 5) (pos : BitVec 6) (len1 : BitVec 5) :
    BitVec.extractLsb' (n := 32) 21 5 (BitVec.ofNat 6 3 ++ d ++ a ++ b ++ pos ++ len1) = d := by
  show BitVec.extractLsb' (n := 6 + 5 + 5 + 5 + 6 + 5) 21 5 (BitVec.ofNat 6 3 ++ d ++ a ++ b ++ pos ++ len1) = _
  rw [extract_hi _ _ _ _ (by decide), extract_hi _ _ _ _ (by decide), extract_hi _ _ _ _ (by decide), extract_hi _ _ _ _ (by decide), extract_lo _ _ _ _ (by decide)]
  exact BitVec.extractLsb'_eq_self

theorem wordIns_a (d a b : BitVec 5) (pos : BitVec 6) (len1 : BitVec 5) :
    BitVec.extractLsb' (n := 32) 16 5 (BitVec.ofNat 6 3 ++ d ++ a ++ b ++ pos ++ len1) = a := by
  show BitVec.extractLsb' (n := 6 + 5 + 5 + 5 + 6 + 5) 16 5 (BitVec.ofNat 6 3 ++ d ++ a ++ b ++ pos ++ len1) = _
  rw [extract_hi _ _ _ _ (by decide), extract_hi _ _ _ _ (by decide), extract_hi _ _ _ _ (by decide), extract_lo _ _ _ _ (by decide)]
  exact BitVec.extractLsb'_eq_self

theorem wordIns_b (d a b : BitVec 5) (pos : BitVec 6) (len1 : BitVec 5) :
    BitVec.extractLsb' (n := 32) 11 5 (BitVec.ofNat 6 3 ++ d ++ a ++ b ++ pos ++ len1) = b := by
  show BitVec.extractLsb' (n := 6 + 5 + 5 + 5 + 6 + 5) 11 5 (BitVec.ofNat 6 3 ++ d ++ a ++ b ++ pos ++ len1) = _
  rw [extract_hi _ _ _ _ (by decide), extract_hi _ _ _ _ (by decide), extract_lo _ _ _ _ (by decide)]
  exact BitVec.extractLsb'_eq_self

theorem wordIns_pos (d a b : BitVec 5) (pos : BitVec 6) (len1 : BitVec 5) :
    BitVec.extractLsb' (n := 32) 5 6 (BitVec.ofNat 6 3 ++ d ++ a ++ b ++ pos ++ len1) = pos := by
  show BitVec.extractLsb' (n := 6 + 5 + 5 + 5 + 6 + 5) 5 6 (BitVec.ofNat 6 3 ++ d ++ a ++ b ++ pos ++ len1) = _
  rw [extract_hi _ _ _ _ (by decide), extract_lo _ _ _ _ (by decide)]
  exact BitVec.extractLsb'_eq_self

theorem wordIns_len1 (d a b : BitVec 5) (pos : BitVec 6) (len1 : BitVec 5) :
    BitVec.extractLsb' (n := 32) 0 5 (BitVec.ofNat 6 3 ++ d ++ a ++ b ++ pos ++ len1) = len1 := by
  show BitVec.extractLsb' (n := 6 + 5 + 5 + 5 + 6 + 5) 0 5 (BitVec.ofNat 6 3 ++ d ++ a ++ b ++ pos ++ len1) = _
  rw [extract_lo _ _ _ _ (by decide)]
  exact BitVec.extractLsb'_eq_self

/-! REGION. -/

theorem wordRegion_op (bfirst : BitVec 6) (bcount : BitVec 4) (live : BitVec 16) :
    BitVec.extractLsb' (n := 32) 26 6 (BitVec.ofNat 6 0x2E ++ bfirst ++ bcount ++ live) = BitVec.ofNat 6 0x2E := by
  show BitVec.extractLsb' (n := 6 + 6 + 4 + 16) 26 6 (BitVec.ofNat 6 0x2E ++ bfirst ++ bcount ++ live) = _
  rw [extract_hi _ _ _ _ (by decide), extract_hi _ _ _ _ (by decide), extract_hi _ _ _ _ (by decide)]
  exact BitVec.extractLsb'_eq_self

theorem wordRegion_bfirst (bfirst : BitVec 6) (bcount : BitVec 4) (live : BitVec 16) :
    BitVec.extractLsb' (n := 32) 20 6 (BitVec.ofNat 6 0x2E ++ bfirst ++ bcount ++ live) = bfirst := by
  show BitVec.extractLsb' (n := 6 + 6 + 4 + 16) 20 6 (BitVec.ofNat 6 0x2E ++ bfirst ++ bcount ++ live) = _
  rw [extract_hi _ _ _ _ (by decide), extract_hi _ _ _ _ (by decide), extract_lo _ _ _ _ (by decide)]
  exact BitVec.extractLsb'_eq_self

theorem wordRegion_bcount (bfirst : BitVec 6) (bcount : BitVec 4) (live : BitVec 16) :
    BitVec.extractLsb' (n := 32) 16 4 (BitVec.ofNat 6 0x2E ++ bfirst ++ bcount ++ live) = bcount := by
  show BitVec.extractLsb' (n := 6 + 6 + 4 + 16) 16 4 (BitVec.ofNat 6 0x2E ++ bfirst ++ bcount ++ live) = _
  rw [extract_hi _ _ _ _ (by decide), extract_lo _ _ _ _ (by decide)]
  exact BitVec.extractLsb'_eq_self

theorem wordRegion_live (bfirst : BitVec 6) (bcount : BitVec 4) (live : BitVec 16) :
    BitVec.extractLsb' (n := 32) 0 16 (BitVec.ofNat 6 0x2E ++ bfirst ++ bcount ++ live) = live := by
  show BitVec.extractLsb' (n := 6 + 6 + 4 + 16) 0 16 (BitVec.ofNat 6 0x2E ++ bfirst ++ bcount ++ live) = _
  rw [extract_lo _ _ _ _ (by decide)]
  exact BitVec.extractLsb'_eq_self

/-! Lane words. -/

theorem laneWord_stop (op : Nat) (w : LaneWord) :
    BitVec.extractLsb' (n := 64) 63 1 (laneWordBits op w) = BitVec.ofBool w.stop := by
  show BitVec.extractLsb' (n := 1 + 7 + 4 + 8 + 8 + 8 + 8 + 3 + 1 + 3 + 13) 63 1 (BitVec.ofBool w.stop ++ BitVec.ofNat 7 op ++ w.ty ++ w.dst ++ w.a ++ w.b ++ w.c ++ w.mask ++ BitVec.ofBool w.minv ++ w.dem ++ w.fn) = _
  rw [extract_hi _ _ _ _ (by decide), extract_hi _ _ _ _ (by decide), extract_hi _ _ _ _ (by decide), extract_hi _ _ _ _ (by decide), extract_hi _ _ _ _ (by decide), extract_hi _ _ _ _ (by decide), extract_hi _ _ _ _ (by decide), extract_hi _ _ _ _ (by decide), extract_hi _ _ _ _ (by decide), extract_hi _ _ _ _ (by decide)]
  exact BitVec.extractLsb'_eq_self

theorem laneWord_op (op : Nat) (w : LaneWord) :
    BitVec.extractLsb' (n := 64) 56 7 (laneWordBits op w) = BitVec.ofNat 7 op := by
  show BitVec.extractLsb' (n := 1 + 7 + 4 + 8 + 8 + 8 + 8 + 3 + 1 + 3 + 13) 56 7 (BitVec.ofBool w.stop ++ BitVec.ofNat 7 op ++ w.ty ++ w.dst ++ w.a ++ w.b ++ w.c ++ w.mask ++ BitVec.ofBool w.minv ++ w.dem ++ w.fn) = _
  rw [extract_hi _ _ _ _ (by decide), extract_hi _ _ _ _ (by decide), extract_hi _ _ _ _ (by decide), extract_hi _ _ _ _ (by decide), extract_hi _ _ _ _ (by decide), extract_hi _ _ _ _ (by decide), extract_hi _ _ _ _ (by decide), extract_hi _ _ _ _ (by decide), extract_hi _ _ _ _ (by decide), extract_lo _ _ _ _ (by decide)]
  exact BitVec.extractLsb'_eq_self

theorem laneWord_ty (op : Nat) (w : LaneWord) :
    BitVec.extractLsb' (n := 64) 52 4 (laneWordBits op w) = w.ty := by
  show BitVec.extractLsb' (n := 1 + 7 + 4 + 8 + 8 + 8 + 8 + 3 + 1 + 3 + 13) 52 4 (BitVec.ofBool w.stop ++ BitVec.ofNat 7 op ++ w.ty ++ w.dst ++ w.a ++ w.b ++ w.c ++ w.mask ++ BitVec.ofBool w.minv ++ w.dem ++ w.fn) = _
  rw [extract_hi _ _ _ _ (by decide), extract_hi _ _ _ _ (by decide), extract_hi _ _ _ _ (by decide), extract_hi _ _ _ _ (by decide), extract_hi _ _ _ _ (by decide), extract_hi _ _ _ _ (by decide), extract_hi _ _ _ _ (by decide), extract_hi _ _ _ _ (by decide), extract_lo _ _ _ _ (by decide)]
  exact BitVec.extractLsb'_eq_self

theorem laneWord_dst (op : Nat) (w : LaneWord) :
    BitVec.extractLsb' (n := 64) 44 8 (laneWordBits op w) = w.dst := by
  show BitVec.extractLsb' (n := 1 + 7 + 4 + 8 + 8 + 8 + 8 + 3 + 1 + 3 + 13) 44 8 (BitVec.ofBool w.stop ++ BitVec.ofNat 7 op ++ w.ty ++ w.dst ++ w.a ++ w.b ++ w.c ++ w.mask ++ BitVec.ofBool w.minv ++ w.dem ++ w.fn) = _
  rw [extract_hi _ _ _ _ (by decide), extract_hi _ _ _ _ (by decide), extract_hi _ _ _ _ (by decide), extract_hi _ _ _ _ (by decide), extract_hi _ _ _ _ (by decide), extract_hi _ _ _ _ (by decide), extract_hi _ _ _ _ (by decide), extract_lo _ _ _ _ (by decide)]
  exact BitVec.extractLsb'_eq_self

theorem laneWord_a (op : Nat) (w : LaneWord) :
    BitVec.extractLsb' (n := 64) 36 8 (laneWordBits op w) = w.a := by
  show BitVec.extractLsb' (n := 1 + 7 + 4 + 8 + 8 + 8 + 8 + 3 + 1 + 3 + 13) 36 8 (BitVec.ofBool w.stop ++ BitVec.ofNat 7 op ++ w.ty ++ w.dst ++ w.a ++ w.b ++ w.c ++ w.mask ++ BitVec.ofBool w.minv ++ w.dem ++ w.fn) = _
  rw [extract_hi _ _ _ _ (by decide), extract_hi _ _ _ _ (by decide), extract_hi _ _ _ _ (by decide), extract_hi _ _ _ _ (by decide), extract_hi _ _ _ _ (by decide), extract_hi _ _ _ _ (by decide), extract_lo _ _ _ _ (by decide)]
  exact BitVec.extractLsb'_eq_self

theorem laneWord_b (op : Nat) (w : LaneWord) :
    BitVec.extractLsb' (n := 64) 28 8 (laneWordBits op w) = w.b := by
  show BitVec.extractLsb' (n := 1 + 7 + 4 + 8 + 8 + 8 + 8 + 3 + 1 + 3 + 13) 28 8 (BitVec.ofBool w.stop ++ BitVec.ofNat 7 op ++ w.ty ++ w.dst ++ w.a ++ w.b ++ w.c ++ w.mask ++ BitVec.ofBool w.minv ++ w.dem ++ w.fn) = _
  rw [extract_hi _ _ _ _ (by decide), extract_hi _ _ _ _ (by decide), extract_hi _ _ _ _ (by decide), extract_hi _ _ _ _ (by decide), extract_hi _ _ _ _ (by decide), extract_lo _ _ _ _ (by decide)]
  exact BitVec.extractLsb'_eq_self

theorem laneWord_c (op : Nat) (w : LaneWord) :
    BitVec.extractLsb' (n := 64) 20 8 (laneWordBits op w) = w.c := by
  show BitVec.extractLsb' (n := 1 + 7 + 4 + 8 + 8 + 8 + 8 + 3 + 1 + 3 + 13) 20 8 (BitVec.ofBool w.stop ++ BitVec.ofNat 7 op ++ w.ty ++ w.dst ++ w.a ++ w.b ++ w.c ++ w.mask ++ BitVec.ofBool w.minv ++ w.dem ++ w.fn) = _
  rw [extract_hi _ _ _ _ (by decide), extract_hi _ _ _ _ (by decide), extract_hi _ _ _ _ (by decide), extract_hi _ _ _ _ (by decide), extract_lo _ _ _ _ (by decide)]
  exact BitVec.extractLsb'_eq_self

theorem laneWord_mask (op : Nat) (w : LaneWord) :
    BitVec.extractLsb' (n := 64) 17 3 (laneWordBits op w) = w.mask := by
  show BitVec.extractLsb' (n := 1 + 7 + 4 + 8 + 8 + 8 + 8 + 3 + 1 + 3 + 13) 17 3 (BitVec.ofBool w.stop ++ BitVec.ofNat 7 op ++ w.ty ++ w.dst ++ w.a ++ w.b ++ w.c ++ w.mask ++ BitVec.ofBool w.minv ++ w.dem ++ w.fn) = _
  rw [extract_hi _ _ _ _ (by decide), extract_hi _ _ _ _ (by decide), extract_hi _ _ _ _ (by decide), extract_lo _ _ _ _ (by decide)]
  exact BitVec.extractLsb'_eq_self

theorem laneWord_minv (op : Nat) (w : LaneWord) :
    BitVec.extractLsb' (n := 64) 16 1 (laneWordBits op w) = BitVec.ofBool w.minv := by
  show BitVec.extractLsb' (n := 1 + 7 + 4 + 8 + 8 + 8 + 8 + 3 + 1 + 3 + 13) 16 1 (BitVec.ofBool w.stop ++ BitVec.ofNat 7 op ++ w.ty ++ w.dst ++ w.a ++ w.b ++ w.c ++ w.mask ++ BitVec.ofBool w.minv ++ w.dem ++ w.fn) = _
  rw [extract_hi _ _ _ _ (by decide), extract_hi _ _ _ _ (by decide), extract_lo _ _ _ _ (by decide)]
  exact BitVec.extractLsb'_eq_self

theorem laneWord_dem (op : Nat) (w : LaneWord) :
    BitVec.extractLsb' (n := 64) 13 3 (laneWordBits op w) = w.dem := by
  show BitVec.extractLsb' (n := 1 + 7 + 4 + 8 + 8 + 8 + 8 + 3 + 1 + 3 + 13) 13 3 (BitVec.ofBool w.stop ++ BitVec.ofNat 7 op ++ w.ty ++ w.dst ++ w.a ++ w.b ++ w.c ++ w.mask ++ BitVec.ofBool w.minv ++ w.dem ++ w.fn) = _
  rw [extract_hi _ _ _ _ (by decide), extract_lo _ _ _ _ (by decide)]
  exact BitVec.extractLsb'_eq_self

theorem laneWord_fn (op : Nat) (w : LaneWord) :
    BitVec.extractLsb' (n := 64) 0 13 (laneWordBits op w) = w.fn := by
  show BitVec.extractLsb' (n := 1 + 7 + 4 + 8 + 8 + 8 + 8 + 3 + 1 + 3 + 13) 0 13 (BitVec.ofBool w.stop ++ BitVec.ofNat 7 op ++ w.ty ++ w.dst ++ w.a ++ w.b ++ w.c ++ w.mask ++ BitVec.ofBool w.minv ++ w.dem ++ w.fn) = _
  rw [extract_lo _ _ _ _ (by decide)]
  exact BitVec.extractLsb'_eq_self

/-! Fields packed into 6 bits. -/

theorem pack15_hi (x : BitVec 1) (y : BitVec 5) :
    BitVec.extractLsb' (n := 6) 5 1 (x ++ y) = x := by
  show BitVec.extractLsb' (n := 1 + 5) 5 1 (x ++ y) = _
  rw [extract_hi _ _ _ _ (by decide)]
  exact BitVec.extractLsb'_eq_self

theorem pack15_lo (x : BitVec 1) (y : BitVec 5) :
    BitVec.extractLsb' (n := 6) 0 5 (x ++ y) = y := by
  show BitVec.extractLsb' (n := 1 + 5) 0 5 (x ++ y) = _
  rw [extract_lo _ _ _ _ (by decide)]
  exact BitVec.extractLsb'_eq_self

/-! Fields packed into 6 bits. -/

theorem pack42_hi (x : BitVec 4) (y : BitVec 2) :
    BitVec.extractLsb' (n := 6) 2 4 (x ++ y) = x := by
  show BitVec.extractLsb' (n := 4 + 2) 2 4 (x ++ y) = _
  rw [extract_hi _ _ _ _ (by decide)]
  exact BitVec.extractLsb'_eq_self

theorem pack42_lo (x : BitVec 4) (y : BitVec 2) :
    BitVec.extractLsb' (n := 6) 0 2 (x ++ y) = y := by
  show BitVec.extractLsb' (n := 4 + 2) 0 2 (x ++ y) = _
  rw [extract_lo _ _ _ _ (by decide)]
  exact BitVec.extractLsb'_eq_self

/-! Fields packed into 6 bits. -/

theorem pack24_hi (x : BitVec 2) (y : BitVec 4) :
    BitVec.extractLsb' (n := 6) 4 2 (x ++ y) = x := by
  show BitVec.extractLsb' (n := 2 + 4) 4 2 (x ++ y) = _
  rw [extract_hi _ _ _ _ (by decide)]
  exact BitVec.extractLsb'_eq_self

theorem pack24_lo (x : BitVec 2) (y : BitVec 4) :
    BitVec.extractLsb' (n := 6) 0 4 (x ++ y) = y := by
  show BitVec.extractLsb' (n := 2 + 4) 0 4 (x ++ y) = _
  rw [extract_lo _ _ _ _ (by decide)]
  exact BitVec.extractLsb'_eq_self

/-! Fields packed into 6 bits. -/

theorem pack33_hi (x : BitVec 3) (y : BitVec 3) :
    BitVec.extractLsb' (n := 6) 3 3 (x ++ y) = x := by
  show BitVec.extractLsb' (n := 3 + 3) 3 3 (x ++ y) = _
  rw [extract_hi _ _ _ _ (by decide)]
  exact BitVec.extractLsb'_eq_self

theorem pack33_lo (x : BitVec 3) (y : BitVec 3) :
    BitVec.extractLsb' (n := 6) 0 3 (x ++ y) = y := by
  show BitVec.extractLsb' (n := 3 + 3) 0 3 (x ++ y) = _
  rw [extract_lo _ _ _ _ (by decide)]
  exact BitVec.extractLsb'_eq_self

/-! Fields packed into 6 bits. -/

theorem pack51_hi (x : BitVec 5) (y : BitVec 1) :
    BitVec.extractLsb' (n := 6) 1 5 (x ++ y) = x := by
  show BitVec.extractLsb' (n := 5 + 1) 1 5 (x ++ y) = _
  rw [extract_hi _ _ _ _ (by decide)]
  exact BitVec.extractLsb'_eq_self

theorem pack51_lo (x : BitVec 5) (y : BitVec 1) :
    BitVec.extractLsb' (n := 6) 0 1 (x ++ y) = y := by
  show BitVec.extractLsb' (n := 5 + 1) 0 1 (x ++ y) = _
  rw [extract_lo _ _ _ _ (by decide)]
  exact BitVec.extractLsb'_eq_self

/-! Fields packed into 5 bits. -/

theorem pack23_hi (x : BitVec 2) (y : BitVec 3) :
    BitVec.extractLsb' (n := 5) 3 2 (x ++ y) = x := by
  show BitVec.extractLsb' (n := 2 + 3) 3 2 (x ++ y) = _
  rw [extract_hi _ _ _ _ (by decide)]
  exact BitVec.extractLsb'_eq_self

theorem pack23_lo (x : BitVec 2) (y : BitVec 3) :
    BitVec.extractLsb' (n := 5) 0 3 (x ++ y) = y := by
  show BitVec.extractLsb' (n := 2 + 3) 0 3 (x ++ y) = _
  rw [extract_lo _ _ _ _ (by decide)]
  exact BitVec.extractLsb'_eq_self

/-! Fields packed into 6 bits. -/

theorem pack411_hi (x : BitVec 4) (y z : BitVec 1) :
    BitVec.extractLsb' (n := 6) 2 4 (x ++ y ++ z) = x := by
  show BitVec.extractLsb' (n := 4 + 1 + 1) 2 4 (x ++ y ++ z) = _
  rw [extract_hi _ _ _ _ (by decide), extract_hi _ _ _ _ (by decide)]
  exact BitVec.extractLsb'_eq_self

theorem pack411_mid (x : BitVec 4) (y z : BitVec 1) :
    BitVec.extractLsb' (n := 6) 1 1 (x ++ y ++ z) = y := by
  show BitVec.extractLsb' (n := 4 + 1 + 1) 1 1 (x ++ y ++ z) = _
  rw [extract_hi _ _ _ _ (by decide), extract_lo _ _ _ _ (by decide)]
  exact BitVec.extractLsb'_eq_self

theorem pack411_lo (x : BitVec 4) (y z : BitVec 1) :
    BitVec.extractLsb' (n := 6) 0 1 (x ++ y ++ z) = z := by
  show BitVec.extractLsb' (n := 4 + 1 + 1) 0 1 (x ++ y ++ z) = _
  rw [extract_lo _ _ _ _ (by decide)]
  exact BitVec.extractLsb'_eq_self

/-! Fields packed into 6 bits. -/

theorem pack222_hi (x y z : BitVec 2) :
    BitVec.extractLsb' (n := 6) 4 2 (x ++ y ++ z) = x := by
  show BitVec.extractLsb' (n := 2 + 2 + 2) 4 2 (x ++ y ++ z) = _
  rw [extract_hi _ _ _ _ (by decide), extract_hi _ _ _ _ (by decide)]
  exact BitVec.extractLsb'_eq_self

theorem pack222_mid (x y z : BitVec 2) :
    BitVec.extractLsb' (n := 6) 2 2 (x ++ y ++ z) = y := by
  show BitVec.extractLsb' (n := 2 + 2 + 2) 2 2 (x ++ y ++ z) = _
  rw [extract_hi _ _ _ _ (by decide), extract_lo _ _ _ _ (by decide)]
  exact BitVec.extractLsb'_eq_self

theorem pack222_lo (x y z : BitVec 2) :
    BitVec.extractLsb' (n := 6) 0 2 (x ++ y ++ z) = z := by
  show BitVec.extractLsb' (n := 2 + 2 + 2) 0 2 (x ++ y ++ z) = _
  rw [extract_lo _ _ _ _ (by decide)]
  exact BitVec.extractLsb'_eq_self

/-! Fields packed into 16 bits. -/

theorem packShift_hi (x : BitVec 10) (y : BitVec 6) :
    BitVec.extractLsb' (n := 16) 6 10 (x ++ y) = x := by
  show BitVec.extractLsb' (n := 10 + 6) 6 10 (x ++ y) = _
  rw [extract_hi _ _ _ _ (by decide)]
  exact BitVec.extractLsb'_eq_self

theorem packShift_lo (x : BitVec 10) (y : BitVec 6) :
    BitVec.extractLsb' (n := 16) 0 6 (x ++ y) = y := by
  show BitVec.extractLsb' (n := 10 + 6) 0 6 (x ++ y) = _
  rw [extract_lo _ _ _ _ (by decide)]
  exact BitVec.extractLsb'_eq_self

/-! Fields packed into 16 bits. -/

theorem packExtr_hi (x : BitVec 4) (y z : BitVec 6) :
    BitVec.extractLsb' (n := 16) 12 4 (x ++ y ++ z) = x := by
  show BitVec.extractLsb' (n := 4 + 6 + 6) 12 4 (x ++ y ++ z) = _
  rw [extract_hi _ _ _ _ (by decide), extract_hi _ _ _ _ (by decide)]
  exact BitVec.extractLsb'_eq_self

theorem packExtr_mid (x : BitVec 4) (y z : BitVec 6) :
    BitVec.extractLsb' (n := 16) 6 6 (x ++ y ++ z) = y := by
  show BitVec.extractLsb' (n := 4 + 6 + 6) 6 6 (x ++ y ++ z) = _
  rw [extract_hi _ _ _ _ (by decide), extract_lo _ _ _ _ (by decide)]
  exact BitVec.extractLsb'_eq_self

theorem packExtr_lo (x : BitVec 4) (y z : BitVec 6) :
    BitVec.extractLsb' (n := 16) 0 6 (x ++ y ++ z) = z := by
  show BitVec.extractLsb' (n := 4 + 6 + 6) 0 6 (x ++ y ++ z) = _
  rw [extract_lo _ _ _ _ (by decide)]
  exact BitVec.extractLsb'_eq_self

/-! Fields packed into 16 bits. -/

theorem packCsr_hi (x : BitVec 4) (y : BitVec 12) :
    BitVec.extractLsb' (n := 16) 12 4 (x ++ y) = x := by
  show BitVec.extractLsb' (n := 4 + 12) 12 4 (x ++ y) = _
  rw [extract_hi _ _ _ _ (by decide)]
  exact BitVec.extractLsb'_eq_self

theorem packCsr_lo (x : BitVec 4) (y : BitVec 12) :
    BitVec.extractLsb' (n := 16) 0 12 (x ++ y) = y := by
  show BitVec.extractLsb' (n := 4 + 12) 0 12 (x ++ y) = _
  rw [extract_lo _ _ _ _ (by decide)]
  exact BitVec.extractLsb'_eq_self

/-! Bits that are fields of their own. -/

/-- A bit is the lowest bit of the field of width 1 at its place. -/
theorem getLsbD_eq_field {n : Nat} (w : BitVec n) (i : Nat) : w.getLsbD i = (w.extractLsb' i 1).getLsbD 0 := by simp

theorem wordFloat_bit (d a b x : BitVec 5) (rnd : BitVec 2) (p : Bool) (sub : Nat) :
    (wordFloat d a b x rnd p sub).getLsbD 3 = p := getLsbD_of_field _ _ _ (wordFloat_p ..)

theorem pack411_bit1 (x : BitVec 4) (y z : BitVec 1) :
    BitVec.getLsbD (w := 6) (x ++ y ++ z) 1 = y.getLsbD 0 := by rw [getLsbD_eq_field, pack411_mid]

theorem pack411_bit0 (x : BitVec 4) (y z : BitVec 1) :
    BitVec.getLsbD (w := 6) (x ++ y ++ z) 0 = z.getLsbD 0 := by rw [getLsbD_eq_field, pack411_lo]

theorem pack51_bit (x : BitVec 5) (y : BitVec 1) :
    BitVec.getLsbD (w := 6) (x ++ y) 0 = y.getLsbD 0 := by rw [getLsbD_eq_field, pack51_lo]

theorem pack15_bit (x : BitVec 1) (y : BitVec 5) :
    BitVec.getLsbD (w := 6) (x ++ y) 5 = x.getLsbD 0 := by rw [getLsbD_eq_field, pack15_hi]

/-- The fields of a lane word read back (R86). -/
theorem laneFields_laneWordBits (op : Nat) (w : LaneWord) : laneFields (laneWordBits op w) = w := by
  simp only [laneFields, laneWord_ty, laneWord_dst, laneWord_a, laneWord_b, laneWord_c, laneWord_mask, laneWord_dem,
    laneWord_fn, getLsbD_of_field _ _ _ (laneWord_stop op w), getLsbD_of_field _ _ _ (laneWord_minv op w)]

end Sys2Proof.Laws
end

