-- ==== Sys2Proof/Laws/Memory.lean ====
section
/-! SUPPORT. Laws/Memory.lean: reading back what was written, and the canonical form of every memory operation (log 12). -/
namespace Sys2Proof.Machine

/-! ## Sorted lists -/

section Lists
variable {β : Type} [DecidableEq β] {z : β}

/-- What stands below the first address of a list in form reads as an unlisted address. -/
theorem alGet_below (l : List (Nat × β)) (lo a : Nat) (h : alWfFrom z lo l = true) (ha : a < lo) : alGet z l a = z := by
  cases l with
  | nil => rfl
  | cons c t =>
    obtain ⟨k, b⟩ := c
    simp only [alWfFrom, Bool.and_eq_true, decide_eq_true_eq] at h
    have h1 : a ≠ k := by omega
    have h2 : a < k := by omega
    simp [alGet, h1, h2]

/-- A list in form from `lo` on is in form from any lower bound on. -/
theorem alWfFrom_mono (l : List (Nat × β)) (lo lo' : Nat) (hle : lo' ≤ lo) (h : alWfFrom z lo l = true) :
    alWfFrom z lo' l = true := by
  cases l with
  | nil => rfl
  | cons c t =>
    obtain ⟨k, b⟩ := c
    simp only [alWfFrom, Bool.and_eq_true, decide_eq_true_eq] at h ⊢
    exact ⟨⟨by omega, h.1.2⟩, h.2⟩

/-- Writing at or above the bound keeps the form. -/
theorem alSet_wfFrom (l : List (Nat × β)) (lo a : Nat) (b : β) (h : alWfFrom z lo l = true) (ha : lo ≤ a) :
    alWfFrom z lo (alSet z l a b) = true := by
  induction l generalizing lo with
  | nil =>
    by_cases hb : b = z
    · simp [alSet, hb, alWfFrom]
    · simp [alSet, hb, alWfFrom, ha]
  | cons c t ih =>
    obtain ⟨k, x⟩ := c
    simp only [alWfFrom, Bool.and_eq_true, decide_eq_true_eq] at h
    obtain ⟨⟨hk, hx⟩, ht⟩ := h
    by_cases h1 : a = k
    · subst h1
      by_cases hb : b = z
      · simp only [alSet, if_true, hb]
        exact alWfFrom_mono t (a + 1) lo (by omega) ht
      · simp [alSet, hb, alWfFrom, hk, ht]
    · by_cases h2 : a < k
      · by_cases hb : b = z
        · simp [alSet, h1, h2, hb, alWfFrom, hk, hx, ht]
        · have : a + 1 ≤ k := h2
          simp [alSet, h1, h2, hb, alWfFrom, ha, hx, ht, this]
      · have h3 : k + 1 ≤ a := by omega
        simp [alSet, h1, h2, alWfFrom, hk, hx, ih (k + 1) ht h3]

/-- A written address reads back. -/
theorem alGet_alSet_same (l : List (Nat × β)) (lo a : Nat) (b : β) (h : alWfFrom z lo l = true) :
    alGet z (alSet z l a b) a = b := by
  induction l generalizing lo with
  | nil => by_cases hb : b = z <;> simp [alSet, alGet, hb]
  | cons c t ih =>
    obtain ⟨k, x⟩ := c
    simp only [alWfFrom, Bool.and_eq_true, decide_eq_true_eq] at h
    by_cases h1 : a = k
    · subst h1
      by_cases hb : b = z
      · subst hb
        simp only [alSet, if_true]
        exact alGet_below t (a + 1) a h.2 (by omega)
      · simp [alSet, hb, alGet]
    · by_cases h2 : a < k
      · by_cases hb : b = z <;> simp [alSet, alGet, h1, h2, hb]
      · simp [alSet, alGet, h1, h2, ih (k + 1) h.2]

/-- Every other address reads as before. -/
theorem alGet_alSet_other (l : List (Nat × β)) (lo a c : Nat) (b : β) (h : alWfFrom z lo l = true) (hc : c ≠ a) :
    alGet z (alSet z l a b) c = alGet z l c := by
  induction l generalizing lo with
  | nil =>
    by_cases hb : b = z
    · simp [alSet, hb]
    · simp [alSet, alGet, hb, hc]
  | cons p t ih =>
    obtain ⟨k, x⟩ := p
    simp only [alWfFrom, Bool.and_eq_true, decide_eq_true_eq] at h
    by_cases h1 : a = k
    · subst h1
      by_cases hb : b = z
      · subst hb
        simp only [alSet, alGet, if_true, hc, if_false]
        by_cases h2 : c < a
        · simp only [h2, if_true]
          exact alGet_below t (a + 1) c h.2 (by omega)
        · simp [h2]
      · simp [alSet, alGet, hb, hc]
    · by_cases h2 : a < k
      · by_cases hb : b = z
        · simp [alSet, h1, h2, hb]
        · by_cases h3 : c < a
          · have h4 : c ≠ k := by omega
            have h5 : c < k := by omega
            simp [alSet, alGet, h1, h2, hb, hc, h3, h4, h5]
          · simp [alSet, alGet, h1, h2, hb, hc, h3]
      · simp only [alSet, h1, h2, if_false, alGet]
        split
        · rfl
        · split
          · rfl
          · exact ih (k + 1) h.2

/-- Two lists in form that read the same everywhere are the same list. -/
theorem al_ext (l m : List (Nat × β)) (lo : Nat) (hl : alWfFrom z lo l = true) (hm : alWfFrom z lo m = true)
    (h : ∀ a, alGet z l a = alGet z m a) : l = m := by
  induction l generalizing lo m with
  | nil =>
    cases m with
    | nil => rfl
    | cons c t =>
      obtain ⟨k, x⟩ := c
      simp only [alWfFrom, Bool.and_eq_true, decide_eq_true_eq] at hm
      have := h k
      simp only [alGet, if_true] at this
      exact absurd this.symm hm.1.2
  | cons c t ih =>
    obtain ⟨k, x⟩ := c
    simp only [alWfFrom, Bool.and_eq_true, decide_eq_true_eq] at hl
    cases m with
    | nil =>
      have := h k
      simp only [alGet, if_true] at this
      exact absurd this hl.1.2
    | cons d u =>
      obtain ⟨j, y⟩ := d
      simp only [alWfFrom, Bool.and_eq_true, decide_eq_true_eq] at hm
      have hkj : k = j := by
        rcases Nat.lt_trichotomy k j with hlt | heq | hgt
        · have := h k
          have hne : k ≠ j := by omega
          simp only [alGet, if_true, hne, hlt, if_false] at this
          exact absurd this hl.1.2
        · exact heq
        · have := h j
          have hne : j ≠ k := by omega
          simp only [alGet, if_true, hne, hgt, if_false] at this
          exact absurd this.symm hm.1.2
      subst hkj
      have hxy : x = y := by simpa [alGet] using h k
      subst hxy
      congr 1
      refine ih u (k + 1) hl.2 hm.2 fun a => ?_
      rcases Nat.lt_or_ge a (k + 1) with ha | ha
      · rw [alGet_below t (k + 1) a hl.2 ha, alGet_below u (k + 1) a hm.2 ha]
      · have h1 : a ≠ k := by omega
        have h2 : ¬a < k := by omega
        simpa [alGet, h1, h2] using h a

/-- Keeping only some addresses keeps the form. -/
theorem alWfFrom_filter (l : List (Nat × β)) (lo : Nat) (p : Nat × β → Bool) (h : alWfFrom z lo l = true) :
    alWfFrom z lo (l.filter p) = true := by
  induction l generalizing lo with
  | nil => rfl
  | cons c t ih =>
    obtain ⟨k, x⟩ := c
    simp only [alWfFrom, Bool.and_eq_true, decide_eq_true_eq] at h
    by_cases hp : p (k, x) = true
    · simp [List.filter, hp, alWfFrom, h.1.1, h.1.2, ih (k + 1) h.2]
    · simp only [List.filter, hp]
      exact alWfFrom_mono _ (k + 1) lo (by omega) (ih (k + 1) h.2)

end Lists

/-! ## Memories -/

theorem Memory.wf_nil : Memory.wf [] = true := rfl

theorem memSet_wf (m : Memory) (a : Nat) (b : Byte) (h : m.wf = true) : (memSet m a b).wf = true :=
  alSet_wfFrom m 0 a b h (Nat.zero_le a)

theorem memGet_memSet_same (m : Memory) (a : Nat) (b : Byte) (h : m.wf = true) : memGet (memSet m a b) a = b :=
  alGet_alSet_same m 0 a b h

theorem memGet_memSet_other (m : Memory) (a c : Nat) (b : Byte) (h : m.wf = true) (hc : c ≠ a) :
    memGet (memSet m a b) c = memGet m c := alGet_alSet_other m 0 a c b h hc

theorem memWrite_wf (m : Memory) (a : Nat) (bs : List Byte) (h : m.wf = true) : (memWrite m a bs).wf = true := by
  induction bs generalizing m a with
  | nil => exact h
  | cons b bs ih => exact ih _ _ (memSet_wf m a b h)

theorem memPut_wf (m : Memory) (a n v : Nat) (h : m.wf = true) : (memPut m a n v).wf = true := memWrite_wf m a _ h

theorem memCells_wf (m : Memory) (base : Nat) (cs : List Host.Cell) (h : m.wf = true) : (memCells m base cs).wf = true := by
  induction cs generalizing m with
  | nil => exact h
  | cons c cs ih =>
    obtain ⟨a, b⟩ := c
    exact ih _ (memSet_wf m _ b h)

theorem memClear_wf (m : Memory) (a n : Nat) (h : m.wf = true) : (memClear m a n).wf = true :=
  alWfFrom_filter m 0 _ h

/-- An address below the written bytes reads as before. -/
theorem memGet_memWrite_below (m : Memory) (a c : Nat) (bs : List Byte) (h : m.wf = true) (hc : c < a) :
    memGet (memWrite m a bs) c = memGet m c := by
  induction bs generalizing m a with
  | nil => rfl
  | cons b bs ih =>
    rw [memWrite, ih _ _ (memSet_wf m a b h) (by omega), memGet_memSet_other m a c b h (by omega)]

/-- An address above the written bytes reads as before. -/
theorem memGet_memWrite_above (m : Memory) (a c : Nat) (bs : List Byte) (h : m.wf = true) (hc : a + bs.length ≤ c) :
    memGet (memWrite m a bs) c = memGet m c := by
  induction bs generalizing m a with
  | nil => rfl
  | cons b bs ih =>
    simp only [List.length_cons] at hc
    rw [memWrite, ih _ _ (memSet_wf m a b h) (by omega), memGet_memSet_other m a c b h (by omega)]

/-- Written bytes read back. -/
theorem memRead_memWrite (m : Memory) (a : Nat) (bs : List Byte) (h : m.wf = true) :
    memRead (memWrite m a bs) a bs.length = bs := by
  induction bs generalizing m a with
  | nil => rfl
  | cons b bs ih =>
    simp only [List.length_cons, memRead, memWrite]
    rw [ih _ _ (memSet_wf m a b h), memGet_memWrite_below _ _ _ _ (memSet_wf m a b h) (by omega),
      memGet_memSet_same m a b h]

theorem memRead_length (m : Memory) (a n : Nat) : (memRead m a n).length = n := by
  induction n generalizing a with
  | zero => rfl
  | succ n ih => simp [memRead, ih]

/-! ## DRAM -/

/-- DRAM and the tags of its lines are in form. -/
def DramWf (s : State) : Prop := s.dram.wf = true ∧ alWfFrom (0, 0) 0 s.tags = true

theorem dramRekey_wf (s : State) (key pa : Nat) (h : DramWf s) : DramWf (dramRekey s key pa) := by
  unfold dramRekey
  split
  · exact h
  · generalize dramRead s key (pa / 128 * 128) 128 = bs
    exact ⟨memWrite_wf s.dram (pa / 128 * 128) bs h.1, alSet_wfFrom s.tags 0 (pa / 128) (key, (lineTag s pa).2) h.2 (Nat.zero_le _)⟩

theorem dramSet_wf (s : State) (key pa : Nat) (b : Byte) (h : DramWf s) : DramWf (dramSet s key pa b) := by
  have := dramRekey_wf s key pa h
  exact ⟨memSet_wf _ _ _ this.1, alSet_wfFrom _ 0 _ _ this.2 (Nat.zero_le _)⟩

theorem dramWrite_wf (s : State) (key pa : Nat) (bs : List Byte) (h : DramWf s) : DramWf (dramWrite s key pa bs) := by
  induction bs generalizing s pa with
  | nil => exact h
  | cons b bs ih => exact ih _ _ (dramSet_wf s key pa b h)

theorem reset_dram_wf : DramWf State.reset := ⟨rfl, rfl⟩

/-- The line of a byte written under a key is under that key. -/
theorem lineKey_dramSet (s : State) (key pa : Nat) (b : Byte) (h : DramWf s) : lineKey (dramSet s key pa b) pa = key := by
  simp only [lineKey, lineTag, dramSet]
  rw [alGet_alSet_same _ 0 _ _ (dramRekey_wf s key pa h).2]

/-- A byte written under a key reads back under it (R40). -/
theorem dramByte_dramSet (s : State) (key pa : Nat) (b : Byte) (h : DramWf s) : dramByte (dramSet s key pa b) key pa = b := by
  have hk : lineKey (dramSet s key pa b) pa = key := lineKey_dramSet s key pa b h
  simp only [dramByte, hk, if_true]
  exact memGet_memSet_same _ _ _ (dramRekey_wf s key pa h).1

end Sys2Proof.Machine
end

