-- ==== Sys2Proof/Laws/State.lean ====
section
/-! SUPPORT. Laws/State.lean: what each update of the state leaves and what it sets, one lemma per field, true by unfolding, so that
no later proof unfolds a record update. -/
namespace Sys2Proof.Machine
set_option Elab.async false

variable (s : State) (c d : Fin 256) (k : Core) (v w : Fin 16) (x : Vale) (ch dh : Fin 512) (y : Channel) (p q : Fin 18) (z : Port)
  (who : LeadId) (l : LeadSlice)


/-! ## setCore -/

@[simp] theorem State.setCore_now : (s.setCore c k).now = s.now := rfl
@[simp] theorem State.setCore_ticks : (s.setCore c k).ticks = s.ticks := rfl
@[simp] theorem State.setCore_draws : (s.setCore c k).draws = s.draws := rfl
@[simp] theorem State.setCore_turn : (s.setCore c k).turn = s.turn := rfl
@[simp] theorem State.setCore_agenda : (s.setCore c k).agenda = s.agenda := rfl
@[simp] theorem State.setCore_stalled : (s.setCore c k).stalled = s.stalled := rfl
@[simp] theorem State.setCore_dram : (s.setCore c k).dram = s.dram := rfl
@[simp] theorem State.setCore_tags : (s.setCore c k).tags = s.tags := rfl
@[simp] theorem State.setCore_pages : (s.setCore c k).pages = s.pages := rfl
@[simp] theorem State.setCore_l2 : (s.setCore c k).l2 = s.l2 := rfl
@[simp] theorem State.setCore_bulk : (s.setCore c k).bulk = s.bulk := rfl
@[simp] theorem State.setCore_chunk : (s.setCore c k).chunk = s.chunk := rfl
@[simp] theorem State.setCore_bold : (s.setCore c k).bold = s.bold := rfl
@[simp] theorem State.setCore_split : (s.setCore c k).split = s.split := rfl
@[simp] theorem State.setCore_poison : (s.setCore c k).poison = s.poison := rfl
@[simp] theorem State.setCore_mgmt : (s.setCore c k).mgmt = s.mgmt := rfl
@[simp] theorem State.setCore_vales : (s.setCore c k).vales = s.vales := rfl
@[simp] theorem State.setCore_chans : (s.setCore c k).chans = s.chans := rfl
@[simp] theorem State.setCore_hbm : (s.setCore c k).hbm = s.hbm := rfl
@[simp] theorem State.setCore_ports : (s.setCore c k).ports = s.ports := rfl
@[simp] theorem State.setCore_sec : (s.setCore c k).sec = s.sec := rfl
@[simp] theorem State.setCore_hub : (s.setCore c k).hub = s.hub := rfl
@[simp] theorem State.setCore_outbox : (s.setCore c k).outbox = s.outbox := rfl
@[simp] theorem State.vale_setCore : (s.setCore c k).vale w = s.vale w := rfl
@[simp] theorem State.chan_setCore : (s.setCore c k).chan dh = s.chan dh := rfl

/-! ## setVale -/

@[simp] theorem State.setVale_now : (s.setVale v x).now = s.now := rfl
@[simp] theorem State.setVale_ticks : (s.setVale v x).ticks = s.ticks := rfl
@[simp] theorem State.setVale_draws : (s.setVale v x).draws = s.draws := rfl
@[simp] theorem State.setVale_turn : (s.setVale v x).turn = s.turn := rfl
@[simp] theorem State.setVale_agenda : (s.setVale v x).agenda = s.agenda := rfl
@[simp] theorem State.setVale_stalled : (s.setVale v x).stalled = s.stalled := rfl
@[simp] theorem State.setVale_dram : (s.setVale v x).dram = s.dram := rfl
@[simp] theorem State.setVale_tags : (s.setVale v x).tags = s.tags := rfl
@[simp] theorem State.setVale_pages : (s.setVale v x).pages = s.pages := rfl
@[simp] theorem State.setVale_l2 : (s.setVale v x).l2 = s.l2 := rfl
@[simp] theorem State.setVale_bulk : (s.setVale v x).bulk = s.bulk := rfl
@[simp] theorem State.setVale_chunk : (s.setVale v x).chunk = s.chunk := rfl
@[simp] theorem State.setVale_bold : (s.setVale v x).bold = s.bold := rfl
@[simp] theorem State.setVale_split : (s.setVale v x).split = s.split := rfl
@[simp] theorem State.setVale_poison : (s.setVale v x).poison = s.poison := rfl
@[simp] theorem State.setVale_mgmt : (s.setVale v x).mgmt = s.mgmt := rfl
@[simp] theorem State.setVale_cores : (s.setVale v x).cores = s.cores := rfl
@[simp] theorem State.setVale_chans : (s.setVale v x).chans = s.chans := rfl
@[simp] theorem State.setVale_hbm : (s.setVale v x).hbm = s.hbm := rfl
@[simp] theorem State.setVale_ports : (s.setVale v x).ports = s.ports := rfl
@[simp] theorem State.setVale_sec : (s.setVale v x).sec = s.sec := rfl
@[simp] theorem State.setVale_hub : (s.setVale v x).hub = s.hub := rfl
@[simp] theorem State.setVale_outbox : (s.setVale v x).outbox = s.outbox := rfl
@[simp] theorem State.core_setVale : (s.setVale v x).core d = s.core d := rfl
@[simp] theorem State.chan_setVale : (s.setVale v x).chan dh = s.chan dh := rfl

/-! ## setChan -/

@[simp] theorem State.setChan_now : (s.setChan ch y).now = s.now := rfl
@[simp] theorem State.setChan_ticks : (s.setChan ch y).ticks = s.ticks := rfl
@[simp] theorem State.setChan_draws : (s.setChan ch y).draws = s.draws := rfl
@[simp] theorem State.setChan_turn : (s.setChan ch y).turn = s.turn := rfl
@[simp] theorem State.setChan_agenda : (s.setChan ch y).agenda = s.agenda := rfl
@[simp] theorem State.setChan_stalled : (s.setChan ch y).stalled = s.stalled := rfl
@[simp] theorem State.setChan_dram : (s.setChan ch y).dram = s.dram := rfl
@[simp] theorem State.setChan_tags : (s.setChan ch y).tags = s.tags := rfl
@[simp] theorem State.setChan_pages : (s.setChan ch y).pages = s.pages := rfl
@[simp] theorem State.setChan_l2 : (s.setChan ch y).l2 = s.l2 := rfl
@[simp] theorem State.setChan_bulk : (s.setChan ch y).bulk = s.bulk := rfl
@[simp] theorem State.setChan_chunk : (s.setChan ch y).chunk = s.chunk := rfl
@[simp] theorem State.setChan_bold : (s.setChan ch y).bold = s.bold := rfl
@[simp] theorem State.setChan_split : (s.setChan ch y).split = s.split := rfl
@[simp] theorem State.setChan_poison : (s.setChan ch y).poison = s.poison := rfl
@[simp] theorem State.setChan_mgmt : (s.setChan ch y).mgmt = s.mgmt := rfl
@[simp] theorem State.setChan_cores : (s.setChan ch y).cores = s.cores := rfl
@[simp] theorem State.setChan_vales : (s.setChan ch y).vales = s.vales := rfl
@[simp] theorem State.setChan_hbm : (s.setChan ch y).hbm = s.hbm := rfl
@[simp] theorem State.setChan_ports : (s.setChan ch y).ports = s.ports := rfl
@[simp] theorem State.setChan_sec : (s.setChan ch y).sec = s.sec := rfl
@[simp] theorem State.setChan_hub : (s.setChan ch y).hub = s.hub := rfl
@[simp] theorem State.setChan_outbox : (s.setChan ch y).outbox = s.outbox := rfl
@[simp] theorem State.core_setChan : (s.setChan ch y).core d = s.core d := rfl
@[simp] theorem State.vale_setChan : (s.setChan ch y).vale w = s.vale w := rfl

/-! ## setPort -/

@[simp] theorem State.setPort_now : (s.setPort p z).now = s.now := rfl
@[simp] theorem State.setPort_ticks : (s.setPort p z).ticks = s.ticks := rfl
@[simp] theorem State.setPort_draws : (s.setPort p z).draws = s.draws := rfl
@[simp] theorem State.setPort_turn : (s.setPort p z).turn = s.turn := rfl
@[simp] theorem State.setPort_agenda : (s.setPort p z).agenda = s.agenda := rfl
@[simp] theorem State.setPort_stalled : (s.setPort p z).stalled = s.stalled := rfl
@[simp] theorem State.setPort_dram : (s.setPort p z).dram = s.dram := rfl
@[simp] theorem State.setPort_tags : (s.setPort p z).tags = s.tags := rfl
@[simp] theorem State.setPort_pages : (s.setPort p z).pages = s.pages := rfl
@[simp] theorem State.setPort_l2 : (s.setPort p z).l2 = s.l2 := rfl
@[simp] theorem State.setPort_bulk : (s.setPort p z).bulk = s.bulk := rfl
@[simp] theorem State.setPort_chunk : (s.setPort p z).chunk = s.chunk := rfl
@[simp] theorem State.setPort_bold : (s.setPort p z).bold = s.bold := rfl
@[simp] theorem State.setPort_split : (s.setPort p z).split = s.split := rfl
@[simp] theorem State.setPort_poison : (s.setPort p z).poison = s.poison := rfl
@[simp] theorem State.setPort_mgmt : (s.setPort p z).mgmt = s.mgmt := rfl
@[simp] theorem State.setPort_cores : (s.setPort p z).cores = s.cores := rfl
@[simp] theorem State.setPort_vales : (s.setPort p z).vales = s.vales := rfl
@[simp] theorem State.setPort_chans : (s.setPort p z).chans = s.chans := rfl
@[simp] theorem State.setPort_hbm : (s.setPort p z).hbm = s.hbm := rfl
@[simp] theorem State.setPort_sec : (s.setPort p z).sec = s.sec := rfl
@[simp] theorem State.setPort_hub : (s.setPort p z).hub = s.hub := rfl
@[simp] theorem State.setPort_outbox : (s.setPort p z).outbox = s.outbox := rfl
@[simp] theorem State.core_setPort : (s.setPort p z).core d = s.core d := rfl
@[simp] theorem State.vale_setPort : (s.setPort p z).vale w = s.vale w := rfl
@[simp] theorem State.chan_setPort : (s.setPort p z).chan dh = s.chan dh := rfl

@[simp] theorem State.core_setCore_same : (s.setCore c k).core c = k := by simp [State.core, State.setCore]
@[simp] theorem State.core_setCore_other (h : c ≠ d) : (s.setCore c k).core d = s.core d := by
  have h : c.val ≠ d.val := fun e => h (Fin.ext e)
  simp [State.core, State.setCore, h]
@[simp] theorem State.vale_setVale_same : (s.setVale v x).vale v = x := by simp [State.vale, State.setVale]
@[simp] theorem State.vale_setVale_other (h : v ≠ w) : (s.setVale v x).vale w = s.vale w := by
  have h : v.val ≠ w.val := fun e => h (Fin.ext e)
  simp [State.vale, State.setVale, h]
@[simp] theorem State.chan_setChan_same : (s.setChan ch y).chan ch = y := by simp [State.chan, State.setChan]
@[simp] theorem State.chan_setChan_other (h : ch ≠ dh) : (s.setChan ch y).chan dh = s.chan dh := by
  have h : ch.val ≠ dh.val := fun e => h (Fin.ext e)
  simp [State.chan, State.setChan, h]
@[simp] theorem State.port_setPort_same : (s.setPort p z).ports[p] = z := by simp [State.setPort]
@[simp] theorem State.port_setPort_other (h : p ≠ q) : (s.setPort p z).ports[q] = s.ports[q] := by
  have h : p.val ≠ q.val := fun e => h (Fin.ext e)
  simp [State.setPort, h]
@[simp] theorem State.setCore_setCore (k' : Core) : (s.setCore c k).setCore c k' = s.setCore c k' := by simp [State.setCore]
@[simp] theorem State.setVale_setVale (x' : Vale) : (s.setVale v x).setVale v x' = s.setVale v x' := by simp [State.setVale]
@[simp] theorem State.setChan_setChan (y' : Channel) : (s.setChan ch y).setChan ch y' = s.setChan ch y' := by simp [State.setChan]
@[simp] theorem State.setCore_self : s.setCore c (s.core c) = s := by simp [State.setCore, State.core]
@[simp] theorem State.setVale_self : s.setVale v (s.vale v) = s := by simp [State.setVale, State.vale]
@[simp] theorem State.setChan_self : s.setChan ch (s.chan ch) = s := by simp [State.setChan, State.chan]

/-! ## setLs -/

@[simp] theorem State.setLs_now : (s.setLs who l).now = s.now := by cases who <;> rfl
@[simp] theorem State.setLs_ticks : (s.setLs who l).ticks = s.ticks := by cases who <;> rfl
@[simp] theorem State.setLs_draws : (s.setLs who l).draws = s.draws := by cases who <;> rfl
@[simp] theorem State.setLs_turn : (s.setLs who l).turn = s.turn := by cases who <;> rfl
@[simp] theorem State.setLs_agenda : (s.setLs who l).agenda = s.agenda := by cases who <;> rfl
@[simp] theorem State.setLs_stalled : (s.setLs who l).stalled = s.stalled := by cases who <;> rfl
@[simp] theorem State.setLs_dram : (s.setLs who l).dram = s.dram := by cases who <;> rfl
@[simp] theorem State.setLs_tags : (s.setLs who l).tags = s.tags := by cases who <;> rfl
@[simp] theorem State.setLs_pages : (s.setLs who l).pages = s.pages := by cases who <;> rfl
@[simp] theorem State.setLs_l2 : (s.setLs who l).l2 = s.l2 := by cases who <;> rfl
@[simp] theorem State.setLs_bulk : (s.setLs who l).bulk = s.bulk := by cases who <;> rfl
@[simp] theorem State.setLs_chunk : (s.setLs who l).chunk = s.chunk := by cases who <;> rfl
@[simp] theorem State.setLs_bold : (s.setLs who l).bold = s.bold := by cases who <;> rfl
@[simp] theorem State.setLs_split : (s.setLs who l).split = s.split := by cases who <;> rfl
@[simp] theorem State.setLs_poison : (s.setLs who l).poison = s.poison := by cases who <;> rfl
@[simp] theorem State.setLs_vales : (s.setLs who l).vales = s.vales := by cases who <;> rfl
@[simp] theorem State.setLs_chans : (s.setLs who l).chans = s.chans := by cases who <;> rfl
@[simp] theorem State.setLs_hbm : (s.setLs who l).hbm = s.hbm := by cases who <;> rfl
@[simp] theorem State.setLs_ports : (s.setLs who l).ports = s.ports := by cases who <;> rfl
@[simp] theorem State.setLs_sec : (s.setLs who l).sec = s.sec := by cases who <;> rfl
@[simp] theorem State.setLs_hub : (s.setLs who l).hub = s.hub := by cases who <;> rfl
@[simp] theorem State.setLs_outbox : (s.setLs who l).outbox = s.outbox := by cases who <;> rfl
@[simp] theorem State.vale_setLs : (s.setLs who l).vale w = s.vale w := by cases who <;> rfl
@[simp] theorem State.chan_setLs : (s.setLs who l).chan dh = s.chan dh := by cases who <;> rfl
@[simp] theorem State.ls_setLs_same : (s.setLs who l).ls who = l := by cases who <;> simp [State.setLs, State.ls]
@[simp] theorem State.ls_setLs_other (who' : LeadId) (h : who ≠ who') : (s.setLs who l).ls who' = s.ls who' := by
  cases who with
  | mgmt => cases who' with
    | mgmt => exact absurd rfl h
    | core d => rfl
  | core c => cases who' with
    | mgmt => rfl
    | core d => simp [State.setLs, State.ls, State.core_setCore_other _ _ _ _ (fun e => h (congrArg LeadId.core e))]
@[simp] theorem State.setLs_fw : (s.setLs who l).mgmt.fw = s.mgmt.fw := by cases who <;> rfl
@[simp] theorem State.setLs_mgmt_core : (s.setLs (.core c) l).mgmt = s.mgmt := rfl
@[simp] theorem State.setLs_cores_mgmt : (s.setLs .mgmt l).cores = s.cores := rfl
@[simp] theorem State.core_setLs_same : (s.setLs (.core c) l).core c = { s.core c with ls := l } := by simp [State.setLs]
@[simp] theorem State.core_setLs_other (h : who ≠ .core d) : (s.setLs who l).core d = s.core d := by
  cases who with
  | mgmt => rfl
  | core c => exact State.core_setCore_other s c d _ (fun e => h (congrArg LeadId.core e))
@[simp] theorem State.setLs_self : s.setLs who (s.ls who) = s := by
  cases who with
  | mgmt => rfl
  | core c => exact State.setCore_self s c

/-! ## The parts of a state that is given field by field -/

@[simp] theorem State.core_mk {n t dr tu ag st dm tg pg l2 bk cu bo sp po m cs vs xs hb ps sc hu ob} :
    (State.mk n t dr tu ag st dm tg pg l2 bk cu bo sp po m cs vs xs hb ps sc hu ob).core c = cs[c.val] := rfl
@[simp] theorem State.vale_mk {n t dr tu ag st dm tg pg l2 bk cu bo sp po m cs vs xs hb ps sc hu ob} :
    (State.mk n t dr tu ag st dm tg pg l2 bk cu bo sp po m cs vs xs hb ps sc hu ob).vale v = vs[v.val] := rfl
@[simp] theorem State.chan_mk {n t dr tu ag st dm tg pg l2 bk cu bo sp po m cs vs xs hb ps sc hu ob} :
    (State.mk n t dr tu ag st dm tg pg l2 bk cu bo sp po m cs vs xs hb ps sc hu ob).chan ch = xs[ch.val] := rfl
@[simp] theorem State.ls_mk_mgmt {n t dr tu ag st dm tg pg l2 bk cu bo sp po m cs vs xs hb ps sc hu ob} :
    (State.mk n t dr tu ag st dm tg pg l2 bk cu bo sp po m cs vs xs hb ps sc hu ob).ls .mgmt = m.ls := rfl
@[simp] theorem State.ls_mk_core {n t dr tu ag st dm tg pg l2 bk cu bo sp po m cs vs xs hb ps sc hu ob} :
    (State.mk n t dr tu ag st dm tg pg l2 bk cu bo sp po m cs vs xs hb ps sc hu ob).ls (.core c) = cs[c.val].ls := rfl
@[simp] theorem State.cores_get : s.cores[c.val] = s.core c := rfl
@[simp] theorem State.vales_get : s.vales[v.val] = s.vale v := rfl
@[simp] theorem State.chans_get : s.chans[ch.val] = s.chan ch := rfl
@[simp] theorem State.ls_mgmt : s.ls .mgmt = s.mgmt.ls := rfl
@[simp] theorem State.ls_core : s.ls (.core c) = (s.core c).ls := rfl


/-! ## Engines of a core -/

@[simp] theorem Core.eng_setEng_same (e : Fin 4) (x : Engine) : (k.setEng e x).eng e = x := by simp [Core.eng, Core.setEng]
@[simp] theorem Core.eng_setEng_other (e f : Fin 4) (x : Engine) (h : e ≠ f) : (k.setEng e x).eng f = k.eng f := by
  have h : e.val ≠ f.val := fun i => h (Fin.ext i)
  simp [Core.eng, Core.setEng, h]
@[simp] theorem Core.setEng_ls (e : Fin 4) (x : Engine) : (k.setEng e x).ls = k.ls := rfl
@[simp] theorem Core.setEng_steer (e : Fin 4) (x : Engine) : (k.setEng e x).steer = k.steer := rfl
@[simp] theorem Core.setEng_lane (e : Fin 4) (x : Engine) : (k.setEng e x).lane = k.lane := rfl
@[simp] theorem Core.setEng_recSeq (e : Fin 4) (x : Engine) : (k.setEng e x).recSeq = k.recSeq := rfl
@[simp] theorem Core.setEng_scratch (e : Fin 4) (x : Engine) : (k.setEng e x).scratch = k.scratch := rfl
@[simp] theorem Core.setEng_l1 (e : Fin 4) (x : Engine) : (k.setEng e x).l1 = k.l1 := rfl
@[simp] theorem Core.setEng_spanSeq (e : Fin 4) (x : Engine) : (k.setEng e x).spanSeq = k.spanSeq := rfl
@[simp] theorem Core.setEng_basins (e : Fin 4) (x : Engine) : (k.setEng e x).basins = k.basins := rfl
@[simp] theorem Core.setEng_useSeq (e : Fin 4) (x : Engine) : (k.setEng e x).useSeq = k.useSeq := rfl
@[simp] theorem Core.setEng_pins (e : Fin 4) (x : Engine) : (k.setEng e x).pins = k.pins := rfl
@[simp] theorem Core.setEng_pinFill (e : Fin 4) (x : Engine) : (k.setEng e x).pinFill = k.pinFill := rfl
@[simp] theorem Core.setEng_banks (e : Fin 4) (x : Engine) : (k.setEng e x).banks = k.banks := rfl
@[simp] theorem Core.setEng_banksAt (e : Fin 4) (x : Engine) : (k.setEng e x).banksAt = k.banksAt := rfl
@[simp] theorem Core.setEng_scales (e : Fin 4) (x : Engine) : (k.setEng e x).scales = k.scales := rfl
@[simp] theorem Core.setEng_task (e : Fin 4) (x : Engine) : (k.setEng e x).task = k.task := rfl
@[simp] theorem Core.setEng_run (e : Fin 4) (x : Engine) : (k.setEng e x).run = k.run := rfl
@[simp] theorem Core.setEng_stop (e : Fin 4) (x : Engine) : (k.setEng e x).stop = k.stop := rfl
@[simp] theorem Core.setEng_commit (e : Fin 4) (x : Engine) : (k.setEng e x).commit = k.commit := rfl
@[simp] theorem Core.setEng_isSealed (e : Fin 4) (x : Engine) : (k.setEng e x).isSealed = k.isSealed := rfl
@[simp] theorem Core.setEng_snap (e : Fin 4) (x : Engine) : (k.setEng e x).snap = k.snap := rfl
@[simp] theorem Core.setEng_opening (e : Fin 4) (x : Engine) : (k.setEng e x).opening = k.opening := rfl
@[simp] theorem Core.setEng_bankOut (e : Fin 4) (x : Engine) : (k.setEng e x).bankOut = k.bankOut := rfl
@[simp] theorem Core.setEng_bankStats (e : Fin 4) (x : Engine) : (k.setEng e x).bankStats = k.bankStats := rfl
@[simp] theorem Core.setEng_laneFault (e : Fin 4) (x : Engine) : (k.setEng e x).laneFault = k.laneFault := rfl
@[simp] theorem Core.setEng_poisoned (e : Fin 4) (x : Engine) : (k.setEng e x).poisoned = k.poisoned := rfl
@[simp] theorem Core.setEng_due (e : Fin 4) (x : Engine) : (k.setEng e x).due = k.due := rfl
@[simp] theorem Core.setEng_opens (e : Fin 4) (x : Engine) : (k.setEng e x).opens = k.opens := rfl
@[simp] theorem Core.setEng_waitsOn (e : Fin 4) (x : Engine) : (k.setEng e x).waitsOn = k.waitsOn := rfl
@[simp] theorem Core.setEng_starved (e : Fin 4) (x : Engine) : (k.setEng e x).starved = k.starved := rfl
@[simp] theorem Core.setEng_resumePast (e : Fin 4) (x : Engine) : (k.setEng e x).resumePast = k.resumePast := rfl
@[simp] theorem Core.setEng_result (e : Fin 4) (x : Engine) : (k.setEng e x).result = k.result := rfl
@[simp] theorem Core.setEng_ctxValid (e : Fin 4) (x : Engine) : (k.setEng e x).ctxValid = k.ctxValid := rfl
@[simp] theorem Core.setEng_cCause (e : Fin 4) (x : Engine) : (k.setEng e x).cCause = k.cCause := rfl
@[simp] theorem Core.setEng_cEpc (e : Fin 4) (x : Engine) : (k.setEng e x).cEpc = k.cEpc := rfl
@[simp] theorem Core.setEng_cTval (e : Fin 4) (x : Engine) : (k.setEng e x).cTval = k.cTval := rfl
@[simp] theorem Core.setEng_ctxAddr (e : Fin 4) (x : Engine) : (k.setEng e x).ctxAddr = k.ctxAddr := rfl
@[simp] theorem Core.setEng_uncorrected (e : Fin 4) (x : Engine) : (k.setEng e x).uncorrected = k.uncorrected := rfl
@[simp] theorem Core.setEng_corrected (e : Fin 4) (x : Engine) : (k.setEng e x).corrected = k.corrected := rfl
@[simp] theorem Core.setEng_mcLast (e : Fin 4) (x : Engine) : (k.setEng e x).mcLast = k.mcLast := rfl

/-! ## A state that waits -/

@[simp] theorem State.waiting_now : s.waiting.now = s.now := rfl
@[simp] theorem State.waiting_ticks : s.waiting.ticks = s.ticks := rfl
@[simp] theorem State.waiting_draws : s.waiting.draws = s.draws := rfl
@[simp] theorem State.waiting_turn : s.waiting.turn = s.turn := rfl
@[simp] theorem State.waiting_agenda : s.waiting.agenda = s.agenda := rfl
@[simp] theorem State.waiting_dram : s.waiting.dram = s.dram := rfl
@[simp] theorem State.waiting_tags : s.waiting.tags = s.tags := rfl
@[simp] theorem State.waiting_pages : s.waiting.pages = s.pages := rfl
@[simp] theorem State.waiting_l2 : s.waiting.l2 = s.l2 := rfl
@[simp] theorem State.waiting_bulk : s.waiting.bulk = s.bulk := rfl
@[simp] theorem State.waiting_chunk : s.waiting.chunk = s.chunk := rfl
@[simp] theorem State.waiting_bold : s.waiting.bold = s.bold := rfl
@[simp] theorem State.waiting_split : s.waiting.split = s.split := rfl
@[simp] theorem State.waiting_poison : s.waiting.poison = s.poison := rfl
@[simp] theorem State.waiting_mgmt : s.waiting.mgmt = s.mgmt := rfl
@[simp] theorem State.waiting_cores : s.waiting.cores = s.cores := rfl
@[simp] theorem State.waiting_vales : s.waiting.vales = s.vales := rfl
@[simp] theorem State.waiting_chans : s.waiting.chans = s.chans := rfl
@[simp] theorem State.waiting_hbm : s.waiting.hbm = s.hbm := rfl
@[simp] theorem State.waiting_ports : s.waiting.ports = s.ports := rfl
@[simp] theorem State.waiting_sec : s.waiting.sec = s.sec := rfl
@[simp] theorem State.waiting_hub : s.waiting.hub = s.hub := rfl
@[simp] theorem State.waiting_outbox : s.waiting.outbox = s.outbox := rfl
@[simp] theorem State.waiting_stalled : s.waiting.stalled = true := rfl

end Sys2Proof.Machine
end

