-- ==== Sys2Proof/Laws/Ops.lean ====
section
/-! SUPPORT. Laws/Ops.lean: for each shared operation, what it can do: an issue boundary, a report, an instruction with a result, a
lane word, writes of memory. -/
namespace Sys2Proof.Machine
set_option Elab.async false

variable {s : State} {who : LeadId} {i : Instr}

/-! ## Lead instructions at issue (R102, R297, R298, R306) -/

theorem leadStep_next (f : LeadId → State → Issue) (h : leadInTurn s = some who) :
    leadStep i f s = .next (issue i who s (f who s)) := by simp [leadStep, h]

theorem leadStep_idle (f : LeadId → State → Issue) (h : leadInTurn s = none) : leadStep i f s = .next s := by simp [leadStep, h]

theorem leadStep_total (f : LeadId → State → Issue) : ∃ t, leadStep i f s = .next t := by
  cases h : leadInTurn s with
  | none => exact ⟨s, leadStep_idle f h⟩
  | some who => exact ⟨_, leadStep_next f h⟩

/-- No access holds the lead slice back (log 8). -/
def noneHolds (s : State) (who : LeadId) : Prop := ((s.ls who).holdsBack fun _ => true) = false

/-- At an issue boundary at which the instruction issues, each outcome of its meaning becomes what it says. -/
theorem issue_ready (h : canIssue s who = true) (hp : firstReport s who = none) (hh : noneHolds s who)
    (hc : committed s who = false) (hd : dueReport s who = none) (r : Issue) :
    issue i who s r = match r with
      | .done t => { t with stalled := false }
      | .trap code tval => report s who code (s.ls who).pc tval
      | .denied t code tval => report t who code (s.ls who).pc tval
      | .poison tval => report (logLead s who) who 353 (s.ls who).pc tval
      | .wait => s.waiting
      | .hold t => t.waiting := by
  unfold noneHolds at hh
  cases r <;> simp [issue, h, hp, hh, hc, hd]

/-- With no access in its queues that can still fail, none holds the slice back. -/
theorem noneHolds_of_empty (h : (s.ls who).held = []) : noneHolds s who := by simp [noneHolds, LeadSlice.holdsBack, h]

/-- Behind an access that holds back, an instruction has its whole effect, and can be taken back, or it waits. -/
theorem issueBehind_cases (r : Issue) : issueBehind i s r = s.waiting ∨
    ∃ t, r = .done t ∧ speculable i = true ∧ issueBehind i s r = { t with stalled := false } := by
  cases r with
  | done t => cases h : speculable i with
    | true => exact .inr ⟨t, rfl, rfl, by simp [issueBehind, h]⟩
    | false => left; simp [issueBehind, h]
  | _ => left; rfl

/-- Whatever stands before it, an instruction at an issue boundary waits, is reported in place of another fault, raises a cause of its
own, has its effect, or has a part of it and waits. -/
theorem issue_cases (r : Issue) :
    issue i who s r = s.waiting ∨
    (∃ p : Pending, issue i who s r = takePending s who p ∧ (firstReport s who = some p ∨ dueReport s who = some p)) ∨
    (issue i who s r = report s who 327 (s.ls who).pc (wordOf i) ∧ committed s who = true ∧ endsRegion i = false) ∨
    (∃ code tval, r = .trap code tval ∧ issue i who s r = report s who code (s.ls who).pc tval) ∨
    (∃ t code tval, r = .denied t code tval ∧ issue i who s r = report t who code (s.ls who).pc tval) ∨
    (∃ tval, r = .poison tval ∧ issue i who s r = report (logLead s who) who 353 (s.ls who).pc tval) ∨
    (∃ t, r = .done t ∧ issue i who s r = { t with stalled := false }) ∨ (∃ t, r = .hold t ∧ issue i who s r = t.waiting) := by
  cases hi : canIssue s who with
  | false => left; simp [issue, hi]
  | true =>
    cases hp : firstReport s who with
    | some p => exact .inr (.inl ⟨p, by simp [issue, hi, hp], .inl rfl⟩)
    | none =>
      cases hh : ((s.ls who).holdsBack fun _ => true) with
      | true =>
        cases hf : failDue (s.ls who) with
        | true => left; simp [issue, hi, hp, hh, hf]
        | false =>
          cases hd : dueReport s who with
          | some p => exact .inr (.inl ⟨p, by simp [issue, hi, hp, hh, hf, hd], .inr rfl⟩)
          | none =>
            cases hc : committed s who with
            | true => left; simp [issue, hi, hp, hh, hf, hd, hc]
            | false =>
              have e : issue i who s r = issueBehind i s r := by simp [issue, hi, hp, hh, hf, hd, hc]
              rw [e]
              rcases issueBehind_cases (i := i) (s := s) r with h | ⟨t, rfl, _, h⟩
              · exact .inl h
              · exact .inr (.inr (.inr (.inr (.inr (.inr (.inl ⟨t, rfl, h⟩))))))
      | false =>
        cases hc : (committed s who && !endsRegion i) with
        | true =>
          have := Bool.and_eq_true_iff.mp hc
          exact .inr (.inr (.inl ⟨by simp [issue, hi, hp, hh, this.1, by simpa using this.2], this.1, by simpa using this.2⟩))
        | false =>
          cases r with
          | trap code tval => exact .inr (.inr (.inr (.inl ⟨code, tval, rfl, by simp [issue, hi, hp, hh, hc]⟩)))
          | denied t code tval => exact .inr (.inr (.inr (.inr (.inl ⟨t, code, tval, rfl, by simp [issue, hi, hp, hh, hc]⟩))))
          | poison tval => exact .inr (.inr (.inr (.inr (.inr (.inl ⟨tval, rfl, by simp [issue, hi, hp, hh, hc]⟩)))))
          | done t =>
            cases hd : dueReport s who with
            | some p => exact .inr (.inl ⟨p, by simp [issue, hi, hp, hh, hc, hd], .inr rfl⟩)
            | none => exact .inr (.inr (.inr (.inr (.inr (.inr (.inl ⟨t, rfl, by simp [issue, hi, hp, hh, hc, hd]⟩))))))
          | wait =>
            cases hd : dueReport s who with
            | some p => exact .inr (.inl ⟨p, by simp [issue, hi, hp, hh, hc, hd], .inr rfl⟩)
            | none => left; simp [issue, hi, hp, hh, hc, hd]
          | hold t =>
            cases hd : dueReport s who with
            | some p => exact .inr (.inl ⟨p, by simp [issue, hi, hp, hh, hc, hd], .inr rfl⟩)
            | none => exact .inr (.inr (.inr (.inr (.inr (.inr (.inr ⟨t, rfl, by simp [issue, hi, hp, hh, hc, hd]⟩))))))

/-! ## Reports (R299, R300) -/

section
variable (code : BitVec 12) (epc tval : Word)

/-- The three CSRs after a report, and the firmware trap entry of the management core. -/
theorem report_ls : (report s who code epc tval).ls who = { s.ls who with
    cause := code, epc := epc, tval := tval
    pc := if who = .mgmt then 0x00FF000000000100 else (s.ls who).pc } := by
  cases who <;> simp [report, State.ls, State.setLs]

/-- A task is trapped, its CSRs are copied into the core block, and nothing else of its core changes. -/
theorem report_core (c : Fin 256) : (report s (.core c) code epc tval).core c = { s.core c with
    ls := { s.ls (.core c) with cause := code, epc := epc, tval := tval }
    opening := none, cCause := code, cEpc := epc, cTval := tval, run := .trapped
    waitsOn := none, starved := false, opens := false, pinFill := none, enqGot := []
    resumePast := decide (code = 324) || decide (code = 325) } := by
  simp [report]

theorem report_core_other (c : Fin 256) (h : who ≠ .core c) : (report s who code epc tval).core c = s.core c := by
  cases who with
  | mgmt => rfl
  | core d => simp [report, State.core_setCore_other _ d c _ (fun e => h (congrArg LeadId.core e))]

@[simp] theorem report_dram : (report s who code epc tval).dram = s.dram := by cases who <;> rfl
@[simp] theorem report_tags : (report s who code epc tval).tags = s.tags := by cases who <;> rfl
@[simp] theorem report_pages : (report s who code epc tval).pages = s.pages := by cases who <;> rfl
@[simp] theorem report_l2 : (report s who code epc tval).l2 = s.l2 := by cases who <;> rfl
@[simp] theorem report_bulk : (report s who code epc tval).bulk = s.bulk := by cases who <;> rfl
@[simp] theorem report_chunk : (report s who code epc tval).chunk = s.chunk := by cases who <;> rfl
@[simp] theorem report_bold : (report s who code epc tval).bold = s.bold := by cases who <;> rfl
@[simp] theorem report_poison : (report s who code epc tval).poison = s.poison := by cases who <;> rfl
@[simp] theorem report_vales : (report s who code epc tval).vales = s.vales := by cases who <;> rfl
@[simp] theorem report_chans : (report s who code epc tval).chans = s.chans := by cases who <;> rfl
@[simp] theorem report_hub : (report s who code epc tval).hub = s.hub := by cases who <;> rfl
@[simp] theorem report_sec : (report s who code epc tval).sec = s.sec := by cases who <;> rfl
@[simp] theorem report_ports : (report s who code epc tval).ports = s.ports := by cases who <;> rfl
@[simp] theorem report_hbm : (report s who code epc tval).hbm = s.hbm := by cases who <;> rfl
@[simp] theorem report_outbox : (report s who code epc tval).outbox = s.outbox := by cases who <;> rfl
@[simp] theorem report_now : (report s who code epc tval).now = s.now := by cases who <;> rfl
@[simp] theorem report_turn : (report s who code epc tval).turn = s.turn := by cases who <;> rfl
@[simp] theorem report_agenda : (report s who code epc tval).agenda = s.agenda := by cases who <;> rfl
@[simp] theorem report_stalled : (report s who code epc tval).stalled = false := by cases who <;> rfl
@[simp] theorem report_fw : (report s who code epc tval).mgmt.fw = s.mgmt.fw := by cases who <;> rfl

theorem report_scratch (c : Fin 256) : ((report s who code epc tval).core c).scratch = (s.core c).scratch := by
  by_cases h : who = .core c
  · subst h; rw [report_core]
  · rw [report_core_other code epc tval c h]

end

/-! ## Instructions with a result (R77, R102, R103) -/

theorem runInTurn_of_lead (h : leadInTurn s = some who) : runInTurn s = none := by
  unfold leadInTurn at h
  unfold runInTurn
  split at h <;> simp_all

theorem readSlot_val {l : LeadSlice} {a : BitVec 5} {x : Word} (h : readSrc l a = some x) : readSlot l a = .val x := by
  unfold readSrc at h
  split at h <;> simp_all

/-- With its sources present, an instruction of the lead slice retires with its result. -/
theorem valueStep_lead (d : BitVec 5) (srcs : List (BitVec 5)) (f : List Word → Word) (vs : List Word)
    (h : leadInTurn s = some who) (hv : srcs.mapM (readSrc (s.ls who)) = some vs) :
    valueStep i d srcs f s = .next (issue i who s (retire s who d (f vs))) := by
  simp [valueStep, runInTurn_of_lead h, leadStep_next _ h, hv]

/-- With a source pending, it waits. -/
theorem valueStep_pending (d : BitVec 5) (srcs : List (BitVec 5)) (f : List Word → Word) (h : leadInTurn s = some who)
    (hv : srcs.mapM (readSrc (s.ls who)) = none) : valueStep i d srcs f s = .next (issue i who s .wait) := by
  simp [valueStep, runInTurn_of_lead h, leadStep_next _ h, hv]

/-- In a bank run it has its result there. -/
theorem valueStep_run (d : BitVec 5) (srcs : List (BitVec 5)) (f : List Word → Word) {ch r sv run}
    (h : runInTurn s = some (ch, r, sv, run)) : valueStep i d srcs f s =
      .next (setRun s ch r sv { runWrite run d (f (srcs.map (runSrc run))) with pc := run.pc + 1 }) := by
  simp [valueStep, h]

theorem valueStep_total (d : BitVec 5) (srcs : List (BitVec 5)) (f : List Word → Word) :
    ∃ t, valueStep i d srcs f s = .next t := by
  unfold valueStep
  split
  · exact ⟨_, rfl⟩
  · exact leadStep_total _

theorem mapM_one (l : LeadSlice) (a : BitVec 5) {x : Word} (h : readSrc l a = some x) : [a].mapM (readSrc l) = some [x] := by
  simp [h]

theorem mapM_two (l : LeadSlice) (a b : BitVec 5) {x y : Word} (h : readSrc l a = some x) (k : readSrc l b = some y) :
    [a, b].mapM (readSrc l) = some [x, y] := by simp [h, k]

theorem mapM_three (l : LeadSlice) (a b c : BitVec 5) {x y z : Word} (h : readSrc l a = some x) (k : readSrc l b = some y)
    (m : readSrc l c = some z) : [a, b, c].mapM (readSrc l) = some [x, y, z] := by simp [h, k, m]

/-- Of a lead slice a result changes the belt and the named registers only. -/
theorem writeSlot_frame (l : LeadSlice) (d : BitVec 5) (x : Slot) :
    { writeSlot l d x with belt := l.belt, n := l.n } = l := by
  unfold writeSlot
  split <;> rfl

theorem writeSlot_belt (l : LeadSlice) (x : Slot) (k : Nat) (h : k + 1 < 16) :
    (writeSlot l 0 x).belt[k + 1] = l.belt[k] := by
  simp [writeSlot, beltPush]

theorem writeSlot_top (l : LeadSlice) (x : Slot) : (writeSlot l 0 x).belt[0] = x := by simp [writeSlot, beltPush]

theorem writeSlot_named (l : LeadSlice) (d : BitVec 5) (x : Slot) (h : d ≠ 0) :
    writeSlot l d x = { l with n := l.n.set (d.extractLsb' 0 4).toFin x } := if_neg h

/-! ## Lane words (R131 to R143) -/

theorem laneStep_next (f : LaneCtx → LaneRes) {c : Fin 256} {op : Nat} {w : LaneWord} {t : Task} (h : s.turn = .lane c)
    (hi : laneOf i = some (op, w)) (ht : (s.core c).task = some t) :
    laneStep i f s = .next (laneReach s c w (laneTval i) fun s => laneIssue s c t op w (laneTval i) f) := by
  simp [laneStep, h, hi, ht]

theorem laneStep_total (f : LaneCtx → LaneRes) : ∃ t, laneStep i f s = .next t := by
  unfold laneStep
  split
  · split <;> exact ⟨_, rfl⟩
  · exact ⟨_, rfl⟩

/-! ## Writes of memory (R40, R204) -/

section
variable (key pa : Nat) (bs : List Byte)

@[simp] theorem dramRekey_cores : (dramRekey s key pa).cores = s.cores := by unfold dramRekey; split <;> rfl
@[simp] theorem dramRekey_vales : (dramRekey s key pa).vales = s.vales := by unfold dramRekey; split <;> rfl
@[simp] theorem dramRekey_mgmt : (dramRekey s key pa).mgmt = s.mgmt := by unfold dramRekey; split <;> rfl
@[simp] theorem dramRekey_sec : (dramRekey s key pa).sec = s.sec := by unfold dramRekey; split <;> rfl
@[simp] theorem dramRekey_hub : (dramRekey s key pa).hub = s.hub := by unfold dramRekey; split <;> rfl
@[simp] theorem dramRekey_chans : (dramRekey s key pa).chans = s.chans := by unfold dramRekey; split <;> rfl

@[simp] theorem dramWrite_cores : ∀ (bs : List Byte) (s : State) (pa : Nat), (dramWrite s key pa bs).cores = s.cores
  | [], _, _ => rfl
  | b :: bs, s, pa => by rw [dramWrite, dramWrite_cores bs]; simp [dramSet]
@[simp] theorem dramWrite_vales : ∀ (bs : List Byte) (s : State) (pa : Nat), (dramWrite s key pa bs).vales = s.vales
  | [], _, _ => rfl
  | b :: bs, s, pa => by rw [dramWrite, dramWrite_vales bs]; simp [dramSet]
@[simp] theorem dramWrite_mgmt : ∀ (bs : List Byte) (s : State) (pa : Nat), (dramWrite s key pa bs).mgmt = s.mgmt
  | [], _, _ => rfl
  | b :: bs, s, pa => by rw [dramWrite, dramWrite_mgmt bs]; simp [dramSet]
@[simp] theorem dramWrite_sec : ∀ (bs : List Byte) (s : State) (pa : Nat), (dramWrite s key pa bs).sec = s.sec
  | [], _, _ => rfl
  | b :: bs, s, pa => by rw [dramWrite, dramWrite_sec bs]; simp [dramSet]
@[simp] theorem dramWrite_hub : ∀ (bs : List Byte) (s : State) (pa : Nat), (dramWrite s key pa bs).hub = s.hub
  | [], _, _ => rfl
  | b :: bs, s, pa => by rw [dramWrite, dramWrite_hub bs]; simp [dramSet]
@[simp] theorem dramWrite_chans : ∀ (bs : List Byte) (s : State) (pa : Nat), (dramWrite s key pa bs).chans = s.chans
  | [], _, _ => rfl
  | b :: bs, s, pa => by rw [dramWrite, dramWrite_chans bs]; simp [dramSet]

/-- A recall changes L1s only. -/
theorem recallOwn_frame (e : Option (Fin 256)) (w : Nat) : { recallOwn s e w with cores := s.cores } = s := by
  unfold recallOwn
  split <;> rfl

@[simp] theorem recallOwn_dram (e : Option (Fin 256)) (w : Nat) : (recallOwn s e w).dram = s.dram := by
  unfold recallOwn
  split <;> rfl
@[simp] theorem recallOwn_tags (e : Option (Fin 256)) (w : Nat) : (recallOwn s e w).tags = s.tags := by
  unfold recallOwn
  split <;> rfl

/-- A recall takes L1 words and nothing else of a core (R203, R204). -/
theorem recallOwn_core (e : Option (Fin 256)) (w : Nat) (c : Fin 256) :
    ∃ l1, (recallOwn s e w).core c = { s.core c with l1 := l1 } := by
  unfold recallOwn
  split
  · exact ⟨_, rfl⟩
  · simp only [State.core, Fin.getElem_fin, Vector.getElem_mapFinIdx]
    split
    · exact ⟨_, rfl⟩
    · exact ⟨_, rfl⟩

/-- While no core holds an exclusive copy, a recall changes nothing. -/
theorem recallRange_none (h : (s.cores.toList.all fun k => k.l1.all fun y => decide (y.rq ≠ 0)) = true) (e : Option (Fin 256)) (n : Nat) :
    recallRange s e pa n = s := by
  unfold recallRange
  rw [if_pos h]

/-- A recall of bytes takes L1 words and nothing else of the state. -/
theorem recallRange_frame (e : Option (Fin 256)) (n : Nat) : { recallRange s e pa n with cores := s.cores } = s ∧
    ∀ c, ∃ l1, (recallRange s e pa n).core c = { s.core c with l1 := l1 } := by
  have all : ∀ (l : List Nat) (s : State),
      { l.foldl (fun s i => recallOwn s e (pa / 8 + i)) s with cores := s.cores } = s ∧
      ∀ c, ∃ l1, (l.foldl (fun s i => recallOwn s e (pa / 8 + i)) s).core c = { s.core c with l1 := l1 } := by
    intro l
    induction l with
    | nil => intro s; exact ⟨rfl, fun c => ⟨_, rfl⟩⟩
    | cons i l ih =>
      intro s
      obtain ⟨h, hc⟩ := ih (recallOwn s e (pa / 8 + i))
      refine ⟨?_, fun c => ?_⟩
      · exact (congrArg (fun t : State => { t with cores := s.cores }) h).trans (recallOwn_frame e _)
      · obtain ⟨a, ha⟩ := hc c
        obtain ⟨b, hb⟩ := recallOwn_core (s := s) e (pa / 8 + i) c
        exact ⟨a, by rw [List.foldl_cons, ha, hb]⟩
  unfold recallRange
  split
  · exact ⟨rfl, fun c => ⟨_, rfl⟩⟩
  · exact all _ s

/-- Bytes that are read or written at their homes change what the L2 slices hold and nothing else (R204; log 41). -/
theorem touchLines_frame (v : Fin 16) (n : Nat) (dirty : Bool) : ∃ l2, touchLines s v pa n dirty = { s with l2 := l2 } := by
  have one : ∀ (s : State) line, ∃ l2, touchLine s v line dirty = { s with l2 := l2 } := by
    intro s line
    unfold touchLine
    split
    · split
      · exact ⟨_, rfl⟩
      · exact ⟨_, rfl⟩
    · exact ⟨_, rfl⟩
  have all : ∀ (l : List Nat) (s : State),
      ∃ l2, l.foldl (fun s i => touchLine s v (pa / 128 + i) dirty) s = { s with l2 := l2 } := by
    intro l
    induction l with
    | nil => intro s; exact ⟨_, rfl⟩
    | cons i l ih =>
      intro s
      obtain ⟨a, ha⟩ := one s (pa / 128 + i)
      obtain ⟨b, hb⟩ := ih (touchLine s v (pa / 128 + i) dirty)
      exact ⟨b, by rw [List.foldl_cons, hb, ha]⟩
  exact all _ s

/-- A write of a vale's bytes keeps DRAM in canonical form. -/
theorem valeWrite_wf (v : Fin 16) (e : Option (Fin 256)) (h : DramWf s) : DramWf (valeWrite s v e pa bs) := by
  have hr : DramWf (touchLines (recallRange s e pa bs.length) v pa bs.length true) := by
    obtain ⟨l2, hl⟩ := touchLines_frame (s := recallRange s e pa bs.length) pa v bs.length true
    have := (recallRange_frame (s := s) pa e bs.length).1
    have hd : (recallRange s e pa bs.length).dram = s.dram := (congrArg State.dram this :)
    have ht : (recallRange s e pa bs.length).tags = s.tags := (congrArg State.tags this :)
    unfold DramWf at *
    rw [hl]
    exact ⟨by rw [hd]; exact h.1, by rw [ht]; exact h.2⟩
  exact dramWrite_wf _ _ pa bs hr

end

/-! ## Walks and held banks (R195, R206, R224) -/

/-- What a walk reads it recalls; it changes L1 words and nothing else of the state. -/
theorem noteWalk_frame (v : Fin 16) (va : Nat) : { noteWalk s v va with cores := s.cores } = s ∧
    ∀ c, ∃ l1, (noteWalk s v va).core c = { s.core c with l1 := l1 } := by
  have all : ∀ (l : List (Nat × Nat)) (s : State),
      { l.foldl (fun s r => recallRange s none r.1 r.2) s with cores := s.cores } = s ∧
      ∀ c, ∃ l1, (l.foldl (fun s r => recallRange s none r.1 r.2) s).core c = { s.core c with l1 := l1 } := by
    intro l
    induction l with
    | nil => intro s; exact ⟨rfl, fun c => ⟨_, rfl⟩⟩
    | cons r l ih =>
      intro s
      obtain ⟨h, hc⟩ := ih (recallRange s none r.1 r.2)
      obtain ⟨g, gc⟩ := recallRange_frame (s := s) r.1 none r.2
      refine ⟨?_, fun c => ?_⟩
      · exact (congrArg (fun t : State => { t with cores := s.cores }) h).trans g
      · obtain ⟨a, ha⟩ := hc c
        obtain ⟨b, hb⟩ := gc c
        exact ⟨a, by rw [List.foldl_cons, ha, hb]⟩
  exact all _ s

/-- While no core holds an exclusive copy, a walk changes nothing. -/
theorem noteWalk_none (h : (s.cores.toList.all fun k => k.l1.all fun y => decide (y.rq ≠ 0)) = true) (v : Fin 16) (va : Nat) :
    noteWalk s v va = s := by
  unfold noteWalk
  induction walkReads s v va with
  | nil => rfl
  | cons r l ih => rw [List.foldl_cons, recallRange_none _ h, ih]

/-- While no channel holds a bank, no access waits for one. -/
theorem bankHeld_none (h : s.bulk = []) (e : Option (Fin 256 × Fin 4)) (b : Nat) : bankHeld s e b = false := by simp [bankHeld, h]

theorem walkHeld_none (h : s.bulk = []) (v : Fin 16) (e : Option (Fin 256 × Fin 4)) (va : Nat) : walkHeld s v e va = false := by
  simp [walkHeld, h]

theorem vaHeld_none (h : s.bulk = []) (v : Fin 16) (e : Option (Fin 256 × Fin 4)) (va : Nat) (acc : Access) :
    vaHeld s v e va acc = false := by simp [vaHeld, h]

theorem rangeHeld_none (h : s.bulk = []) (v : Fin 16) (va n : Nat) (acc : Access) : rangeHeld s v va n acc = false := by
  simp [rangeHeld, h]

end Sys2Proof.Machine
end

