-- ==== Sys2Proof/Laws/PerInstr.lean ====
section
/-! SUPPORT. Laws/PerInstr.lean: the family RoundTrip: for every instruction, decoding its word gives it back (R76 to R97, R286). -/
namespace Sys2Proof.Laws.RoundTrip

-- One theorem after another: a task for each of them at once would take a thread each.
set_option Elab.async false
set_option linter.unusedSimpArgs false

/-- Decoding the word of the instruction, if it has one and is well formed, gives the instruction. -/
def Statement (i : Instr) : Prop := ∀ w, encode i = some w → i.wf = true → decode w = .ok i

theorem badDst_of_dstOk {d : BitVec 5} (h : dstOk d = true) : badDst d = false := by
  revert d; decide

theorem declared (x : BitVec 6) : undeclared (BitVec.allOnes 64) x = false := by
  have hx : x.toNat < 64 := x.isLt
  simp only [undeclared, BitVec.getLsbD_allOnes, hx, decide_true, Bool.not_true]

theorem declaredFork (x : BitVec 6) : undeclared SyncIds.all.forks x = false := declared x

theorem declaredJoin (x : BitVec 6) : undeclared SyncIds.all.joins x = false := declared x

theorem declaredBar (x : BitVec 6) : undeclared SyncIds.all.bars x = false := declared x

theorem jrTail (a : BitVec 5) : (wordLR 5 0#5 a 0#5 0#5 0#6).extractLsb' 0 11 = 0#11 := by revert a; decide

theorem maskLow (k : BitVec 4) : BitVec.extractLsb' (n := 6) 0 2 (0#2 ++ k) = k.extractLsb' 0 2 := by revert k; decide

theorem declaredRange (first : BitVec 6) (count : BitVec 4) (h : first.toNat + count.toNat ≤ 64) :
    regionRangeOk SyncIds.all.bars first count = true := by
  simp only [regionRangeOk, SyncIds.all, List.all_eq_true, List.mem_range, BitVec.getLsbD_allOnes, Bool.and_eq_true, decide_eq_true_eq]
  intro i hi
  omega

theorem lane (op : Nat) (w : LaneWord) (i : Instr) (hop : (BitVec.ofNat 7 op).toNat = op) (h : laneInstr op w = some i)
    (hok : laneOk op w = true) : decodeLane (laneWordBits op w) = .ok i := by
  have hc : laneCause op w = none := by simpa [laneOk] using hok
  simp [decodeLane, laneFields_laneWordBits, laneWord_op, hop, h, hc]


theorem endpointStore (x0 : StoreSource) (x1 : Endpoint) (x2 : BitVec 12) (x3 : Nat) (x4 : Word) : Statement (.endpointStore x0 x1 x2 x3 x4) := by
  intro w h _
  cases h

theorem packetTimeout (x0 : StoreSource) (x1 : Endpoint) : Statement (.packetTimeout x0 x1) := by
  intro w h _
  cases h

theorem imageUnloadComplete (x0 : Fin 16) (x1 : Word) : Statement (.imageUnloadComplete x0 x1) := by
  intro w h _
  cases h

theorem fifoAgePromotion (x0 : Fin 16) (x1 : Fin 3) : Statement (.fifoAgePromotion x0 x1) := by
  intro w h _
  cases h

theorem shadowUpdate (x0 : Fin 16) (x1 : Fin 256) : Statement (.shadowUpdate x0 x1) := by
  intro w h _
  cases h

theorem lock (x0 : Fin 16) : Statement (.lock x0) := by
  intro w h _
  cases h

theorem start (x0 : Fin 16) : Statement (.start x0) := by
  intro w h _
  cases h

theorem stop (x0 : Fin 16) : Statement (.stop x0) := by
  intro w h _
  cases h

theorem report (x0 : Fin 16) : Statement (.report x0) := by
  intro w h _
  cases h

theorem reportComplete (x0 : Fin 16) : Statement (.reportComplete x0) := by
  intro w h _
  cases h

theorem reset (x0 : Fin 16) : Statement (.reset x0) := by
  intro w h _
  cases h

theorem frozenRegisterWrite (x0 : Word) (x1 : Word) (x2 : Option (BitVec 32)) : Statement (.frozenRegisterWrite x0 x1 x2) := by
  intro w h _
  cases h

theorem integrityFailure (x0 : Fin 16) : Statement (.integrityFailure x0) := by
  intro w h _
  cases h

theorem scrubComplete (x0 : Fin 16) : Statement (.scrubComplete x0) := by
  intro w h _
  cases h

theorem mbxPop (x0 : Fin 16) (x1 : Word) : Statement (.mbxPop x0 x1) := by
  intro w h _
  cases h

theorem registerWrite (x0 : Word) (x1 : Word) : Statement (.registerWrite x0 x1) := by
  intro w h _
  cases h

theorem arm (x0 : Fin 64) : Statement (.arm x0) := by
  intro w h _
  cases h

theorem zero (x0 : Fin 64) : Statement (.zero x0) := by
  intro w h _
  cases h

theorem signerSet (x0 : Fin 64) : Statement (.signerSet x0) := by
  intro w h _
  cases h

theorem signerClear (x0 : Fin 64) : Statement (.signerClear x0) := by
  intro w h _
  cases h

theorem resize (x0 : Fin 16) : Statement (.resize x0) := by
  intro w h _
  cases h

theorem clearerr (x0 : Fin 16) : Statement (.clearerr x0) := by
  intro w h _
  cases h

theorem valeKeyWrite (x0 : Fin 16) (x1 : Word) : Statement (.valeKeyWrite x0 x1) := by
  intro w h _
  cases h

theorem valeAsidWrite (x0 : Fin 16) (x1 : Word) : Statement (.valeAsidWrite x0 x1) := by
  intro w h _
  cases h

theorem valePrioWrite (x0 : Fin 16) (x1 : Word) : Statement (.valePrioWrite x0 x1) := by
  intro w h _
  cases h

theorem joiningResourceOwned (x0 : Fin 16) (x1 : Resource) : Statement (.joiningResourceOwned x0 x1) := by
  intro w h _
  cases h

theorem leavingCoreFree (x0 : Fin 16) (x1 : Fin 256) : Statement (.leavingCoreFree x0 x1) := by
  intro w h _
  cases h

theorem rehashSet (x0 : Fin 16) : Statement (.rehashSet x0) := by
  intro w h _
  cases h

theorem migrationEntry (x0 : Fin 16) : Statement (.migrationEntry x0) := by
  intro w h _
  cases h

theorem settleComplete (x0 : Fin 16) : Statement (.settleComplete x0) := by
  intro w h _
  cases h

theorem shoot (x0 : Fin 16) : Statement (.shoot x0) := by
  intro w h _
  cases h

theorem shootComplete (x0 : Fin 16) : Statement (.shootComplete x0) := by
  intro w h _
  cases h

theorem transRootWrite (x0 : Fin 16) (x1 : Word) : Statement (.transRootWrite x0 x1) := by
  intro w h _
  cases h

theorem leaseWrite (x0 : Fin 16) (x1 : Word) : Statement (.leaseWrite x0 x1) := by
  intro w h _
  cases h

theorem ccFrameWrite (x0 : Fin 512) (x1 : Fin 32) (x2 : Word) : Statement (.ccFrameWrite x0 x1 x2) := by
  intro w h _
  cases h

theorem capture (x0 : Fin 256) : Statement (.capture x0) := by
  intro w h _
  cases h

theorem captureComplete (x0 : Fin 256) : Statement (.captureComplete x0) := by
  intro w h _
  cases h

theorem resume (x0 : Fin 256) : Statement (.resume x0) := by
  intro w h _
  cases h

theorem discard (x0 : Fin 256) : Statement (.discard x0) := by
  intro w h _
  cases h

theorem abort (x0 : Fin 256) : Statement (.abort x0) := by
  intro w h _
  cases h

theorem discardProceed (x0 : Fin 256) : Statement (.discardProceed x0) := by
  intro w h _
  cases h

theorem graphAbortComplete (x0 : Fin 16) (x1 : Nat) : Statement (.graphAbortComplete x0 x1) := by
  intro w h _
  cases h

theorem teardown (x0 : Fin 16) : Statement (.teardown x0) := by
  intro w h _
  cases h

theorem gateBanksWrite (x0 : Fin 256) (x1 : Word) : Statement (.gateBanksWrite x0 x1) := by
  intro w h _
  cases h

theorem gateWaysWrite (x0 : Fin 128) (x1 : Word) : Statement (.gateWaysWrite x0 x1) := by
  intro w h _
  cases h

theorem powerLimiting (x0 : BitVec 12) (x1 : BitVec 10) : Statement (.powerLimiting x0 x1) := by
  intro w h _
  cases h

theorem activateDelay (x0 : Fin 8) : Statement (.activateDelay x0) := by
  intro w h _
  cases h

theorem retrain (x0 : Fin 18) : Statement (.retrain x0) := by
  intro w h _
  cases h

theorem disable (x0 : Fin 18) : Statement (.disable x0) := by
  intro w h _
  cases h

theorem partnerDetected (x0 : Fin 18) : Statement (.partnerDetected x0) := by
  intro w h _
  cases h

theorem trainingDone (x0 : Fin 18) (x1 : BitVec 5) (x2 : Partner) : Statement (.trainingDone x0 x1 x2) := by
  intro w h _
  cases h

theorem trainingFailure (x0 : Fin 18) : Statement (.trainingFailure x0) := by
  intro w h _
  cases h

theorem trainingRetry (x0 : Fin 18) : Statement (.trainingRetry x0) := by
  intro w h _
  cases h

theorem flitReceive (x0 : Fin 18) (x1 : Flit) (x2 : Bool) : Statement (.flitReceive x0 x1 x2) := by
  intro w h _
  cases h

theorem laneFailure (x0 : Fin 18) (x1 : Fin 5) : Statement (.laneFailure x0 x1) := by
  intro w h _
  cases h

theorem laneMapSwitch (x0 : Fin 18) : Statement (.laneMapSwitch x0) := by
  intro w h _
  cases h

theorem retrainComplete (x0 : Fin 18) (x1 : BitVec 5) : Statement (.retrainComplete x0 x1) := by
  intro w h _
  cases h

theorem retrainFailure (x0 : Fin 18) : Statement (.retrainFailure x0) := by
  intro w h _
  cases h

theorem domainRequest (x0 : PeerRequest) : Statement (.domainRequest x0) := by
  intro w h _
  cases h

theorem domainResponse (x0 : BitVec 10) (x1 : Nat) (x2 : PeerAnswer) : Statement (.domainResponse x0 x1 x2) := by
  intro w h _
  cases h

theorem domainTimeout (x0 : BitVec 10) (x1 : Nat) (x2 : Bool) : Statement (.domainTimeout x0 x1 x2) := by
  intro w h _
  cases h

theorem switchCounterReturn (x0 : Fin 256) (x1 : DomAgent) (x2 : Nat) (x3 : BitVec 32) : Statement (.switchCounterReturn x0 x1 x2 x3) := by
  intro w h _
  cases h

theorem hostWindowAccess (x0 : HostAccess) : Statement (.hostWindowAccess x0) := by
  intro w h _
  cases h

theorem leaseExpiry (x0 : Fin 256) (x1 : Nat) : Statement (.leaseExpiry x0 x1) := by
  intro w h _
  cases h

theorem wfill (x0 : Fin 256) (x1 : Nat) : Statement (.wfill x0 x1) := by
  intro w h _
  cases h

theorem mma (x0 : Fin 256) (x1 : Nat) : Statement (.mma x0 x1) := by
  intro w h _
  cases h

theorem mthr (x0 : Fin 256) (x1 : Nat) : Statement (.mthr x0 x1) := by
  intro w h _
  cases h

theorem fillComplete (x0 : Fin 256) (x1 : Fin 32) : Statement (.fillComplete x0 x1) := by
  intro w h _
  cases h

theorem collExchangeComplete (x0 : Fin 64) (x1 : List (List Byte)) : Statement (.collExchangeComplete x0 x1) := by
  intro w h _
  cases h

theorem run (x0 : Fin 512) : Statement (.run x0) := by
  intro w h _
  cases h

theorem install (x0 : Fin 512) : Statement (.install x0) := by
  intro w h _
  cases h

theorem bankPacketTaken (x0 : Fin 256) (x1 : Fin 512) : Statement (.bankPacketTaken x0 x1) := by
  intro w h _
  cases h

theorem bankCommandComplete (x0 : Fin 512) : Statement (.bankCommandComplete x0) := by
  intro w h _
  cases h

theorem taskMailboxPacket (x0 : Fin 256) : Statement (.taskMailboxPacket x0) := by
  intro w h _
  cases h

theorem correctedError (x0 : Fin 256) (x1 : Fin 4) : Statement (.correctedError x0 x1) := by
  intro w h _
  cases h

theorem uncorrectableError (x0 : ErrorAt) : Statement (.uncorrectableError x0) := by
  intro w h _
  cases h

theorem basinParityError (x0 : Fin 256) (x1 : Fin 32) : Statement (.basinParityError x0 x1) := by
  intro w h _
  cases h

theorem vldxLanding (x0 : Fin 256) (x1 : Fin 256) : Statement (.vldxLanding x0 x1) := by
  intro w h _
  cases h

theorem add (x0 : BitVec 5) (x1 : BitVec 5) (x2 : BitVec 5) : Statement (.add x0 x1 x2) := by
  intro w h hw
  cases h
  simp only [Instr.wf, Bool.and_eq_true, Bool.or_eq_true, decide_eq_true_eq] at hw
  have h0 := hw
  simp [decode, decodeWord32, decodeLead, decodeAluA, aluAInstr, checked, wordLR_op, wordLR_d, wordLR_a,
    wordLR_b, wordLR_f, wordLR_x, badDst_of_dstOk h0, -BitVec.getLsbD_eq_getElem]

theorem sub (x0 : BitVec 5) (x1 : BitVec 5) (x2 : BitVec 5) : Statement (.sub x0 x1 x2) := by
  intro w h hw
  cases h
  simp only [Instr.wf, Bool.and_eq_true, Bool.or_eq_true, decide_eq_true_eq] at hw
  have h0 := hw
  simp [decode, decodeWord32, decodeLead, decodeAluA, aluAInstr, checked, wordLR_op, wordLR_d, wordLR_a,
    wordLR_b, wordLR_f, wordLR_x, badDst_of_dstOk h0, -BitVec.getLsbD_eq_getElem]

theorem mul (x0 : BitVec 5) (x1 : BitVec 5) (x2 : BitVec 5) : Statement (.mul x0 x1 x2) := by
  intro w h hw
  cases h
  simp only [Instr.wf, Bool.and_eq_true, Bool.or_eq_true, decide_eq_true_eq] at hw
  have h0 := hw
  simp [decode, decodeWord32, decodeLead, decodeAluA, aluAInstr, checked, wordLR_op, wordLR_d, wordLR_a,
    wordLR_b, wordLR_f, wordLR_x, badDst_of_dstOk h0, -BitVec.getLsbD_eq_getElem]

theorem mulh (x0 : BitVec 5) (x1 : BitVec 5) (x2 : BitVec 5) : Statement (.mulh x0 x1 x2) := by
  intro w h hw
  cases h
  simp only [Instr.wf, Bool.and_eq_true, Bool.or_eq_true, decide_eq_true_eq] at hw
  have h0 := hw
  simp [decode, decodeWord32, decodeLead, decodeAluA, aluAInstr, checked, wordLR_op, wordLR_d, wordLR_a,
    wordLR_b, wordLR_f, wordLR_x, badDst_of_dstOk h0, -BitVec.getLsbD_eq_getElem]

theorem mulhn (x0 : BitVec 5) (x1 : BitVec 5) (x2 : BitVec 5) : Statement (.mulhn x0 x1 x2) := by
  intro w h hw
  cases h
  simp only [Instr.wf, Bool.and_eq_true, Bool.or_eq_true, decide_eq_true_eq] at hw
  have h0 := hw
  simp [decode, decodeWord32, decodeLead, decodeAluA, aluAInstr, checked, wordLR_op, wordLR_d, wordLR_a,
    wordLR_b, wordLR_f, wordLR_x, badDst_of_dstOk h0, -BitVec.getLsbD_eq_getElem]

theorem div (x0 : BitVec 5) (x1 : BitVec 5) (x2 : BitVec 5) : Statement (.div x0 x1 x2) := by
  intro w h hw
  cases h
  simp only [Instr.wf, Bool.and_eq_true, Bool.or_eq_true, decide_eq_true_eq] at hw
  have h0 := hw
  simp [decode, decodeWord32, decodeLead, decodeAluA, aluAInstr, checked, wordLR_op, wordLR_d, wordLR_a,
    wordLR_b, wordLR_f, wordLR_x, badDst_of_dstOk h0, -BitVec.getLsbD_eq_getElem]

theorem divn (x0 : BitVec 5) (x1 : BitVec 5) (x2 : BitVec 5) : Statement (.divn x0 x1 x2) := by
  intro w h hw
  cases h
  simp only [Instr.wf, Bool.and_eq_true, Bool.or_eq_true, decide_eq_true_eq] at hw
  have h0 := hw
  simp [decode, decodeWord32, decodeLead, decodeAluA, aluAInstr, checked, wordLR_op, wordLR_d, wordLR_a,
    wordLR_b, wordLR_f, wordLR_x, badDst_of_dstOk h0, -BitVec.getLsbD_eq_getElem]

theorem rem (x0 : BitVec 5) (x1 : BitVec 5) (x2 : BitVec 5) : Statement (.rem x0 x1 x2) := by
  intro w h hw
  cases h
  simp only [Instr.wf, Bool.and_eq_true, Bool.or_eq_true, decide_eq_true_eq] at hw
  have h0 := hw
  simp [decode, decodeWord32, decodeLead, decodeAluA, aluAInstr, checked, wordLR_op, wordLR_d, wordLR_a,
    wordLR_b, wordLR_f, wordLR_x, badDst_of_dstOk h0, -BitVec.getLsbD_eq_getElem]

theorem remn (x0 : BitVec 5) (x1 : BitVec 5) (x2 : BitVec 5) : Statement (.remn x0 x1 x2) := by
  intro w h hw
  cases h
  simp only [Instr.wf, Bool.and_eq_true, Bool.or_eq_true, decide_eq_true_eq] at hw
  have h0 := hw
  simp [decode, decodeWord32, decodeLead, decodeAluA, aluAInstr, checked, wordLR_op, wordLR_d, wordLR_a,
    wordLR_b, wordLR_f, wordLR_x, badDst_of_dstOk h0, -BitVec.getLsbD_eq_getElem]

theorem and (x0 : BitVec 5) (x1 : BitVec 5) (x2 : BitVec 5) : Statement (.and x0 x1 x2) := by
  intro w h hw
  cases h
  simp only [Instr.wf, Bool.and_eq_true, Bool.or_eq_true, decide_eq_true_eq] at hw
  have h0 := hw
  simp [decode, decodeWord32, decodeLead, decodeAluA, aluAInstr, checked, wordLR_op, wordLR_d, wordLR_a,
    wordLR_b, wordLR_f, wordLR_x, badDst_of_dstOk h0, -BitVec.getLsbD_eq_getElem]

theorem or (x0 : BitVec 5) (x1 : BitVec 5) (x2 : BitVec 5) : Statement (.or x0 x1 x2) := by
  intro w h hw
  cases h
  simp only [Instr.wf, Bool.and_eq_true, Bool.or_eq_true, decide_eq_true_eq] at hw
  have h0 := hw
  simp [decode, decodeWord32, decodeLead, decodeAluA, aluAInstr, checked, wordLR_op, wordLR_d, wordLR_a,
    wordLR_b, wordLR_f, wordLR_x, badDst_of_dstOk h0, -BitVec.getLsbD_eq_getElem]

theorem xor (x0 : BitVec 5) (x1 : BitVec 5) (x2 : BitVec 5) : Statement (.xor x0 x1 x2) := by
  intro w h hw
  cases h
  simp only [Instr.wf, Bool.and_eq_true, Bool.or_eq_true, decide_eq_true_eq] at hw
  have h0 := hw
  simp [decode, decodeWord32, decodeLead, decodeAluA, aluAInstr, checked, wordLR_op, wordLR_d, wordLR_a,
    wordLR_b, wordLR_f, wordLR_x, badDst_of_dstOk h0, -BitVec.getLsbD_eq_getElem]

theorem andn (x0 : BitVec 5) (x1 : BitVec 5) (x2 : BitVec 5) : Statement (.andn x0 x1 x2) := by
  intro w h hw
  cases h
  simp only [Instr.wf, Bool.and_eq_true, Bool.or_eq_true, decide_eq_true_eq] at hw
  have h0 := hw
  simp [decode, decodeWord32, decodeLead, decodeAluA, aluAInstr, checked, wordLR_op, wordLR_d, wordLR_a,
    wordLR_b, wordLR_f, wordLR_x, badDst_of_dstOk h0, -BitVec.getLsbD_eq_getElem]

theorem shl (x0 : BitVec 5) (x1 : BitVec 5) (x2 : BitVec 5) : Statement (.shl x0 x1 x2) := by
  intro w h hw
  cases h
  simp only [Instr.wf, Bool.and_eq_true, Bool.or_eq_true, decide_eq_true_eq] at hw
  have h0 := hw
  simp [decode, decodeWord32, decodeLead, decodeAluA, aluAInstr, checked, wordLR_op, wordLR_d, wordLR_a,
    wordLR_b, wordLR_f, wordLR_x, badDst_of_dstOk h0, -BitVec.getLsbD_eq_getElem]

theorem shr (x0 : BitVec 5) (x1 : BitVec 5) (x2 : BitVec 5) : Statement (.shr x0 x1 x2) := by
  intro w h hw
  cases h
  simp only [Instr.wf, Bool.and_eq_true, Bool.or_eq_true, decide_eq_true_eq] at hw
  have h0 := hw
  simp [decode, decodeWord32, decodeLead, decodeAluA, aluAInstr, checked, wordLR_op, wordLR_d, wordLR_a,
    wordLR_b, wordLR_f, wordLR_x, badDst_of_dstOk h0, -BitVec.getLsbD_eq_getElem]

theorem sar (x0 : BitVec 5) (x1 : BitVec 5) (x2 : BitVec 5) : Statement (.sar x0 x1 x2) := by
  intro w h hw
  cases h
  simp only [Instr.wf, Bool.and_eq_true, Bool.or_eq_true, decide_eq_true_eq] at hw
  have h0 := hw
  simp [decode, decodeWord32, decodeLead, decodeAluA, aluAInstr, checked, wordLR_op, wordLR_d, wordLR_a,
    wordLR_b, wordLR_f, wordLR_x, badDst_of_dstOk h0, -BitVec.getLsbD_eq_getElem]

theorem min (x0 : BitVec 5) (x1 : BitVec 5) (x2 : BitVec 5) : Statement (.min x0 x1 x2) := by
  intro w h hw
  cases h
  simp only [Instr.wf, Bool.and_eq_true, Bool.or_eq_true, decide_eq_true_eq] at hw
  have h0 := hw
  simp [decode, decodeWord32, decodeLead, decodeAluA, aluAInstr, checked, wordLR_op, wordLR_d, wordLR_a,
    wordLR_b, wordLR_f, wordLR_x, badDst_of_dstOk h0, -BitVec.getLsbD_eq_getElem]

theorem max (x0 : BitVec 5) (x1 : BitVec 5) (x2 : BitVec 5) : Statement (.max x0 x1 x2) := by
  intro w h hw
  cases h
  simp only [Instr.wf, Bool.and_eq_true, Bool.or_eq_true, decide_eq_true_eq] at hw
  have h0 := hw
  simp [decode, decodeWord32, decodeLead, decodeAluA, aluAInstr, checked, wordLR_op, wordLR_d, wordLR_a,
    wordLR_b, wordLR_f, wordLR_x, badDst_of_dstOk h0, -BitVec.getLsbD_eq_getElem]

theorem minn (x0 : BitVec 5) (x1 : BitVec 5) (x2 : BitVec 5) : Statement (.minn x0 x1 x2) := by
  intro w h hw
  cases h
  simp only [Instr.wf, Bool.and_eq_true, Bool.or_eq_true, decide_eq_true_eq] at hw
  have h0 := hw
  simp [decode, decodeWord32, decodeLead, decodeAluA, aluAInstr, checked, wordLR_op, wordLR_d, wordLR_a,
    wordLR_b, wordLR_f, wordLR_x, badDst_of_dstOk h0, -BitVec.getLsbD_eq_getElem]

theorem maxn (x0 : BitVec 5) (x1 : BitVec 5) (x2 : BitVec 5) : Statement (.maxn x0 x1 x2) := by
  intro w h hw
  cases h
  simp only [Instr.wf, Bool.and_eq_true, Bool.or_eq_true, decide_eq_true_eq] at hw
  have h0 := hw
  simp [decode, decodeWord32, decodeLead, decodeAluA, aluAInstr, checked, wordLR_op, wordLR_d, wordLR_a,
    wordLR_b, wordLR_f, wordLR_x, badDst_of_dstOk h0, -BitVec.getLsbD_eq_getElem]

theorem clz (x0 : BitVec 5) (x1 : BitVec 5) : Statement (.clz x0 x1) := by
  intro w h hw
  cases h
  simp only [Instr.wf, Bool.and_eq_true, Bool.or_eq_true, decide_eq_true_eq] at hw
  have h0 := hw
  simp [decode, decodeWord32, decodeLead, decodeAluA, aluAInstr, checked, wordLR_op, wordLR_d, wordLR_a,
    wordLR_b, wordLR_f, wordLR_x, badDst_of_dstOk h0, -BitVec.getLsbD_eq_getElem]

theorem ctz (x0 : BitVec 5) (x1 : BitVec 5) : Statement (.ctz x0 x1) := by
  intro w h hw
  cases h
  simp only [Instr.wf, Bool.and_eq_true, Bool.or_eq_true, decide_eq_true_eq] at hw
  have h0 := hw
  simp [decode, decodeWord32, decodeLead, decodeAluA, aluAInstr, checked, wordLR_op, wordLR_d, wordLR_a,
    wordLR_b, wordLR_f, wordLR_x, badDst_of_dstOk h0, -BitVec.getLsbD_eq_getElem]

theorem popc (x0 : BitVec 5) (x1 : BitVec 5) : Statement (.popc x0 x1) := by
  intro w h hw
  cases h
  simp only [Instr.wf, Bool.and_eq_true, Bool.or_eq_true, decide_eq_true_eq] at hw
  have h0 := hw
  simp [decode, decodeWord32, decodeLead, decodeAluA, aluAInstr, checked, wordLR_op, wordLR_d, wordLR_a,
    wordLR_b, wordLR_f, wordLR_x, badDst_of_dstOk h0, -BitVec.getLsbD_eq_getElem]

theorem mov (x0 : BitVec 5) (x1 : BitVec 5) : Statement (.mov x0 x1) := by
  intro w h hw
  cases h
  simp only [Instr.wf, Bool.and_eq_true, Bool.or_eq_true, decide_eq_true_eq] at hw
  have h0 := hw
  simp [decode, decodeWord32, decodeLead, decodeAluA, aluAInstr, checked, wordLR_op, wordLR_d, wordLR_a,
    wordLR_b, wordLR_f, wordLR_x, badDst_of_dstOk h0, -BitVec.getLsbD_eq_getElem]

theorem cmpeq (x0 : BitVec 5) (x1 : BitVec 5) (x2 : BitVec 5) : Statement (.cmpeq x0 x1 x2) := by
  intro w h hw
  cases h
  simp only [Instr.wf, Bool.and_eq_true, Bool.or_eq_true, decide_eq_true_eq] at hw
  have h0 := hw
  simp [decode, decodeWord32, decodeLead, decodeAluB, checked, wordLR_op, wordLR_d, wordLR_a, wordLR_b,
    wordLR_f, wordLR_x, badDst_of_dstOk h0, -BitVec.getLsbD_eq_getElem]

theorem cmpne (x0 : BitVec 5) (x1 : BitVec 5) (x2 : BitVec 5) : Statement (.cmpne x0 x1 x2) := by
  intro w h hw
  cases h
  simp only [Instr.wf, Bool.and_eq_true, Bool.or_eq_true, decide_eq_true_eq] at hw
  have h0 := hw
  simp [decode, decodeWord32, decodeLead, decodeAluB, checked, wordLR_op, wordLR_d, wordLR_a, wordLR_b,
    wordLR_f, wordLR_x, badDst_of_dstOk h0, -BitVec.getLsbD_eq_getElem]

theorem cmplt (x0 : BitVec 5) (x1 : BitVec 5) (x2 : BitVec 5) : Statement (.cmplt x0 x1 x2) := by
  intro w h hw
  cases h
  simp only [Instr.wf, Bool.and_eq_true, Bool.or_eq_true, decide_eq_true_eq] at hw
  have h0 := hw
  simp [decode, decodeWord32, decodeLead, decodeAluB, checked, wordLR_op, wordLR_d, wordLR_a, wordLR_b,
    wordLR_f, wordLR_x, badDst_of_dstOk h0, -BitVec.getLsbD_eq_getElem]

theorem cmple (x0 : BitVec 5) (x1 : BitVec 5) (x2 : BitVec 5) : Statement (.cmple x0 x1 x2) := by
  intro w h hw
  cases h
  simp only [Instr.wf, Bool.and_eq_true, Bool.or_eq_true, decide_eq_true_eq] at hw
  have h0 := hw
  simp [decode, decodeWord32, decodeLead, decodeAluB, checked, wordLR_op, wordLR_d, wordLR_a, wordLR_b,
    wordLR_f, wordLR_x, badDst_of_dstOk h0, -BitVec.getLsbD_eq_getElem]

theorem cmpltn (x0 : BitVec 5) (x1 : BitVec 5) (x2 : BitVec 5) : Statement (.cmpltn x0 x1 x2) := by
  intro w h hw
  cases h
  simp only [Instr.wf, Bool.and_eq_true, Bool.or_eq_true, decide_eq_true_eq] at hw
  have h0 := hw
  simp [decode, decodeWord32, decodeLead, decodeAluB, checked, wordLR_op, wordLR_d, wordLR_a, wordLR_b,
    wordLR_f, wordLR_x, badDst_of_dstOk h0, -BitVec.getLsbD_eq_getElem]

theorem cmplen (x0 : BitVec 5) (x1 : BitVec 5) (x2 : BitVec 5) : Statement (.cmplen x0 x1 x2) := by
  intro w h hw
  cases h
  simp only [Instr.wf, Bool.and_eq_true, Bool.or_eq_true, decide_eq_true_eq] at hw
  have h0 := hw
  simp [decode, decodeWord32, decodeLead, decodeAluB, checked, wordLR_op, wordLR_d, wordLR_a, wordLR_b,
    wordLR_f, wordLR_x, badDst_of_dstOk h0, -BitVec.getLsbD_eq_getElem]

theorem sel (x0 : BitVec 5) (x1 : BitVec 5) (x2 : BitVec 5) (x3 : BitVec 5) : Statement (.sel x0 x1 x2 x3) := by
  intro w h hw
  cases h
  simp only [Instr.wf, Bool.and_eq_true, Bool.or_eq_true, decide_eq_true_eq] at hw
  have h0 := hw
  simp [decode, decodeWord32, decodeLead, decodeAluB, checked, wordLR_op, wordLR_d, wordLR_a, wordLR_b,
    wordLR_f, wordLR_x, pack15_hi, pack15_lo, pack15_bit, pack42_hi, pack42_lo, pack24_hi, pack24_lo,
    pack33_hi, pack33_lo, pack51_hi, pack51_lo, pack51_bit, pack23_hi, pack23_lo, pack411_hi, pack411_mid,
    pack411_lo, pack411_bit1, pack411_bit0, pack222_hi, pack222_mid, pack222_lo, packShift_hi, packShift_lo,
    packExtr_hi, packExtr_mid, packExtr_lo, packCsr_hi, packCsr_lo, badDst_of_dstOk h0,
    -BitVec.getLsbD_eq_getElem]

theorem sext (x0 : BitVec 5) (x1 : BitVec 5) (x2 : BitVec 2) : Statement (.sext x0 x1 x2) := by
  intro w h hw
  cases h
  simp only [Instr.wf, Bool.and_eq_true, Bool.or_eq_true, decide_eq_true_eq] at hw
  obtain ⟨h0, h1⟩ := hw
  simp [decode, decodeWord32, decodeLead, decodeAluB, checked, wordLR_op, wordLR_d, wordLR_a, wordLR_b,
    wordLR_f, wordLR_x, pack15_hi, pack15_lo, pack15_bit, pack42_hi, pack42_lo, pack24_hi, pack24_lo,
    pack33_hi, pack33_lo, pack51_hi, pack51_lo, pack51_bit, pack23_hi, pack23_lo, pack411_hi, pack411_mid,
    pack411_lo, pack411_bit1, pack411_bit0, pack222_hi, pack222_mid, pack222_lo, packShift_hi, packShift_lo,
    packExtr_hi, packExtr_mid, packExtr_lo, packCsr_hi, packCsr_lo, badDst_of_dstOk h0, h1,
    -BitVec.getLsbD_eq_getElem]
  exact h1

theorem zext (x0 : BitVec 5) (x1 : BitVec 5) (x2 : BitVec 2) : Statement (.zext x0 x1 x2) := by
  intro w h hw
  cases h
  simp only [Instr.wf, Bool.and_eq_true, Bool.or_eq_true, decide_eq_true_eq] at hw
  obtain ⟨h0, h1⟩ := hw
  simp [decode, decodeWord32, decodeLead, decodeAluB, checked, wordLR_op, wordLR_d, wordLR_a, wordLR_b,
    wordLR_f, wordLR_x, pack15_hi, pack15_lo, pack15_bit, pack42_hi, pack42_lo, pack24_hi, pack24_lo,
    pack33_hi, pack33_lo, pack51_hi, pack51_lo, pack51_bit, pack23_hi, pack23_lo, pack411_hi, pack411_mid,
    pack411_lo, pack411_bit1, pack411_bit0, pack222_hi, pack222_mid, pack222_lo, packShift_hi, packShift_lo,
    packExtr_hi, packExtr_mid, packExtr_lo, packCsr_hi, packCsr_lo, badDst_of_dstOk h0, h1,
    -BitVec.getLsbD_eq_getElem]
  exact h1

theorem fshl (x0 : BitVec 5) (x1 : BitVec 5) (x2 : BitVec 5) (x3 : BitVec 6) : Statement (.fshl x0 x1 x2 x3) := by
  intro w h hw
  cases h
  simp only [Instr.wf, Bool.and_eq_true, Bool.or_eq_true, decide_eq_true_eq] at hw
  have h0 := hw
  simp [decode, decodeWord32, decodeLead, decodeAluB, checked, wordLR_op, wordLR_d, wordLR_a, wordLR_b,
    wordLR_f, wordLR_x, badDst_of_dstOk h0, -BitVec.getLsbD_eq_getElem]

theorem fshr (x0 : BitVec 5) (x1 : BitVec 5) (x2 : BitVec 5) (x3 : BitVec 6) : Statement (.fshr x0 x1 x2 x3) := by
  intro w h hw
  cases h
  simp only [Instr.wf, Bool.and_eq_true, Bool.or_eq_true, decide_eq_true_eq] at hw
  have h0 := hw
  simp [decode, decodeWord32, decodeLead, decodeAluB, checked, wordLR_op, wordLR_d, wordLR_a, wordLR_b,
    wordLR_f, wordLR_x, badDst_of_dstOk h0, -BitVec.getLsbD_eq_getElem]

theorem ins (x0 : BitVec 5) (x1 : BitVec 5) (x2 : BitVec 5) (x3 : BitVec 6) (x4 : BitVec 5) : Statement (.ins x0 x1 x2 x3 x4) := by
  intro w h hw
  cases h
  simp only [Instr.wf, Bool.and_eq_true, Bool.or_eq_true, decide_eq_true_eq] at hw
  obtain ⟨h0, h1⟩ := hw
  simp [decode, decodeWord32, decodeLead, decodeIns, checked, wordIns_op, wordIns_d, wordIns_a, wordIns_b,
    wordIns_pos, wordIns_len1, badDst_of_dstOk h0, Nat.not_lt.mpr h1, -BitVec.getLsbD_eq_getElem]

theorem fadd (x0 : BitVec 5) (x1 : BitVec 5) (x2 : BitVec 5) (x3 : BitVec 2) (x4 : Bool) : Statement (.fadd x0 x1 x2 x3 x4) := by
  intro w h hw
  cases h
  simp only [Instr.wf, Bool.and_eq_true, Bool.or_eq_true, decide_eq_true_eq] at hw
  obtain ⟨h0, h1⟩ := hw
  simp [decode, decodeWord32, decodeLead, decodeFloat, checked, wordFloat_op, wordFloat_d, wordFloat_a,
    wordFloat_b, wordFloat_x, wordFloat_rnd, wordFloat_p, wordFloat_sub, wordFloat_bit, badDst_of_dstOk h0,
    h1, -BitVec.getLsbD_eq_getElem]
  exact h1

theorem fmul (x0 : BitVec 5) (x1 : BitVec 5) (x2 : BitVec 5) (x3 : BitVec 2) (x4 : Bool) : Statement (.fmul x0 x1 x2 x3 x4) := by
  intro w h hw
  cases h
  simp only [Instr.wf, Bool.and_eq_true, Bool.or_eq_true, decide_eq_true_eq] at hw
  obtain ⟨h0, h1⟩ := hw
  simp [decode, decodeWord32, decodeLead, decodeFloat, checked, wordFloat_op, wordFloat_d, wordFloat_a,
    wordFloat_b, wordFloat_x, wordFloat_rnd, wordFloat_p, wordFloat_sub, wordFloat_bit, badDst_of_dstOk h0,
    h1, -BitVec.getLsbD_eq_getElem]
  exact h1

theorem ffma (x0 : BitVec 5) (x1 : BitVec 5) (x2 : BitVec 5) (x3 : BitVec 5) (x4 : BitVec 2) (x5 : Bool) : Statement (.ffma x0 x1 x2 x3 x4 x5) := by
  intro w h hw
  cases h
  simp only [Instr.wf, Bool.and_eq_true, Bool.or_eq_true, decide_eq_true_eq] at hw
  obtain ⟨h0, h1⟩ := hw
  simp [decode, decodeWord32, decodeLead, decodeFloat, checked, wordFloat_op, wordFloat_d, wordFloat_a,
    wordFloat_b, wordFloat_x, wordFloat_rnd, wordFloat_p, wordFloat_sub, wordFloat_bit, badDst_of_dstOk h0,
    h1, -BitVec.getLsbD_eq_getElem]
  exact h1

theorem fcmp (x0 : BitVec 5) (x1 : BitVec 5) (x2 : BitVec 5) (x3 : BitVec 5) (x4 : Bool) : Statement (.fcmp x0 x1 x2 x3 x4) := by
  intro w h hw
  cases h
  simp only [Instr.wf, Bool.and_eq_true, Bool.or_eq_true, decide_eq_true_eq] at hw
  obtain ⟨h0, h1⟩ := hw
  simp [decode, decodeWord32, decodeLead, decodeFloat, checked, wordFloat_op, wordFloat_d, wordFloat_a,
    wordFloat_b, wordFloat_x, wordFloat_rnd, wordFloat_p, wordFloat_sub, wordFloat_bit, badDst_of_dstOk h0,
    BitVec.not_lt.mpr h1, -BitVec.getLsbD_eq_getElem]
  exact h1

theorem fcvt (x0 : BitVec 5) (x1 : BitVec 5) (x2 : BitVec 3) (x3 : BitVec 2) : Statement (.fcvt x0 x1 x2 x3) := by
  intro w h hw
  cases h
  simp only [Instr.wf, Bool.and_eq_true, Bool.or_eq_true, decide_eq_true_eq] at hw
  obtain ⟨h0, h1⟩ := hw
  simp [decode, decodeWord32, decodeLead, decodeFloat, checked, wordFloat_op, wordFloat_d, wordFloat_a,
    wordFloat_b, wordFloat_x, wordFloat_rnd, wordFloat_p, wordFloat_sub, wordFloat_bit, pack15_hi, pack15_lo,
    pack15_bit, pack42_hi, pack42_lo, pack24_hi, pack24_lo, pack33_hi, pack33_lo, pack51_hi, pack51_lo,
    pack51_bit, pack23_hi, pack23_lo, pack411_hi, pack411_mid, pack411_lo, pack411_bit1, pack411_bit0,
    pack222_hi, pack222_mid, pack222_lo, packShift_hi, packShift_lo, packExtr_hi, packExtr_mid, packExtr_lo,
    packCsr_hi, packCsr_lo, badDst_of_dstOk h0, h1, -BitVec.getLsbD_eq_getElem]
  exact h1

theorem jr (x0 : BitVec 5) : Statement (.jr x0) := by
  intro w h hw
  cases h
  simp [decode, decodeWord32, decodeLead, checked, wordLR_op, wordLR_d, wordLR_a, wordLR_b, wordLR_f,
    wordLR_x, jrTail x0, -BitVec.getLsbD_eq_getElem]

theorem addi (x0 : BitVec 5) (x1 : BitVec 5) (x2 : BitVec 16) : Statement (.addi x0 x1 x2) := by
  intro w h hw
  cases h
  simp only [Instr.wf, Bool.and_eq_true, Bool.or_eq_true, decide_eq_true_eq] at hw
  have h0 := hw
  simp [decode, decodeWord32, decodeLead, decodeImm, checked, wordLI_op, wordLI_d, wordLI_a, wordLI_imm,
    badDst_of_dstOk h0, -BitVec.getLsbD_eq_getElem]

theorem andi (x0 : BitVec 5) (x1 : BitVec 5) (x2 : BitVec 16) : Statement (.andi x0 x1 x2) := by
  intro w h hw
  cases h
  simp only [Instr.wf, Bool.and_eq_true, Bool.or_eq_true, decide_eq_true_eq] at hw
  have h0 := hw
  simp [decode, decodeWord32, decodeLead, decodeImm, checked, wordLI_op, wordLI_d, wordLI_a, wordLI_imm,
    badDst_of_dstOk h0, -BitVec.getLsbD_eq_getElem]

theorem ori (x0 : BitVec 5) (x1 : BitVec 5) (x2 : BitVec 16) : Statement (.ori x0 x1 x2) := by
  intro w h hw
  cases h
  simp only [Instr.wf, Bool.and_eq_true, Bool.or_eq_true, decide_eq_true_eq] at hw
  have h0 := hw
  simp [decode, decodeWord32, decodeLead, decodeImm, checked, wordLI_op, wordLI_d, wordLI_a, wordLI_imm,
    badDst_of_dstOk h0, -BitVec.getLsbD_eq_getElem]

theorem xori (x0 : BitVec 5) (x1 : BitVec 5) (x2 : BitVec 16) : Statement (.xori x0 x1 x2) := by
  intro w h hw
  cases h
  simp only [Instr.wf, Bool.and_eq_true, Bool.or_eq_true, decide_eq_true_eq] at hw
  have h0 := hw
  simp [decode, decodeWord32, decodeLead, decodeImm, checked, wordLI_op, wordLI_d, wordLI_a, wordLI_imm,
    badDst_of_dstOk h0, -BitVec.getLsbD_eq_getElem]

theorem shli (x0 : BitVec 5) (x1 : BitVec 5) (x2 : BitVec 6) : Statement (.shli x0 x1 x2) := by
  intro w h hw
  cases h
  simp only [Instr.wf, Bool.and_eq_true, Bool.or_eq_true, decide_eq_true_eq] at hw
  have h0 := hw
  simp [decode, decodeWord32, decodeLead, decodeImm, checked, wordShift, wordLI_op, wordLI_d, wordLI_a,
    wordLI_imm, packShift_hi, packShift_lo, badDst_of_dstOk h0, -BitVec.getLsbD_eq_getElem]

theorem shri (x0 : BitVec 5) (x1 : BitVec 5) (x2 : BitVec 6) : Statement (.shri x0 x1 x2) := by
  intro w h hw
  cases h
  simp only [Instr.wf, Bool.and_eq_true, Bool.or_eq_true, decide_eq_true_eq] at hw
  have h0 := hw
  simp [decode, decodeWord32, decodeLead, decodeImm, checked, wordShift, wordLI_op, wordLI_d, wordLI_a,
    wordLI_imm, packShift_hi, packShift_lo, badDst_of_dstOk h0, -BitVec.getLsbD_eq_getElem]

theorem sari (x0 : BitVec 5) (x1 : BitVec 5) (x2 : BitVec 6) : Statement (.sari x0 x1 x2) := by
  intro w h hw
  cases h
  simp only [Instr.wf, Bool.and_eq_true, Bool.or_eq_true, decide_eq_true_eq] at hw
  have h0 := hw
  simp [decode, decodeWord32, decodeLead, decodeImm, checked, wordShift, wordLI_op, wordLI_d, wordLI_a,
    wordLI_imm, packShift_hi, packShift_lo, badDst_of_dstOk h0, -BitVec.getLsbD_eq_getElem]

theorem li (x0 : BitVec 5) (x1 : BitVec 16) : Statement (.li x0 x1) := by
  intro w h hw
  cases h
  simp only [Instr.wf, Bool.and_eq_true, Bool.or_eq_true, decide_eq_true_eq] at hw
  have h0 := hw
  simp [decode, decodeWord32, decodeLead, decodeImm, checked, wordLI_op, wordLI_d, wordLI_a, wordLI_imm,
    badDst_of_dstOk h0, -BitVec.getLsbD_eq_getElem]

theorem lih (x0 : BitVec 5) (x1 : BitVec 5) (x2 : BitVec 16) : Statement (.lih x0 x1 x2) := by
  intro w h hw
  cases h
  simp only [Instr.wf, Bool.and_eq_true, Bool.or_eq_true, decide_eq_true_eq] at hw
  have h0 := hw
  simp [decode, decodeWord32, decodeLead, decodeImm, checked, wordLI_op, wordLI_d, wordLI_a, wordLI_imm,
    badDst_of_dstOk h0, -BitVec.getLsbD_eq_getElem]

theorem lea (x0 : BitVec 5) (x1 : BitVec 5) (x2 : BitVec 16) : Statement (.lea x0 x1 x2) := by
  intro w h hw
  cases h
  simp only [Instr.wf, Bool.and_eq_true, Bool.or_eq_true, decide_eq_true_eq] at hw
  have h0 := hw
  simp [decode, decodeWord32, decodeLead, decodeImm, checked, wordLI_op, wordLI_d, wordLI_a, wordLI_imm,
    badDst_of_dstOk h0, -BitVec.getLsbD_eq_getElem]

theorem extr (x0 : BitVec 5) (x1 : BitVec 5) (x2 : BitVec 6) (x3 : BitVec 6) : Statement (.extr x0 x1 x2 x3) := by
  intro w h hw
  cases h
  simp only [Instr.wf, Bool.and_eq_true, Bool.or_eq_true, decide_eq_true_eq] at hw
  obtain ⟨h0, h1⟩ := hw
  simp [decode, decodeWord32, decodeLead, decodeImm, checked, wordLI_op, wordLI_d, wordLI_a, wordLI_imm,
    pack15_hi, pack15_lo, pack15_bit, pack42_hi, pack42_lo, pack24_hi, pack24_lo, pack33_hi, pack33_lo,
    pack51_hi, pack51_lo, pack51_bit, pack23_hi, pack23_lo, pack411_hi, pack411_mid, pack411_lo, pack411_bit1,
    pack411_bit0, pack222_hi, pack222_mid, pack222_lo, packShift_hi, packShift_lo, packExtr_hi, packExtr_mid,
    packExtr_lo, packCsr_hi, packCsr_lo, badDst_of_dstOk h0, Nat.not_lt.mpr h1, -BitVec.getLsbD_eq_getElem]

theorem csrrd (x0 : BitVec 5) (x1 : BitVec 12) : Statement (.csrrd x0 x1) := by
  intro w h hw
  cases h
  simp only [Instr.wf, Bool.and_eq_true] at hw
  simp [decode, decodeWord32, decodeLead, decodeImm, checked, wordLI_op, wordLI_d, wordLI_a, wordLI_imm,
    pack15_hi, pack15_lo, pack15_bit, pack42_hi, pack42_lo, pack24_hi, pack24_lo, pack33_hi, pack33_lo,
    pack51_hi, pack51_lo, pack51_bit, pack23_hi, pack23_lo, pack411_hi, pack411_mid, pack411_lo, pack411_bit1,
    pack411_bit0, pack222_hi, pack222_mid, pack222_lo, packShift_hi, packShift_lo, packExtr_hi, packExtr_mid,
    packExtr_lo, packCsr_hi, packCsr_lo, badDst_of_dstOk hw.1, hw.2, -BitVec.getLsbD_eq_getElem]

theorem csrwr (x0 : BitVec 5) (x1 : BitVec 12) : Statement (.csrwr x0 x1) := by
  intro w h hw
  cases h
  simp only [Instr.wf] at hw
  simp [decode, decodeWord32, decodeLead, decodeImm, checked, wordLI_op, wordLI_d, wordLI_a, wordLI_imm,
    pack15_hi, pack15_lo, pack15_bit, pack42_hi, pack42_lo, pack24_hi, pack24_lo, pack33_hi, pack33_lo,
    pack51_hi, pack51_lo, pack51_bit, pack23_hi, pack23_lo, pack411_hi, pack411_mid, pack411_lo, pack411_bit1,
    pack411_bit0, pack222_hi, pack222_mid, pack222_lo, packShift_hi, packShift_lo, packExtr_hi, packExtr_mid,
    packExtr_lo, packCsr_hi, packCsr_lo, hw, -BitVec.getLsbD_eq_getElem]

theorem bz (x0 : BitVec 5) (x1 : BitVec 21) : Statement (.bz x0 x1) := by
  intro w h hw
  cases h
  simp [decode, decodeWord32, decodeLead, decodeBranch, checked, wordLB_op, wordLB_a, wordLB_off,
    -BitVec.getLsbD_eq_getElem]

theorem bnz (x0 : BitVec 5) (x1 : BitVec 21) : Statement (.bnz x0 x1) := by
  intro w h hw
  cases h
  simp [decode, decodeWord32, decodeLead, decodeBranch, checked, wordLB_op, wordLB_a, wordLB_off,
    -BitVec.getLsbD_eq_getElem]

theorem jmp (x0 : BitVec 21) : Statement (.jmp x0) := by
  intro w h hw
  cases h
  simp [decode, decodeWord32, decodeLead, decodeBranch, checked, wordLB_op, wordLB_a, wordLB_off,
    -BitVec.getLsbD_eq_getElem]

theorem jal (x0 : BitVec 21) : Statement (.jal x0) := by
  intro w h hw
  cases h
  simp [decode, decodeWord32, decodeLead, decodeBranch, checked, wordLB_op, wordLB_a, wordLB_off,
    -BitVec.getLsbD_eq_getElem]

theorem ld (x0 : BitVec 5) (x1 : BitVec 5) (x2 : BitVec 2) (x3 : BitVec 3) (x4 : BitVec 4) (x5 : BitVec 7) : Statement (.ld x0 x1 x2 x3 x4 x5) := by
  intro w h hw
  cases h
  simp only [Instr.wf, Bool.and_eq_true, Bool.or_eq_true, decide_eq_true_eq] at hw
  obtain ⟨h0, h1⟩ := hw
  simp [decode, decodeWord32, decodeLead, decodeMem, checked, wordLM_op, wordLM_d, wordLM_base, wordLM_rq,
    wordLM_size, wordLM_span, wordLM_off, badDst_of_dstOk h0, h1, -BitVec.getLsbD_eq_getElem]
  exact h1

theorem st (x0 : BitVec 5) (x1 : BitVec 5) (x2 : BitVec 2) (x3 : BitVec 3) (x4 : BitVec 4) (x5 : BitVec 7) : Statement (.st x0 x1 x2 x3 x4 x5) := by
  intro w h hw
  cases h
  simp only [Instr.wf, Bool.and_eq_true, Bool.or_eq_true, decide_eq_true_eq] at hw
  have h0 := hw
  simp [decode, decodeWord32, decodeLead, decodeMem, checked, wordLM_op, wordLM_d, wordLM_base, wordLM_rq,
    wordLM_size, wordLM_span, wordLM_off, BitVec.not_lt.mpr h0, -BitVec.getLsbD_eq_getElem]
  exact h0

theorem pf (x0 : BitVec 5) (x1 : BitVec 2) (x2 : BitVec 4) (x3 : BitVec 7) : Statement (.pf x0 x1 x2 x3) := by
  intro w h hw
  cases h
  simp [decode, decodeWord32, decodeLead, decodeMem, checked, wordLM_op, wordLM_d, wordLM_base, wordLM_rq,
    wordLM_size, wordLM_span, wordLM_off, -BitVec.getLsbD_eq_getElem]

theorem fence (x0 : BitVec 2) (x1 : BitVec 2) : Statement (.fence x0 x1) := by
  intro w h hw
  cases h
  simp only [Instr.wf, Bool.and_eq_true, Bool.or_eq_true, decide_eq_true_eq] at hw
  have h0 := hw
  simp [decode, decodeWord32, decodeLead, decodeMemGroup, checked, wordLR_op, wordLR_d, wordLR_a, wordLR_b,
    wordLR_f, wordLR_x, pack15_hi, pack15_lo, pack15_bit, pack42_hi, pack42_lo, pack24_hi, pack24_lo,
    pack33_hi, pack33_lo, pack51_hi, pack51_lo, pack51_bit, pack23_hi, pack23_lo, pack411_hi, pack411_mid,
    pack411_lo, pack411_bit1, pack411_bit0, pack222_hi, pack222_mid, pack222_lo, packShift_hi, packShift_lo,
    packExtr_hi, packExtr_mid, packExtr_lo, packCsr_hi, packCsr_lo, h0, -BitVec.getLsbD_eq_getElem]
  exact h0

theorem amo (x0 : BitVec 5) (x1 : BitVec 5) (x2 : BitVec 5) (x3 : BitVec 4) (x4 : Bool) : Statement (.amo x0 x1 x2 x3 x4) := by
  intro w h hw
  cases h
  simp only [Instr.wf, Bool.and_eq_true, Bool.or_eq_true, decide_eq_true_eq] at hw
  obtain ⟨h0, h1⟩ := hw
  simp [decode, decodeWord32, decodeLead, decodeMemGroup, checked, wordLR_op, wordLR_d, wordLR_a, wordLR_b,
    wordLR_f, wordLR_x, pack15_hi, pack15_lo, pack15_bit, pack42_hi, pack42_lo, pack24_hi, pack24_lo,
    pack33_hi, pack33_lo, pack51_hi, pack51_lo, pack51_bit, pack23_hi, pack23_lo, pack411_hi, pack411_mid,
    pack411_lo, pack411_bit1, pack411_bit0, pack222_hi, pack222_mid, pack222_lo, packShift_hi, packShift_lo,
    packExtr_hi, packExtr_mid, packExtr_lo, packCsr_hi, packCsr_lo, badDst_of_dstOk h0, BitVec.not_lt.mpr h1,
    -BitVec.getLsbD_eq_getElem]
  exact h1

theorem cas (x0 : BitVec 5) (x1 : BitVec 5) (x2 : BitVec 5) (x3 : BitVec 5) (x4 : Bool) : Statement (.cas x0 x1 x2 x3 x4) := by
  intro w h hw
  cases h
  simp only [Instr.wf, Bool.and_eq_true, Bool.or_eq_true, decide_eq_true_eq] at hw
  have h0 := hw
  simp [decode, decodeWord32, decodeLead, decodeMemGroup, checked, wordLR_op, wordLR_d, wordLR_a, wordLR_b,
    wordLR_f, wordLR_x, pack15_hi, pack15_lo, pack15_bit, pack42_hi, pack42_lo, pack24_hi, pack24_lo,
    pack33_hi, pack33_lo, pack51_hi, pack51_lo, pack51_bit, pack23_hi, pack23_lo, pack411_hi, pack411_mid,
    pack411_lo, pack411_bit1, pack411_bit0, pack222_hi, pack222_mid, pack222_lo, packShift_hi, packShift_lo,
    packExtr_hi, packExtr_mid, packExtr_lo, packCsr_hi, packCsr_lo, badDst_of_dstOk h0,
    -BitVec.getLsbD_eq_getElem]

theorem barinit (x0 : BitVec 5) (x1 : BitVec 6) : Statement (.barinit x0 x1) := by
  intro w h hw
  cases h
  simp [decode, decodeWord32, decodeLead, decodeBarGroup, checked, wordLR_op, wordLR_d, wordLR_a, wordLR_b,
    wordLR_f, wordLR_x, declaredFork, declaredJoin, declaredBar, -BitVec.getLsbD_eq_getElem]

theorem bararm (x0 : BitVec 5) (x1 : BitVec 6) : Statement (.bararm x0 x1) := by
  intro w h hw
  cases h
  simp [decode, decodeWord32, decodeLead, decodeBarGroup, checked, wordLR_op, wordLR_d, wordLR_a, wordLR_b,
    wordLR_f, wordLR_x, declaredFork, declaredJoin, declaredBar, -BitVec.getLsbD_eq_getElem]

theorem bararrive (x0 : BitVec 5) (x1 : BitVec 6) : Statement (.bararrive x0 x1) := by
  intro w h hw
  cases h
  simp [decode, decodeWord32, decodeLead, decodeBarGroup, checked, wordLR_op, wordLR_d, wordLR_a, wordLR_b,
    wordLR_f, wordLR_x, declaredFork, declaredJoin, declaredBar, -BitVec.getLsbD_eq_getElem]

theorem barwait (x0 : BitVec 5) (x1 : BitVec 6) : Statement (.barwait x0 x1) := by
  intro w h hw
  cases h
  simp [decode, decodeWord32, decodeLead, decodeBarGroup, checked, wordLR_op, wordLR_d, wordLR_a, wordLR_b,
    wordLR_f, wordLR_x, declaredFork, declaredJoin, declaredBar, -BitVec.getLsbD_eq_getElem]

theorem bartest (x0 : BitVec 5) (x1 : BitVec 5) (x2 : BitVec 6) : Statement (.bartest x0 x1 x2) := by
  intro w h hw
  cases h
  simp only [Instr.wf, Bool.and_eq_true, Bool.or_eq_true, decide_eq_true_eq] at hw
  have h0 := hw
  simp [decode, decodeWord32, decodeLead, decodeBarGroup, checked, wordLR_op, wordLR_d, wordLR_a, wordLR_b,
    wordLR_f, wordLR_x, declaredFork, declaredJoin, declaredBar, badDst_of_dstOk h0,
    -BitVec.getLsbD_eq_getElem]

theorem fork (x0 : BitVec 6) : Statement (.fork x0) := by
  intro w h hw
  cases h
  simp [decode, decodeWord32, decodeLead, decodeEngGroup, checked, wordLR_op, wordLR_d, wordLR_a, wordLR_b,
    wordLR_f, wordLR_x, declaredFork, declaredJoin, declaredBar, -BitVec.getLsbD_eq_getElem]

theorem join (x0 : BitVec 6) : Statement (.join x0) := by
  intro w h hw
  cases h
  simp [decode, decodeWord32, decodeLead, decodeEngGroup, checked, wordLR_op, wordLR_d, wordLR_a, wordLR_b,
    wordLR_f, wordLR_x, declaredFork, declaredJoin, declaredBar, -BitVec.getLsbD_eq_getElem]

theorem lpw (x0 : BitVec 5) (x1 : BitVec 4) : Statement (.lpw x0 x1) := by
  intro w h hw
  cases h
  simp [decode, decodeWord32, decodeLead, decodeEngGroup, checked, wordLR_op, wordLR_d, wordLR_a, wordLR_b,
    wordLR_f, wordLR_x, pack15_hi, pack15_lo, pack15_bit, pack42_hi, pack42_lo, pack24_hi, pack24_lo,
    pack33_hi, pack33_lo, pack51_hi, pack51_lo, pack51_bit, pack23_hi, pack23_lo, pack411_hi, pack411_mid,
    pack411_lo, pack411_bit1, pack411_bit0, pack222_hi, pack222_mid, pack222_lo, packShift_hi, packShift_lo,
    packExtr_hi, packExtr_mid, packExtr_lo, packCsr_hi, packCsr_lo, declaredFork, declaredJoin, declaredBar,
    -BitVec.getLsbD_eq_getElem]

theorem enq (x0 : BitVec 5) : Statement (.enq x0) := by
  intro w h hw
  cases h
  simp [decode, decodeWord32, decodeLead, decodeEngGroup, checked, wordLR_op, wordLR_d, wordLR_a, wordLR_b,
    wordLR_f, wordLR_x, declaredFork, declaredJoin, declaredBar, -BitVec.getLsbD_eq_getElem]

theorem ecancel (x0 : BitVec 6) : Statement (.ecancel x0) := by
  intro w h hw
  cases h
  simp only [Instr.wf, Bool.and_eq_true, Bool.or_eq_true, decide_eq_true_eq] at hw
  have h0 := hw
  simp [decode, decodeWord32, decodeLead, decodeEngGroup, checked, wordLR_op, wordLR_d, wordLR_a, wordLR_b,
    wordLR_f, wordLR_x, declaredFork, declaredJoin, declaredBar, h0, -BitVec.getLsbD_eq_getElem]
  exact h0

theorem wptr (x0 : BitVec 5) (x1 : Bool) : Statement (.wptr x0 x1) := by
  intro w h hw
  cases h
  simp only [Instr.wf, Bool.and_eq_true, Bool.or_eq_true, decide_eq_true_eq] at hw
  have h0 := hw
  simp [decode, decodeWord32, decodeLead, decodeEngGroup, checked, wordLR_op, wordLR_d, wordLR_a, wordLR_b,
    wordLR_f, wordLR_x, pack15_hi, pack15_lo, pack15_bit, pack42_hi, pack42_lo, pack24_hi, pack24_lo,
    pack33_hi, pack33_lo, pack51_hi, pack51_lo, pack51_bit, pack23_hi, pack23_lo, pack411_hi, pack411_mid,
    pack411_lo, pack411_bit1, pack411_bit0, pack222_hi, pack222_mid, pack222_lo, packShift_hi, packShift_lo,
    packExtr_hi, packExtr_mid, packExtr_lo, packCsr_hi, packCsr_lo, declaredFork, declaredJoin, declaredBar,
    badDst_of_dstOk h0, -BitVec.getLsbD_eq_getElem]

theorem estat (x0 : BitVec 5) (x1 : BitVec 2) : Statement (.estat x0 x1) := by
  intro w h hw
  cases h
  simp only [Instr.wf, Bool.and_eq_true, Bool.or_eq_true, decide_eq_true_eq] at hw
  have h0 := hw
  simp [decode, decodeWord32, decodeLead, decodeEngGroup, checked, wordLR_op, wordLR_d, wordLR_a, wordLR_b,
    wordLR_f, wordLR_x, pack15_hi, pack15_lo, pack15_bit, pack42_hi, pack42_lo, pack24_hi, pack24_lo,
    pack33_hi, pack33_lo, pack51_hi, pack51_lo, pack51_bit, pack23_hi, pack23_lo, pack411_hi, pack411_mid,
    pack411_lo, pack411_bit1, pack411_bit0, pack222_hi, pack222_mid, pack222_lo, packShift_hi, packShift_lo,
    packExtr_hi, packExtr_mid, packExtr_lo, packCsr_hi, packCsr_lo, declaredFork, declaredJoin, declaredBar,
    badDst_of_dstOk h0, -BitVec.getLsbD_eq_getElem]

theorem spmask (x0 : BitVec 4) : Statement (.spmask x0) := by
  intro w h hw
  cases h
  simp only [Instr.wf, Bool.and_eq_true, Bool.or_eq_true, decide_eq_true_eq] at hw
  have h0 := hw
  simp [decode, decodeWord32, decodeLead, decodeSteerGroup, checked, wordLR_op, wordLR_d, wordLR_a, wordLR_b,
    wordLR_f, wordLR_x, maskLow, pack24_hi, pack24_lo, h0, -BitVec.getLsbD_eq_getElem]

theorem spmaskn (x0 : BitVec 5) : Statement (.spmaskn x0) := by
  intro w h hw
  cases h
  simp [decode, decodeWord32, decodeLead, decodeSteerGroup, checked, wordLR_op, wordLR_d, wordLR_a, wordLR_b,
    wordLR_f, wordLR_x, -BitVec.getLsbD_eq_getElem]

theorem spcount (x0 : BitVec 5) : Statement (.spcount x0) := by
  intro w h hw
  cases h
  simp [decode, decodeWord32, decodeLead, decodeSteerGroup, checked, wordLR_op, wordLR_d, wordLR_a, wordLR_b,
    wordLR_f, wordLR_x, -BitVec.getLsbD_eq_getElem]

theorem spflag (x0 : BitVec 5) : Statement (.spflag x0) := by
  intro w h hw
  cases h
  simp [decode, decodeWord32, decodeLead, decodeSteerGroup, checked, wordLR_op, wordLR_d, wordLR_a, wordLR_b,
    wordLR_f, wordLR_x, -BitVec.getLsbD_eq_getElem]

theorem spval (x0 : BitVec 5) : Statement (.spval x0) := by
  intro w h hw
  cases h
  simp [decode, decodeWord32, decodeLead, decodeSteerGroup, checked, wordLR_op, wordLR_d, wordLR_a, wordLR_b,
    wordLR_f, wordLR_x, -BitVec.getLsbD_eq_getElem]

theorem bpin (x0 : BitVec 5) (x1 : BitVec 3) : Statement (.bpin x0 x1) := by
  intro w h hw
  cases h
  simp [decode, decodeWord32, decodeLead, decodeBasinGroup, checked, wordLR_op, wordLR_d, wordLR_a, wordLR_b,
    wordLR_f, wordLR_x, pack15_hi, pack15_lo, pack15_bit, pack42_hi, pack42_lo, pack24_hi, pack24_lo,
    pack33_hi, pack33_lo, pack51_hi, pack51_lo, pack51_bit, pack23_hi, pack23_lo, pack411_hi, pack411_mid,
    pack411_lo, pack411_bit1, pack411_bit0, pack222_hi, pack222_mid, pack222_lo, packShift_hi, packShift_lo,
    packExtr_hi, packExtr_mid, packExtr_lo, packCsr_hi, packCsr_lo, -BitVec.getLsbD_eq_getElem]

theorem bunpin (x0 : BitVec 5) (x1 : BitVec 3) : Statement (.bunpin x0 x1) := by
  intro w h hw
  cases h
  simp [decode, decodeWord32, decodeLead, decodeBasinGroup, checked, wordLR_op, wordLR_d, wordLR_a, wordLR_b,
    wordLR_f, wordLR_x, pack15_hi, pack15_lo, pack15_bit, pack42_hi, pack42_lo, pack24_hi, pack24_lo,
    pack33_hi, pack33_lo, pack51_hi, pack51_lo, pack51_bit, pack23_hi, pack23_lo, pack411_hi, pack411_mid,
    pack411_lo, pack411_bit1, pack411_bit0, pack222_hi, pack222_mid, pack222_lo, packShift_hi, packShift_lo,
    packExtr_hi, packExtr_mid, packExtr_lo, packCsr_hi, packCsr_lo, -BitVec.getLsbD_eq_getElem]

theorem binval (x0 : BitVec 5) (x1 : BitVec 2) : Statement (.binval x0 x1) := by
  intro w h hw
  cases h
  simp [decode, decodeWord32, decodeLead, decodeBasinGroup, checked, wordLR_op, wordLR_d, wordLR_a, wordLR_b,
    wordLR_f, wordLR_x, pack15_hi, pack15_lo, pack15_bit, pack42_hi, pack42_lo, pack24_hi, pack24_lo,
    pack33_hi, pack33_lo, pack51_hi, pack51_lo, pack51_bit, pack23_hi, pack23_lo, pack411_hi, pack411_mid,
    pack411_lo, pack411_bit1, pack411_bit0, pack222_hi, pack222_mid, pack222_lo, packShift_hi, packShift_lo,
    packExtr_hi, packExtr_mid, packExtr_lo, packCsr_hi, packCsr_lo, -BitVec.getLsbD_eq_getElem]

theorem bprobe (x0 : BitVec 5) (x1 : BitVec 5) (x2 : BitVec 3) : Statement (.bprobe x0 x1 x2) := by
  intro w h hw
  cases h
  simp only [Instr.wf, Bool.and_eq_true, Bool.or_eq_true, decide_eq_true_eq] at hw
  have h0 := hw
  simp [decode, decodeWord32, decodeLead, decodeBasinGroup, checked, wordLR_op, wordLR_d, wordLR_a, wordLR_b,
    wordLR_f, wordLR_x, pack15_hi, pack15_lo, pack15_bit, pack42_hi, pack42_lo, pack24_hi, pack24_lo,
    pack33_hi, pack33_lo, pack51_hi, pack51_lo, pack51_bit, pack23_hi, pack23_lo, pack411_hi, pack411_mid,
    pack411_lo, pack411_bit1, pack411_bit0, pack222_hi, pack222_mid, pack222_lo, packShift_hi, packShift_lo,
    packExtr_hi, packExtr_mid, packExtr_lo, packCsr_hi, packCsr_lo, badDst_of_dstOk h0,
    -BitVec.getLsbD_eq_getElem]

theorem bfill (x0 : BitVec 5) (x1 : BitVec 3) : Statement (.bfill x0 x1) := by
  intro w h hw
  cases h
  simp [decode, decodeWord32, decodeLead, decodeBasinGroup, checked, wordLR_op, wordLR_d, wordLR_a, wordLR_b,
    wordLR_f, wordLR_x, pack15_hi, pack15_lo, pack15_bit, pack42_hi, pack42_lo, pack24_hi, pack24_lo,
    pack33_hi, pack33_lo, pack51_hi, pack51_lo, pack51_bit, pack23_hi, pack23_lo, pack411_hi, pack411_mid,
    pack411_lo, pack411_bit1, pack411_bit0, pack222_hi, pack222_mid, pack222_lo, packShift_hi, packShift_lo,
    packExtr_hi, packExtr_mid, packExtr_lo, packCsr_hi, packCsr_lo, -BitVec.getLsbD_eq_getElem]

theorem trap (x0 : BitVec 6) : Statement (.trap x0) := by
  intro w h hw
  cases h
  simp [decode, decodeWord32, decodeLead, decodeSysGroup, checked, wordLR_op, wordLR_d, wordLR_a, wordLR_b,
    wordLR_f, wordLR_x, -BitVec.getLsbD_eq_getElem]

theorem brk (x0 : BitVec 6) : Statement (.brk x0) := by
  intro w h hw
  cases h
  simp [decode, decodeWord32, decodeLead, decodeSysGroup, checked, wordLR_op, wordLR_d, wordLR_a, wordLR_b,
    wordLR_f, wordLR_x, -BitVec.getLsbD_eq_getElem]

theorem region (x0 : BitVec 6) (x1 : BitVec 4) (x2 : BitVec 16) : Statement (.region x0 x1 x2) := by
  intro w h hw
  cases h
  simp only [Instr.wf, Bool.or_eq_true, decide_eq_true_eq] at hw
  have hr : regionRangeOk SyncIds.all.bars x0 x1 = true := by
    rcases hw with rfl | hw
    · rfl
    · exact declaredRange x0 x1 hw
  simp [decode, decodeWord32, decodeLead, decodeRegion, checked, wordRegion_op, wordRegion_bfirst,
    wordRegion_bcount, wordRegion_live, hr, -BitVec.getLsbD_eq_getElem]

theorem bkrd (x0 : BitVec 5) (x1 : BitVec 5) : Statement (.bkrd x0 x1) := by
  intro w h hw
  cases h
  simp only [Instr.wf, Bool.and_eq_true, Bool.or_eq_true, decide_eq_true_eq] at hw
  have h0 := hw
  simp [decode, decodeWord32, decodeBankOp, checked, wordLR_op, wordLR_d, wordLR_a, wordLR_b, wordLR_f,
    wordLR_x, badDst_of_dstOk h0, -BitVec.getLsbD_eq_getElem]

theorem bkwr (x0 : BitVec 5) (x1 : BitVec 5) : Statement (.bkwr x0 x1) := by
  intro w h hw
  cases h
  simp [decode, decodeWord32, decodeBankOp, checked, wordLR_op, wordLR_d, wordLR_a, wordLR_b, wordLR_f,
    wordLR_x, -BitVec.getLsbD_eq_getElem]

theorem bkred (x0 : BitVec 5) (x1 : BitVec 5) (x2 : BitVec 5) (x3 : BitVec 2) (x4 : BitVec 4) : Statement (.bkred x0 x1 x2 x3 x4) := by
  intro w h hw
  cases h
  simp only [Instr.wf, Bool.and_eq_true, Bool.or_eq_true, decide_eq_true_eq] at hw
  obtain ⟨⟨h0, h1⟩, h2⟩ := hw
  have h2 : ¬(x3 = 3 ∧ 8 ≤ x4) := by
    rintro ⟨ha, hb⟩
    rcases h2 with h | h
    · exact h ha
    · exact absurd hb (BitVec.not_le.mpr h)
  simp [decode, decodeWord32, decodeBankOp, checked, wordLR_op, wordLR_d, wordLR_a, wordLR_b, wordLR_f,
    wordLR_x, pack15_hi, pack15_lo, pack15_bit, pack42_hi, pack42_lo, pack24_hi, pack24_lo, pack33_hi,
    pack33_lo, pack51_hi, pack51_lo, pack51_bit, pack23_hi, pack23_lo, pack411_hi, pack411_mid, pack411_lo,
    pack411_bit1, pack411_bit0, pack222_hi, pack222_mid, pack222_lo, packShift_hi, packShift_lo, packExtr_hi,
    packExtr_mid, packExtr_lo, packCsr_hi, packCsr_lo, badDst_of_dstOk h0, BitVec.not_lt.mpr h1,
    -BitVec.getLsbD_eq_getElem]
  exact ⟨h1, by simpa using h2⟩

theorem bkamo (x0 : BitVec 5) (x1 : BitVec 5) (x2 : BitVec 5) (x3 : BitVec 4) (x4 : Bool) : Statement (.bkamo x0 x1 x2 x3 x4) := by
  intro w h hw
  cases h
  simp only [Instr.wf, Bool.and_eq_true, Bool.or_eq_true, decide_eq_true_eq] at hw
  obtain ⟨h0, h1⟩ := hw
  simp [decode, decodeWord32, decodeBankOp, checked, wordLR_op, wordLR_d, wordLR_a, wordLR_b, wordLR_f,
    wordLR_x, pack15_hi, pack15_lo, pack15_bit, pack42_hi, pack42_lo, pack24_hi, pack24_lo, pack33_hi,
    pack33_lo, pack51_hi, pack51_lo, pack51_bit, pack23_hi, pack23_lo, pack411_hi, pack411_mid, pack411_lo,
    pack411_bit1, pack411_bit0, pack222_hi, pack222_mid, pack222_lo, packShift_hi, packShift_lo, packExtr_hi,
    packExtr_mid, packExtr_lo, packCsr_hi, packCsr_lo, badDst_of_dstOk h0, BitVec.not_lt.mpr h1,
    -BitVec.getLsbD_eq_getElem]
  exact h1

theorem bksend (x0 : BitVec 5) : Statement (.bksend x0) := by
  intro w h hw
  cases h
  simp [decode, decodeWord32, decodeBankOp, checked, wordLR_op, wordLR_d, wordLR_a, wordLR_b, wordLR_f,
    wordLR_x, -BitVec.getLsbD_eq_getElem]

theorem vadd (x0 : LaneWord) : Statement (.vadd x0) := by
  intro w h hw
  cases h
  exact lane 0x00 x0 _ rfl rfl hw

theorem vsub (x0 : LaneWord) : Statement (.vsub x0) := by
  intro w h hw
  cases h
  exact lane 0x01 x0 _ rfl rfl hw

theorem vmul (x0 : LaneWord) : Statement (.vmul x0) := by
  intro w h hw
  cases h
  exact lane 0x02 x0 _ rfl rfl hw

theorem vfma (x0 : LaneWord) : Statement (.vfma x0) := by
  intro w h hw
  cases h
  exact lane 0x03 x0 _ rfl rfl hw

theorem vfms (x0 : LaneWord) : Statement (.vfms x0) := by
  intro w h hw
  cases h
  exact lane 0x04 x0 _ rfl rfl hw

theorem vneg (x0 : LaneWord) : Statement (.vneg x0) := by
  intro w h hw
  cases h
  exact lane 0x05 x0 _ rfl rfl hw

theorem vabs (x0 : LaneWord) : Statement (.vabs x0) := by
  intro w h hw
  cases h
  exact lane 0x06 x0 _ rfl rfl hw

theorem vmin (x0 : LaneWord) : Statement (.vmin x0) := by
  intro w h hw
  cases h
  exact lane 0x07 x0 _ rfl rfl hw

theorem vmax (x0 : LaneWord) : Statement (.vmax x0) := by
  intro w h hw
  cases h
  exact lane 0x08 x0 _ rfl rfl hw

theorem vcmp (x0 : LaneWord) : Statement (.vcmp x0) := by
  intro w h hw
  cases h
  exact lane 0x09 x0 _ rfl rfl hw

theorem vcvt (x0 : LaneWord) : Statement (.vcvt x0) := by
  intro w h hw
  cases h
  exact lane 0x0A x0 _ rfl rfl hw

theorem vcmul (x0 : LaneWord) : Statement (.vcmul x0) := by
  intro w h hw
  cases h
  exact lane 0x10 x0 _ rfl rfl hw

theorem vcfma (x0 : LaneWord) : Statement (.vcfma x0) := by
  intro w h hw
  cases h
  exact lane 0x11 x0 _ rfl rfl hw

theorem vconj (x0 : LaneWord) : Statement (.vconj x0) := by
  intro w h hw
  cases h
  exact lane 0x12 x0 _ rfl rfl hw

theorem vrcp (x0 : LaneWord) : Statement (.vrcp x0) := by
  intro w h hw
  cases h
  exact lane 0x18 x0 _ rfl rfl hw

theorem vrsq (x0 : LaneWord) : Statement (.vrsq x0) := by
  intro w h hw
  cases h
  exact lane 0x19 x0 _ rfl rfl hw

theorem vsqrt (x0 : LaneWord) : Statement (.vsqrt x0) := by
  intro w h hw
  cases h
  exact lane 0x1A x0 _ rfl rfl hw

theorem vexp2 (x0 : LaneWord) : Statement (.vexp2 x0) := by
  intro w h hw
  cases h
  exact lane 0x1B x0 _ rfl rfl hw

theorem vlog2 (x0 : LaneWord) : Statement (.vlog2 x0) := by
  intro w h hw
  cases h
  exact lane 0x1C x0 _ rfl rfl hw

theorem vtanh (x0 : LaneWord) : Statement (.vtanh x0) := by
  intro w h hw
  cases h
  exact lane 0x1D x0 _ rfl rfl hw

theorem vaddi (x0 : LaneWord) : Statement (.vaddi x0) := by
  intro w h hw
  cases h
  exact lane 0x20 x0 _ rfl rfl hw

theorem vsubi (x0 : LaneWord) : Statement (.vsubi x0) := by
  intro w h hw
  cases h
  exact lane 0x21 x0 _ rfl rfl hw

theorem vmuli (x0 : LaneWord) : Statement (.vmuli x0) := by
  intro w h hw
  cases h
  exact lane 0x22 x0 _ rfl rfl hw

theorem vmulhi (x0 : LaneWord) : Statement (.vmulhi x0) := by
  intro w h hw
  cases h
  exact lane 0x23 x0 _ rfl rfl hw

theorem vand (x0 : LaneWord) : Statement (.vand x0) := by
  intro w h hw
  cases h
  exact lane 0x24 x0 _ rfl rfl hw

theorem vor (x0 : LaneWord) : Statement (.vor x0) := by
  intro w h hw
  cases h
  exact lane 0x25 x0 _ rfl rfl hw

theorem vxor (x0 : LaneWord) : Statement (.vxor x0) := by
  intro w h hw
  cases h
  exact lane 0x26 x0 _ rfl rfl hw

theorem vandn (x0 : LaneWord) : Statement (.vandn x0) := by
  intro w h hw
  cases h
  exact lane 0x27 x0 _ rfl rfl hw

theorem vshl (x0 : LaneWord) : Statement (.vshl x0) := by
  intro w h hw
  cases h
  exact lane 0x28 x0 _ rfl rfl hw

theorem vshr (x0 : LaneWord) : Statement (.vshr x0) := by
  intro w h hw
  cases h
  exact lane 0x29 x0 _ rfl rfl hw

theorem vsar (x0 : LaneWord) : Statement (.vsar x0) := by
  intro w h hw
  cases h
  exact lane 0x2A x0 _ rfl rfl hw

theorem vfshl (x0 : LaneWord) : Statement (.vfshl x0) := by
  intro w h hw
  cases h
  exact lane 0x2B x0 _ rfl rfl hw

theorem vfshr (x0 : LaneWord) : Statement (.vfshr x0) := by
  intro w h hw
  cases h
  exact lane 0x2C x0 _ rfl rfl hw

theorem vclz (x0 : LaneWord) : Statement (.vclz x0) := by
  intro w h hw
  cases h
  exact lane 0x2D x0 _ rfl rfl hw

theorem vpopc (x0 : LaneWord) : Statement (.vpopc x0) := by
  intro w h hw
  cases h
  exact lane 0x2E x0 _ rfl rfl hw

theorem vmini (x0 : LaneWord) : Statement (.vmini x0) := by
  intro w h hw
  cases h
  exact lane 0x2F x0 _ rfl rfl hw

theorem vmaxi (x0 : LaneWord) : Statement (.vmaxi x0) := by
  intro w h hw
  cases h
  exact lane 0x30 x0 _ rfl rfl hw

theorem vshuf (x0 : LaneWord) : Statement (.vshuf x0) := by
  intro w h hw
  cases h
  exact lane 0x38 x0 _ rfl rfl hw

theorem vsel (x0 : LaneWord) : Statement (.vsel x0) := by
  intro w h hw
  cases h
  exact lane 0x39 x0 _ rfl rfl hw

theorem vbcast (x0 : LaneWord) : Statement (.vbcast x0) := by
  intro w h hw
  cases h
  exact lane 0x3A x0 _ rfl rfl hw

theorem vrot (x0 : LaneWord) : Statement (.vrot x0) := by
  intro w h hw
  cases h
  exact lane 0x3B x0 _ rfl rfl hw

theorem vred (x0 : LaneWord) : Statement (.vred x0) := by
  intro w h hw
  cases h
  exact lane 0x3C x0 _ rfl rfl hw

theorem vscan (x0 : LaneWord) : Statement (.vscan x0) := by
  intro w h hw
  cases h
  exact lane 0x3D x0 _ rfl rfl hw

theorem mand (x0 : LaneWord) : Statement (.mand x0) := by
  intro w h hw
  cases h
  exact lane 0x40 x0 _ rfl rfl hw

theorem mor (x0 : LaneWord) : Statement (.mor x0) := by
  intro w h hw
  cases h
  exact lane 0x41 x0 _ rfl rfl hw

theorem mxor (x0 : LaneWord) : Statement (.mxor x0) := by
  intro w h hw
  cases h
  exact lane 0x42 x0 _ rfl rfl hw

theorem mnot (x0 : LaneWord) : Statement (.mnot x0) := by
  intro w h hw
  cases h
  exact lane 0x43 x0 _ rfl rfl hw

theorem mpop (x0 : LaneWord) : Statement (.mpop x0) := by
  intro w h hw
  cases h
  exact lane 0x44 x0 _ rfl rfl hw

theorem vpopv (x0 : LaneWord) : Statement (.vpopv x0) := by
  intro w h hw
  cases h
  exact lane 0x48 x0 _ rfl rfl hw

theorem vrep (x0 : LaneWord) : Statement (.vrep x0) := by
  intro w h hw
  cases h
  exact lane 0x49 x0 _ rfl rfl hw

theorem vrepf (x0 : LaneWord) : Statement (.vrepf x0) := by
  intro w h hw
  cases h
  exact lane 0x4A x0 _ rfl rfl hw

theorem vrdv (x0 : LaneWord) : Statement (.vrdv x0) := by
  intro w h hw
  cases h
  exact lane 0x4B x0 _ rfl rfl hw

theorem vld (x0 : LaneWord) : Statement (.vld x0) := by
  intro w h hw
  cases h
  exact lane 0x50 x0 _ rfl rfl hw

theorem vst (x0 : LaneWord) : Statement (.vst x0) := by
  intro w h hw
  cases h
  exact lane 0x51 x0 _ rfl rfl hw

theorem vstm (x0 : LaneWord) : Statement (.vstm x0) := by
  intro w h hw
  cases h
  exact lane 0x52 x0 _ rfl rfl hw

theorem vldx (x0 : LaneWord) : Statement (.vldx x0) := by
  intro w h hw
  cases h
  exact lane 0x53 x0 _ rfl rfl hw

theorem qset (x0 : LaneWord) : Statement (.qset x0) := by
  intro w h hw
  cases h
  exact lane 0x54 x0 _ rfl rfl hw

theorem qadd (x0 : LaneWord) : Statement (.qadd x0) := by
  intro w h hw
  cases h
  exact lane 0x55 x0 _ rfl rfl hw

theorem vzero (x0 : LaneWord) : Statement (.vzero x0) := by
  intro w h hw
  cases h
  exact lane 0x58 x0 _ rfl rfl hw

theorem vsca (x0 : LaneWord) : Statement (.vsca x0) := by
  intro w h hw
  cases h
  exact lane 0x59 x0 _ rfl rfl hw

theorem vend (x0 : LaneWord) : Statement (.vend x0) := by
  intro w h hw
  cases h
  exact lane 0x5A x0 _ rfl rfl hw

theorem illegalEncoding (x0 : BitVec 9) (x1 : Word) : Statement (.illegalEncoding x0 x1) := by
  intro w h _
  cases h

theorem fetchDenied (x0 : BitVec 9) (x1 : Word) : Statement (.fetchDenied x0 x1) := by
  intro w h _
  cases h

theorem wakeEnd (x0 : GatedRes) : Statement (.wakeEnd x0) := by
  intro w h _
  cases h

theorem launch : Statement (.launch) := by
  intro w h _
  cases h

theorem load : Statement (.load) := by
  intro w h _
  cases h

theorem unload : Statement (.unload) := by
  intro w h _
  cases h

theorem predicateReadComplete : Statement (.predicateReadComplete) := by
  intro w h _
  cases h

theorem dispatch : Statement (.dispatch) := by
  intro w h _
  cases h

theorem fwStage : Statement (.fwStage) := by
  intro w h _
  cases h

theorem fwActivate : Statement (.fwActivate) := by
  intro w h _
  cases h

theorem secCommandComplete : Statement (.secCommandComplete) := by
  intro w h _
  cases h

theorem engineFaultDelivery : Statement (.engineFaultDelivery) := by
  intro w h _
  cases h

theorem tmbxPop : Statement (.tmbxPop) := by
  intro w h _
  cases h

theorem teardownComplete : Statement (.teardownComplete) := by
  intro w h _
  cases h

theorem loadQueuePerform : Statement (.loadQueuePerform) := by
  intro w h _
  cases h

theorem storeQueuePerform : Statement (.storeQueuePerform) := by
  intro w h _
  cases h

theorem recordBegin : Statement (.recordBegin) := by
  intro w h _
  cases h

theorem cpy : Statement (.cpy) := by
  intro w h _
  cases h

theorem cpyfill : Statement (.cpyfill) := by
  intro w h _
  cases h

theorem cpybulk : Statement (.cpybulk) := by
  intro w h _
  cases h

theorem bulkBankReserved : Statement (.bulkBankReserved) := by
  intro w h _
  cases h

theorem cpyclose : Statement (.cpyclose) := by
  intro w h _
  cases h

theorem bulkReservationTimeout : Statement (.bulkReservationTimeout) := by
  intro w h _
  cases h

theorem gather : Statement (.gather) := by
  intro w h _
  cases h

theorem scatter : Statement (.scatter) := by
  intro w h _
  cases h

theorem copyRecordComplete : Statement (.copyRecordComplete) := by
  intro w h _
  cases h

theorem rowLanding : Statement (.rowLanding) := by
  intro w h _
  cases h

theorem matrixRecordComplete : Statement (.matrixRecordComplete) := by
  intro w h _
  cases h

theorem coll : Statement (.coll) := by
  intro w h _
  cases h

theorem managementReset : Statement (.managementReset) := by
  intro w h _
  cases h

theorem stopSpacing : Statement (.stopSpacing) := by
  intro w h _
  cases h

theorem laneWriteLanding : Statement (.laneWriteLanding) := by
  intro w h _
  cases h

theorem mark : Statement (.mark) := by
  intro w h hw
  cases h
  simp [decode, decodeWord32, decodeLead, decodeMemGroup, checked, wordLR_op, wordLR_d, wordLR_a, wordLR_b,
    wordLR_f, wordLR_x, -BitVec.getLsbD_eq_getElem]

theorem eret : Statement (.eret) := by
  intro w h hw
  cases h
  simp [decode, decodeWord32, decodeLead, decodeSysGroup, checked, wordLR_op, wordLR_d, wordLR_a, wordLR_b,
    wordLR_f, wordLR_x, -BitVec.getLsbD_eq_getElem]

theorem halt : Statement (.halt) := by
  intro w h hw
  cases h
  simp [decode, decodeWord32, decodeLead, decodeSysGroup, checked, wordLR_op, wordLR_d, wordLR_a, wordLR_b,
    wordLR_f, wordLR_x, -BitVec.getLsbD_eq_getElem]

theorem bkend : Statement (.bkend) := by
  intro w h hw
  cases h
  simp [decode, decodeWord32, decodeBankOp, checked, wordLR_op, wordLR_d, wordLR_a, wordLR_b, wordLR_f,
    wordLR_x, -BitVec.getLsbD_eq_getElem]

theorem loadComplete : Statement (.loadComplete) := by
  intro w h _
  cases h

theorem deviceReset : Statement (.deviceReset) := by
  intro w h _
  cases h


end Sys2Proof.Laws.RoundTrip
end

