-- ==== Sys2Proof/Tests/Slice0.lean ====
section
/-! SUPPORT. Tests/Slice0.lean: words that the spec writes out, ill-formed terms, and for each statement with hypotheses a state and
operands that meet them, clause by clause. -/
open Sys2Proof Sys2Proof.Machine
namespace Sys2Proof.Tests
set_option Elab.async false

/-! ## Words of the spec's listings and examples -/

/-- R105 and R107, from the listing of chapter 05. -/
theorem test_decode_alu : decode (.w32 0x06F70000) = .ok (.add 23 23 0) ∧ decode (.w32 0x0416B080) = .ok (.mul 0 22 22) ∧
    decode (.w32 0x06D205C0) = .ok (.mov 22 18) ∧ decode (.w32 0x07DCEC80) = .ok (.minn 30 28 29) ∧
    decode (.w32 0x0B9BB900) = .ok (.cmpltn 28 27 23) ∧ decode (.w32 0x0F178C07) = .ok (.ins 24 23 17 32 7) := by decide

/-- R108, from its own examples. -/
theorem test_decode_immediate : decode (.w32 0x30000003) = .ok (.shli 0 0 3) ∧ decode (.w32 0x4B5903C8) = .ok (.extr 26 25 15 8) ∧
    decode (.w32 0x47330004) = .ok (.lea 25 19 4) ∧ decode (.w32 0x22D6FFFF) = .ok (.addi 22 22 0xFFFF) ∧
    decode (.w32 0x66DFFFFD) = .ok (.bnz 22 0x1FFFFD) := by decide

/-- R210, R208, R275, from the listings of chapters 11, 18 and 20. -/
theorem test_decode_memory : decode (.w32 0x8416D809) = .ok (.st 0 22 3 3 0 9) ∧
    decode (.w32 0x8356D800) = .ok (.ld 26 22 3 3 0 0) ∧ decode (.w32 0x871A4001) = .ok (.st 24 26 1 0 0 1) ∧
    decode (.w32 0xA0000000) = .ok .mark ∧ decode (.w32 0xA379D082) = .ok (.amo 27 25 26 0 true) := by decide

/-- R114 to R122, R126, R127, R228, R257, from the listings. -/
theorem test_decode_control : decode (.w32 0xA8000000) = .ok (.fork 0) ∧ decode (.w32 0xA8000040) = .ok (.join 0) ∧
    decode (.w32 0xA81900C0) = .ok (.enq 25) ∧ decode (.w32 0xAB200141) = .ok (.wptr 25 true) ∧
    decode (.w32 0xAC000008) = .ok (.spmask 8) ∧ decode (.w32 0xAC160080) = .ok (.spcount 22) ∧
    decode (.w32 0xA41700C1) = .ok (.barwait 23 1) ∧ decode (.w32 0xA41C0004) = .ok (.barinit 28 4) ∧
    decode (.w32 0xB3BC00C0) = .ok (.bprobe 29 28 0) ∧ decode (.w32 0xB80006C0) = .ok (.region 0 0 0x6C0) ∧
    decode (.w32 0xB4000080) = .ok .halt ∧ decode (.w32 0x141F0000) = .ok (.jr 31) := by decide

/-- A lane word from its fields (R86). -/
def lw (ty : BitVec 4) (dst a b c : BitVec 8) (mask : BitVec 3) (dem : BitVec 3) (fn : BitVec 13) : LaneWord :=
  { stop := false, ty := ty, dst := dst, a := a, b := b, c := c, mask := mask, minv := false, dem := dem, fn := fn }

/-- R86, R87, R146, R154, R156, R158, R159, R162 to R169, R173 from the listings of chapters 04, 07, 08, 13 and 19. -/
theorem test_decode_lanes : decode (.w64 0x00A0301020028080) = .ok (.vadd (lw 10 3 1 2 0 1 4 0x80)) ∧
    decode (.w64 0x3DA0301000000000) = .ok (.vscan (lw 10 3 1 0 0 0 0 0)) ∧
    decode (.w64 0x39A0403020020080) = .ok (.vsel (lw 10 4 3 2 0 1 0 0x80)) ∧
    decode (.w64 0x3CA0504000000000) = .ok (.vred (lw 10 5 4 0 0 0 0 0)) ∧
    decode (.w64 0x2C62B2A292200000) = .ok (.vfshr (lw 6 43 42 41 34 0 0 0)) ∧
    decode (.w64 0x4800100000000001) = .ok (.vpopv (lw 0 1 0 0 0 0 0 1)) ∧
    decode (.w64 0x4900000000F00000) = .ok (.vrep (lw 0 0 0 0 15 0 0 0)) ∧
    decode (.w64 0x524001A0D0000000) = .ok (.vstm (lw 4 0 26 13 0 0 0 0)) ∧
    decode (.w64 0x5400000000200018) = .ok (.qset (lw 0 0 0 0 2 0 0 0x18)) ∧
    decode (.w64 0xDA00000000000000) = .ok (.vend { lw 0 0 0 0 0 0 0 0 with stop := true }) := by decide

/-- R286, from its table; ADD is a word of a handler, HALT is none (R96). -/
theorem test_decode_handler : decodeHandler 0xC2F60000 = .ok (.bkrd 23 22) ∧ decodeHandler 0xC016B840 = .ok (.bkwr 22 23) ∧
    decodeHandler 0xC2F0888A = .ok (.bkred 23 16 17 0 10) ∧ decodeHandler 0xC316B8C2 = .ok (.bkamo 24 22 23 0 true) ∧
    decodeHandler 0xC0170100 = .ok (.bksend 23) ∧ decodeHandler 0xC0000140 = .ok .bkend ∧
    decodeHandler 0x06F70000 = .ok (.add 23 23 0) ∧ decodeHandler 0xB4000080 = .error 5 := by decide

/-- R273, R275, R301, R303, from their examples. -/
theorem test_decode_system : decode (.w32 0xA0000054) = .ok (.fence 1 1) ∧ decode (.w32 0xA0000070) = .ok (.fence 3 0) ∧
    decode (.w32 0xA336C0EF) = .ok (.cas 25 22 24 23 true) ∧ decode (.w32 0x4EC00002) = .ok (.csrrd 22 2) := by decide

/-! ## Ill-formed terms: one for each check of Instr.wf -/

theorem test_wf_destination : (Instr.add 1 0 0).wf = false ∧ (Instr.add 15 0 0).wf = false ∧ (Instr.add 0 0 0).wf = true ∧
    (Instr.add 16 0 0).wf = true := by decide
theorem test_wf_width : (Instr.sext 0 0 3).wf = false ∧ (Instr.zext 0 0 3).wf = false ∧ (Instr.zext 0 0 2).wf = true := by decide
theorem test_wf_fields : (Instr.ins 0 0 0 63 1).wf = false ∧ (Instr.ins 0 0 0 63 0).wf = true ∧
    (Instr.extr 0 0 63 1).wf = false ∧ (Instr.extr 0 0 63 0).wf = true := by decide
theorem test_wf_rounding : (Instr.fadd 0 0 0 3 false).wf = false ∧ (Instr.fmul 0 0 0 3 true).wf = false ∧
    (Instr.ffma 0 0 0 0 3 true).wf = false ∧ (Instr.fcvt 0 0 0 3).wf = false ∧ (Instr.fcmp 0 0 0 4 false).wf = false := by decide
theorem test_wf_csr : (Instr.csrrd 0 0x13).wf = false ∧ (Instr.csrwr 0 0x50).wf = false ∧ (Instr.csrrd 0 0x4F).wf = true := by
  decide
theorem test_wf_access : (Instr.ld 0 0 0 7 0 0).wf = false ∧ (Instr.st 0 0 0 4 0 0).wf = false ∧
    (Instr.fence 0 3).wf = false ∧ (Instr.amo 0 0 0 9 true).wf = false ∧ (Instr.bkamo 0 0 0 9 true).wf = false := by decide
theorem test_wf_control : (Instr.ecancel 0).wf = false ∧ (Instr.spmask 2).wf = false ∧ (Instr.region 62 3 0).wf = false ∧
    (Instr.region 61 3 0).wf = true ∧ (Instr.bkred 0 0 0 0 12).wf = false ∧ (Instr.bkred 0 0 0 3 8).wf = false := by decide
theorem test_wf_lanes : (Instr.vadd (lw 2 0 0 0 0 0 0 0)).wf = false ∧ (Instr.vmul (lw 10 0 0 0 1 0 0 0)).wf = false ∧
    (Instr.vadd (lw 10 0 0 0 0 0 0 0)).wf = true := by decide


/-! ## States -/

/-- An image with one lead page, one lane page, a lane token, a join token and a barrier object. -/
def image0 : Image :=
  { base := 0x10000, len := 0x4000, signer := 0, entry := 0, scratch := 4096,
    sections := [{ kind := 1, len := 0x1000, off := 0x1000, sig := 0 }, { kind := 2, len := 0x1000, off := 0x2000, sig := 0 }]
    syncs := [{ kind := 1, id := 1, valA := 0x40, valB := 0 }, { kind := 2, id := 1, valA := 1, valB := 0 },
              { kind := 3, id := 2, valA := 0x100, valB := 3 }], leaving := false }

/-- A task of vale 0 with 4,096 bytes of scratchpad from 0 on. -/
def task0 : Task :=
  { vale := 0, graph := 1, node := 0, inst := 0, image := 0x10000, args := 0, count := 1, alloc := 0, size := 4096, epoch := 1 }

/-- A core that runs it. -/
def core0 : Core := { Core.zero with run := .running, task := some task0 }

/-- A vale that owns core 0, slice 0 and channel 0. -/
def vale0 : Vale := { Vale.zero with cores := 1, slices := 1, channels := 1, images := [image0] }

/-- A state with core 0 as given, vale 0 as given and keyed, and the agent in turn. -/
def world (turn : Agent) (v : Vale) (k : Core) : State :=
  { (State.reset.setVale 0 v).setCore 0 k with
    turn := turn, sec := { Security.zero with slots := Security.zero.slots.set 0 (some 1), keys := 1 } }

/-- Core 0 in turn at its lead slice. -/
def lead (k : Core) : State := world (.lead 0) vale0 k

/-- Core 0 in turn, with its lead slice changed. -/
def leadLs (f : LeadSlice → LeadSlice) : State := lead { core0 with ls := f core0.ls }

/-- The management core with its lead slice changed. -/
def mgmtLs (f : LeadSlice → LeadSlice) : State :=
  { State.reset with mgmt := { State.reset.mgmt with ls := f State.reset.mgmt.ls } }

/-- A slice whose newest belt value is `v`. -/
def newest (v : Word) (l : LeadSlice) : LeadSlice := { l with belt := l.belt.set 0 (.val v) }

/-! ## Witnesses: encodings and the lead slice -/

theorem witness_DecodeEncode : encode (.ins 16 0 31 63 0) = some (.w32 0x0E00FFE0) ∧ (Instr.ins 16 0 31 63 0).wf = true := by
  decide

theorem witness_EncodeDecode : decode (.w32 0x0E00FFE0) = .ok (.ins 16 0 31 63 0) := by decide

/-- AluAResults, AluBResults, ImmediateResults, ScalarFloatResults (whose rounding is not 3): a slice that issues, on a core and on
the management core, and behind an access that can still fail, with three sources that have arrived. -/
theorem witness_results : LeadReady (lead core0) (.core 0) ∧ LeadReady State.reset .mgmt ∧
    readSrc ((lead core0).ls (.core 0)) 15 = some 0 ∧ readSrc ((lead core0).ls (.core 0)) 16 = some 0 ∧
    readSrc (State.reset.ls .mgmt) 31 = some 0 ∧ (2 : BitVec 2) ≠ 3 ∧
    (let s := leadLs fun l => { l with held := [⟨0, false, none, l.belt, l.n, l.lp⟩] }
     leadInTurn s = some (.core 0) ∧ canIssue s (.core 0) = true ∧ firstReport s (.core 0) = none ∧ heldUp s (.core 0) = true ∧
     failDue (s.ls (.core 0)) = false ∧ committed s (.core 0) = false ∧ dueReport s (.core 0) = none) ∧
    (48 : BitVec 6).toNat + (15 : BitVec 6).toNat + 1 ≤ 64 := by
  repeat' apply And.intro
  all_goals decide +kernel

theorem witness_InsertField : (0x0C00003F : BitVec 32).extractLsb' 26 6 = 3 ∧
    64 < ((0x0C0007FF : BitVec 32).extractLsb' 5 6).toNat + ((0x0C0007FF : BitVec 32).extractLsb' 0 5).toNat + 1 ∧
    ((0x0C0007E0 : BitVec 32).extractLsb' 5 6).toNat + ((0x0C0007E0 : BitVec 32).extractLsb' 0 5).toNat + 1 ≤ 64 ∧
    (0x0C0007E0 : BitVec 32).extractLsb' 21 5 = 0 ∧ 16 ≤ ((0x0E0007E0 : BitVec 32).extractLsb' 21 5).toNat := by decide

theorem witness_ResultFrame : 16 ≤ (16 : BitVec 5).toNat ∧
    LeadReady (leadLs fun l => { l with belt := l.belt.set 15 (.pend 7) }) (.core 0) ∧
    readSrc ((leadLs fun l => { l with belt := l.belt.set 15 (.pend 7) }).ls (.core 0)) 15 = none := by
  repeat' apply And.intro
  all_goals decide +kernel

theorem witness_BranchTargets : LeadReady (leadLs (newest 1)) (.core 0) ∧
    readSrc ((leadLs (newest 1)).ls (.core 0)) 0 = some 1 := by
  repeat' apply And.intro
  all_goals decide +kernel

theorem witness_JumpRegister : (0x141F0000 : BitVec 32).extractLsb' 26 6 = 5 ∧ LeadReady (leadLs (newest 3)) (.core 0) ∧
    readSrc ((leadLs (newest 3)).ls (.core 0)) 0 = some 3 ∧ (3 : Word).toNat % 4 ≠ 0 ∧
    readSrc ((leadLs (newest 3)).ls (.core 0)) 1 = some 0 ∧ (0 : Word).toNat % 4 = 0 := by
  repeat' apply And.intro
  all_goals decide +kernel

theorem witness_LoopAndCsr : LeadReady State.reset .mgmt ∧ (State.reset.ls .mgmt).machine = true ∧
    readSrc (State.reset.ls .mgmt) 0 = some 0 ∧ csrDefined 4 = true ∧ 4 ≤ (4 : BitVec 12).toNat ∧
    LeadReady (lead core0) (.core 0) ∧ readSrc ((lead core0).ls (.core 0)) 0 = some 0 ∧
    ((lead core0).ls (.core 0)).machine = false ∧ csrDefined 0 = true ∧ ((lead core0).core 0).task = some task0 := by
  repeat' apply And.intro
  all_goals decide +kernel

theorem witness_TrapsAndReturns : LeadReady (lead core0) (.core 0) ∧ ((lead core0).ls (.core 0)).machine = false ∧
    LeadReady State.reset .mgmt ∧ State.reset.mgmt.ls.machine = true ∧ State.reset.mgmt.ls.epc.toNat % 4 = 0 ∧
    LeadReady (mgmtLs fun l => { l with epc := 2 }) .mgmt ∧ (mgmtLs fun l => { l with epc := 2 }).mgmt.ls.machine = true ∧
    (mgmtLs fun l => { l with epc := 2 }).mgmt.ls.epc.toNat % 4 ≠ 0 ∧ (0xB40000C0 : BitVec 32).extractLsb' 26 6 = 0x2D ∧
    (0xB40000C0 : BitVec 32).extractLsb' 6 5 = 3 := by
  repeat' apply And.intro
  all_goals decide +kernel

/-! ## Witnesses: the lane slice -/

/-- A task whose lane stream stands at a word of zeros, on a mapped page, with its core changed. -/
def onLanes (f : Core → Core) : State :=
  let s := State.reset.withFetchWord 64 0
  s.setCore 0 (f (s.core 0))

/-- The task of that state. -/
def laneTask : Task :=
  { vale := 0, graph := 0, node := 0, inst := 0, image := 0x3000, args := 0, count := 1, alloc := 0, size := 4096, epoch := 0 }

/-- With one steering entry. -/
def withEntry (x : SteerKind) : State := onLanes fun k => { k with steer := [⟨x, 0⟩] }

/-- With its lane slice changed. -/
def lanes (f : LaneSlice → LaneSlice) : State := onLanes fun k => { k with lane := f k.lane }

theorem witness_lane_words : LaneReady (lanes id) 0 laneTask (.vaddi (lw 0 5 1 2 0 0 0 0)) (lw 0 5 1 2 0 0 0 0) ∧
    LaneReady (lanes id) 0 laneTask (.vfma (lw 13 5 1 2 3 1 7 0x80)) (lw 13 5 1 2 3 1 7 0x80) ∧
    8 ≤ (lw 8 5 1 2 0 0 0 0).ty.toNat := by
  repeat' apply And.intro
  all_goals decide +kernel

theorem witness_LaneFunctionResults : (1 : Nat) ≠ 0 ∧
    LaneReady (lanes id) 0 laneTask (.vcmp (lw 8 5 1 2 0 0 0 4)) (lw 8 5 1 2 0 0 0 4) ∧
    LaneReady (lanes id) 0 laneTask (.vcvt (lw 11 5 1 0 0 0 0 0)) (lw 11 5 1 0 0 0 0 0) ∧ (lw 11 5 1 0 0 0 0 0).ty.toNat < 12 := by
  repeat' apply And.intro
  all_goals decide +kernel

theorem witness_LaneMoveResults : LaneReady (lanes id) 0 laneTask (.vsel (lw 7 5 1 2 0 1 0 0x80)) (lw 7 5 1 2 0 1 0 0x80) ∧
    LaneReady (lanes id) 0 laneTask (.vred (lw 7 5 1 0 0 0 0 0)) (lw 7 5 1 0 0 0 0 0) ∧
    LaneReady (lanes id) 0 laneTask (.vscan (lw 7 5 1 0 0 0 0 0)) (lw 7 5 1 0 0 0 0 0) ∧
    (lw 7 5 1 0 0 0 0 0).ty.toNat < 8 ∧ (lw 7 5 1 0 0 0 0 0).fn.extractLsb' 0 2 = 0 ∧
    LaneReady (lanes id) 0 laneTask (.vred (lw 10 5 1 0 0 0 0 2)) (lw 10 5 1 0 0 0 0 2) ∧ (lw 10 5 1 0 0 0 0 2).fn.toNat % 4 ≠ 3 ∧
    LaneReady (lanes id) 0 laneTask (.vscan (lw 10 5 1 0 0 0 0 0)) (lw 10 5 1 0 0 0 0 0) ∧
    LaneReady (lanes id) 0 laneTask (.mnot (lw 0 7 7 0 0 0 0 0)) (lw 0 7 7 0 0 0 0 0) ∧
    LaneReady (lanes id) 0 laneTask (.mpop (lw 0 255 7 0 0 0 0 0)) (lw 0 255 7 0 0 0 0 0) := by
  repeat' apply And.intro
  all_goals decide +kernel

theorem witness_LaneControlResults :
    (LaneReady (withEntry (.value 5)) 0 laneTask (.vpopv (lw 10 1 0 0 0 0 0 0)) (lw 10 1 0 0 0 0 0 0) ∧
      ((withEntry (.value 5)).core 0).steer = [⟨.value 5, 0⟩] ∧ storesDone ((withEntry (.value 5)).core 0) 0 = true) ∧
    (LaneReady (withEntry (.mask 5)) 0 laneTask (.vpopv (lw 0 1 0 0 0 0 0 1)) (lw 0 1 0 0 0 0 0 1) ∧
      (lw 0 1 0 0 0 0 0 1).fn.getLsbD 0 = true) ∧
    (bodyHeld (withEntry (.count 1)) 0 0 0x49 (lw 0 0 0 0 3 0 0 0) = false ∧
      bodyHeld (withEntry (.flag true)) 0 0 0x4A (lw 0 0 0 0 3 0 0 0) = false) ∧
    (LaneReady (withEntry (.count 0)) 0 laneTask (.vrep (lw 0 0 0 0 3 0 0 0)) (lw 0 0 0 0 3 0 0 0) ∧
      LaneReady (withEntry (.count 1)) 0 laneTask (.vrep (lw 0 0 0 0 3 0 0 0)) (lw 0 0 0 0 3 0 0 0) ∧
      LaneReady (withEntry (.flag true)) 0 laneTask (.vrepf (lw 0 0 0 0 3 0 0 0)) (lw 0 0 0 0 3 0 0 0) ∧
      LaneReady (withEntry (.flag false)) 0 laneTask (.vrepf (lw 0 0 0 0 3 0 0 0)) (lw 0 0 0 0 3 0 0 0) ∧
      ((withEntry (.count 1)).core 0).lane.levels = [] ∧
      nestBad [] ((withEntry (.count 1)).core 0).lane.pc 3
        (vendAt (withEntry (.count 1)) ((withEntry (.count 1)).core 0).lane 0) = false) ∧
    LaneReady (lanes id) 0 laneTask (.vrdv (lw 0 1 0 0 0 0 0 3)) (lw 0 1 0 0 0 0 0 3) ∧
    LaneReady (lanes id) 0 laneTask (.vend (lw 0 0 0 0 0 0 0 0)) (lw 0 0 0 0 0 0 0 0) ∧
    LaneReady (lanes id) 0 laneTask (.qset (lw 0 0 0 0 2 0 0 0x78)) (lw 0 0 0 0 2 0 0 0x78) ∧
    LaneReady (lanes id) 0 laneTask (.qadd (lw 0 0 1 0 0 0 0 0)) (lw 0 0 1 0 0 0 0 0) := by
  repeat' apply And.intro
  all_goals decide +kernel

/-- Elements that reach the last byte of the allocation, and one that passes it; a pointer that misaligns 16-bit elements. -/
theorem witness_LaneMemoryResults :
    (LaneReady (lanes id) 0 laneTask (.vld (lw 0 5 0 0 15 0 0 0)) (lw 0 5 0 0 15 0 0 0) ∧ (lanes id).poison = [] ∧
      (15 : BitVec 8).toInt * 256 + 255 + 1 ≤ laneTask.size) ∧
    LaneReady (lanes id) 0 laneTask (.vldx (lw 0 5 0 2 15 0 0 0)) (lw 0 5 0 2 15 0 0 0) ∧
    LaneReady (lanes id) 0 laneTask (.vst (lw 0 0 5 0 15 0 0 0)) (lw 0 0 5 0 15 0 0 0) ∧
    (LaneReady (lanes fun l => { l with rows := l.rows.set 13 256 }) 0 laneTask (.vstm (lw 4 0 26 13 15 0 0 0)) (lw 4 0 26 13 15 0 0 0) ∧
      rowField ((lanes fun l => { l with rows := l.rows.set 13 256 }).core 0) 13 32 0 = 256 ∧
      ¬ (16 : BitVec 8).toInt * 256 + 0 + 1 ≤ laneTask.size) ∧
    (LaneReady (lanes fun l => { l with ptrs := l.ptrs.set 0 1 }) 0 laneTask (.vld (lw 1 5 0 0 0 0 0 0)) (lw 1 5 0 0 0 0 0 0) ∧
      typeWidth 1 / 8 = 2) ∧
    LaneReady (lanes id) 0 laneTask (.vst (lw 0 0 5 0 16 0 0 0)) (lw 0 0 5 0 16 0 0 0) := by
  repeat' apply And.intro
  all_goals decide +kernel

/-- A store of the byte at 0 that is due in the next clk and may stay in flight to `top`. -/
def landing (top : Nat) (f : Core → Core) : State :=
  onLanes fun k => f { k with lane := { k.lane with flight := [⟨1, .store [(0, 7)] top⟩], stopped := true } }

/-- A copy channel that used bank 0 in that clk, a gather that may use it, and neither. -/
theorem witness_LaneLandings_banks :
    (let s := landing 9 fun k => { k with banks := 1, banksAt := 1 }
     (s.core 0).scratch.wf = true ∧ laneIssues (s.core 0) = false ∧ (s.core 0).lane.clk + 1 < 9 ∧
     copyBanks (s.core 0) 1 &&& bankBits 0 1 ≠ 0) ∧
    (let s := landing 9 fun k => { k with lane := { k.lane with gathers := [⟨255, 9, 1, 7, 5⟩] } }
     laneIssues (s.core 0) = false ∧ copyBanks (s.core 0) 1 &&& bankBits 0 1 = 0 ∧ readBanks (s.core 0) &&& bankBits 0 1 ≠ 0) ∧
    (let s := landing 1 fun k => { k with banks := 1, banksAt := 1 }
     laneIssues (s.core 0) = false ∧ 1 ≤ (s.core 0).lane.clk + 1) := by
  repeat' apply And.intro
  all_goals decide +kernel

theorem witness_LaneLandings :
    (let s := lanes fun l => { l with flight := [⟨1, .row 3 7 5⟩], counted := true }
     s.turn = .lane 0 ∧ (s.core 0).lane.clk = 0 ∧ laneIssues (s.core 0) = false) ∧
    laneIssues ((lanes id).core 0) = true ∧
    (let s := landing 9 id
     (s.core 0).scratch.wf = true ∧ laneIssues (s.core 0) = false ∧ copyBanks (s.core 0) 1 &&& bankBits 0 1 = 0 ∧
     readBanks (s.core 0) &&& bankBits 0 1 = 0) ∧
    (let s := lanes fun l => { l with spacing := 64 }
     laneActive (s.core 0) = true ∧ (s.core 0).lane.counted = false ∧ (s.core 0).lane.popDue = false ∧
     storesDone (s.core 0) (s.core 0).lane.after = true ∧ (s.core 0).lane.flight = [] ∧ (s.core 0).lane.gathers = [] ∧
     (laneWordAt s 0).getLsbD 63 = false) ∧
    (((lanes fun l => { l with spacing := 64, overrun := true }).core 0).lane.overrun = true ∧
      ((lanes fun l => { l with spacing := 64, overrun := true }).core 0).lane.flight = []) ∧
    (let s := lanes fun l => { l with spacing := 64, gathers := [⟨255, 9, 1, 7, 5⟩] }
     laneActive (s.core 0) = true ∧ (s.core 0).lane.flight = [] ∧ (s.core 0).lane.gathers ≠ []) ∧
    (let s := lanes fun l => { l with gathers := [⟨255, 9, 1, 7, 5⟩], clk := 9 }
     (s.core 0).lane.gathers = [⟨255, 9, 1, 7, 5⟩] ∧ 9 ≤ (s.core 0).lane.clk) ∧
    ((lanes fun l => { l with gathers := [⟨255, 9, 1, 7, 5⟩], clk := 8 }).core 0).lane.clk < 9 := by
  decide +kernel

/-! ## Witnesses: memory of the lead slice -/

/-- Vale 0 of a lane state, its lead slice in turn, with an i8 tile of K = N = 2 whose header stands at 0x8000. -/
def tileWorld (turn : Agent) (f : Core → Core) : State :=
  let s := onLanes f
  let m := memPut (memPut (memPut s.dram 0x8000 8 0x0002000200000100) 0x8008 8 0x200000000000) 0x8010 8 0x10000
  { s with turn := turn, dram := m, tags := alSet (0, 0) s.tags 0x100 (1, 1) }

/-- Its core with the newest value an address, in pages whose tables and bytes reach the banks given as held by another core. -/
def mapped (va : Word) (banks : List Nat) (f : LeadSlice → LeadSlice) (l1 : List L1Word) : State :=
  { tileWorld (.lead 0) (fun k => { k with ls := f (newest va k.ls), l1 := l1 }) with
      bulk := banks.map fun b => { bank := b, core := 9, eng := 0 } }

/-- A load of the own scratchpad at offset `off`. -/
def loadEntry (id off : Nat) : Entry :=
  { id := id, pc := 0, kind := .load 0x0200000000000000 8 false 1 0 (.scratch off), sent := none }

/-- A store to it of eight bytes. -/
def storeEntry (id off : Nat) : Entry :=
  { id := id, pc := 0, kind := .store 0x0200000000000000 8 0 1 0 (.scratch off), sent := none }

/-- A slice with `n` entries in the load queue and `m` in the store queue. -/
def filled (n m : Nat) (l : LeadSlice) : LeadSlice :=
  { l with lq := List.replicate n (loadEntry 0 0), sq := List.replicate m (loadEntry 0 0), seq := 9 }

/-- A slice whose newest value is an address, with so many entries queued. -/
def aimed (va : Word) (n m : Nat) : State := leadLs fun l => filled n m (newest va l)

/-- The same with scratchpad word 511 poisoned. -/
def aimedPoison (va : Word) : State := { aimed va 0 0 with poison := [.scratch 0 511] }

theorem witness_LoadIssues :
    LeadReady (aimed 0x0200000000000FF8 31 0) (.core 0) ∧ (6 : BitVec 3) ≠ 7 ∧
    readSrc ((aimed 0x0200000000000FF8 31 0).ls (.core 0)) 0 = some 0x0200000000000FF8 ∧
    leadPlace (aimed 0x0200000000000FF8 31 0) (.core 0) { acc := .read, va := 0x0200000000000FF8, n := 8, rq := 1 } =
      .ok (.scratch 0xFF8, none) ∧
    ((aimed 0x0200000000000FF8 31 0).ls (.core 0)).lq.length < 32 ∧
    loadPoisoned (aimed 0x0200000000000FF8 31 0) (.core 0) 0x0200000000000FF8 8 1 (.scratch 0xFF8) = false ∧
    (LeadReady (aimed 0x0200000000000FF8 32 0) (.core 0) ∧ ((aimed 0x0200000000000FF8 32 0).ls (.core 0)).lq.length = 32) ∧
    (LeadReady (aimedPoison 0x0200000000000FF8) (.core 0) ∧
      loadPoisoned (aimedPoison 0x0200000000000FF8) (.core 0) 0x0200000000000FF8 8 1 (.scratch 0xFF8) = true ∧
      storeAhead (aimedPoison 0x0200000000000FF8) (.core 0) 9 (.scratch 0xFF8) 8 = false) ∧
    (let s := { leadLs fun l => { newest 0x0200000000000FF8 l with sq := [storeEntry 0 0xFF8], seq := 9 } with poison := [.scratch 0 511] }
     LeadReady s (.core 0) ∧ loadPoisoned s (.core 0) 0x0200000000000FF8 8 1 (.scratch 0xFF8) = true ∧
     storeAhead s (.core 0) 9 (.scratch 0xFF8) 8 = true) ∧
    leadPlace (aimed 0x0200000000001000 0 0) (.core 0) { acc := .read, va := 0x0200000000001000, n := 8, rq := 1 } =
      .error 128 ∧
    (leadHeld (aimed 0x0200000000000FF8 31 0) (.core 0) { acc := .read, va := 0x0200000000000FF8, n := 8, rq := 1 } = false ∧
      leadHeld (aimedPoison 0x0200000000000FF8) (.core 0) { acc := .read, va := 0x0200000000000FF8, n := 8, rq := 1 } = false ∧
      leadHeld (aimed 0x0200000000001000 0 0) (.core 0) { acc := .read, va := 0x0200000000001000, n := 8, rq := 1 } = false) ∧
    (LeadReady (mapped 0x8000 [4] id []) (.core 0) ∧ readSrc ((mapped 0x8000 [4] id []).ls (.core 0)) 0 = some 0x8000 ∧
      leadHeld (mapped 0x8000 [4] id []) (.core 0) { acc := .read, va := 0x8000, n := 8, rq := 1 } = true) := by
  repeat' apply And.intro
  all_goals decide +kernel

theorem witness_StoreIssues : (∀ e o, Place.scratch 0xFF8 ≠ .endpoint e o) ∧
    LeadReady (aimed 0x0200000000000FF8 0 31) (.core 0) ∧ (3 : BitVec 3).toNat < 4 ∧
    readSrc ((aimed 0x0200000000000FF8 0 31).ls (.core 0)) 1 = some 0 ∧
    leadPlace (aimed 0x0200000000000FF8 0 31) (.core 0) { acc := .write, va := 0x0200000000000FF8, n := 8, rq := 1 } =
      .ok (.scratch 0xFF8, none) ∧
    ((aimed 0x0200000000000FF8 0 31).ls (.core 0)).sq.length < 32 ∧
    (LeadReady (aimed 0x0200000000000FF8 0 32) (.core 0) ∧ ((aimed 0x0200000000000FF8 0 32).ls (.core 0)).sq.length = 32) ∧
    leadPlace (aimed 0x0200000000000FFC 0 0) (.core 0) { acc := .write, va := 0x0200000000000FFC, n := 8, rq := 1 } =
      .error 64 ∧
    (leadHeld (aimed 0x0200000000000FF8 0 31) (.core 0) { acc := .write, va := 0x0200000000000FF8, n := 8, rq := 1 } = false ∧
      leadHeld (aimed 0x0200000000000FFC 0 0) (.core 0) { acc := .write, va := 0x0200000000000FFC, n := 8, rq := 1 } = false) ∧
    (LeadReady (mapped 0x8000 [4] id []) (.core 0) ∧
      leadHeld (mapped 0x8000 [4] id []) (.core 0) { acc := .write, va := 0x8000, n := 8, rq := 1 } = true) := by
  refine ⟨nofun, ?_⟩
  repeat' apply And.intro
  all_goals decide +kernel

/-- The closing word of the task mailbox, and a core that has stored it. -/
theorem witness_CommittingAccess :
    LeadReady (aimed 0x0300000000001040 0 31) (.core 0) ∧
    leadPlace (aimed 0x0300000000001040 0 31) (.core 0) { acc := .write, va := 0x0300000000001040, n := 8, rq := 3 } =
      .ok (.endpoint 1 0x40, none) ∧ (0x40 : BitVec 12).getLsbD 6 = true ∧
    (let s := lead { core0 with commit := true }
     leadInTurn s = some (.core 0) ∧ canIssue s (.core 0) = true ∧ firstReport s (.core 0) = none ∧
     heldUp s (.core 0) = false ∧ (s.core 0).commit = true) := by
  repeat' apply And.intro
  all_goals decide +kernel

theorem witness_PrefetchRetires : LeadReady (aimed 0x0100000000000000 31 0) (.core 0) ∧
    readSrc ((aimed 0x0100000000000000 31 0).ls (.core 0)) 0 = some 0x0100000000000000 ∧
    ((aimed 0x0100000000000000 31 0).ls (.core 0)).lq.length < 32 ∧ 2 ^ 56 ≤ (0x0100000000000000 : Word).toNat ∧
    LeadReady State.reset .mgmt ∧ readSrc (State.reset.ls .mgmt) 0 = some 0 := by
  repeat' apply And.intro
  all_goals decide +kernel

theorem witness_MarkAndFenceIssue : LeadReady (aimed 0 31 31) (.core 0) ∧ (2 : BitVec 2) ≠ 3 ∧
    ((aimed 0 31 31).ls (.core 0)).lq.length < 32 ∧ ((aimed 0 31 31).ls (.core 0)).sq.length < 32 ∧
    LeadReady (aimed 0 0 32) (.core 0) ∧ ((aimed 0 0 32).ls (.core 0)).sq.length = 32 := by
  repeat' apply And.intro
  all_goals decide +kernel

theorem witness_AtomicsIssue : LeadReady (aimed 0x0200000000000FF8 31 31) (.core 0) ∧
    readSrc ((aimed 0x0200000000000FF8 31 31).core 0).ls 0 = some 0x0200000000000FF8 ∧
    ((aimed 0x0200000000000FF8 31 31).core 0).ls.lq.length < 32 ∧ ((aimed 0x0200000000000FF8 31 31).core 0).ls.sq.length < 32 ∧
    leadPlace (aimed 0x0200000000000FF8 31 31) (.core 0) { acc := .atomic, va := 0x0200000000000FF8, n := 8, rq := 3 } =
      .ok (.scratch 0xFF8, none) ∧
    leadHeld (aimed 0x0200000000000FF8 31 31) (.core 0) { acc := .atomic, va := 0x0200000000000FF8, n := 8, rq := 3 } = false ∧
    placePoisoned (aimed 0x0200000000000FF8 31 31) (.core 0) (.scratch 0xFF8) 8 = false := by
  repeat' apply And.intro
  all_goals decide +kernel

/-- The last word before a boundary of each map and the first behind it. -/
theorem witness_AccessChecks : windowOk 0x0200000000200000 = false ∧
    (windowOk 0x0200000000000004 = true ∧ (0x0200000000000004 : Word).toNat % 8 ≠ 0) ∧
    (windowOk 0x02000000001FFFF8 = true ∧ topByte 0x02000000001FFFF8 = 2 ∧ (0x02000000001FFFF8 : Word).toNat % 8 = 0) ∧
    (windowOk 0x0300000000FFF000 = true ∧ topByte 0x0300000000FFF000 = 3 ∧ (0x0300000000FFF000 : Word).toNat % 4 = 0) ∧
    (windowOk 0x0100000000000000 = true ∧ topByte 0x0100000000000000 = 1 ∧
      inDomain (lead core0) (domainDev 0x0100000000000000) = false) ∧
    ((0x00EFFFFFFFFFFFF8 : Word).toNat < 0x00F0000000000000 ∧ 0x0100000000000000 ≤ (0x0100000000000000 : Word).toNat) ∧
    (0x00F0080000000000 ≤ (0x00F0080000000000 : Word).toNat ∧ (0x00FEFFFFFFFFFFF8 : Word).toNat < 0x00FF000000000000) ∧
    (0x00FF000004000000 ≤ (0x00FF000004000000 : Word).toNat ∧ (0x00FF6FFFFFFFFFF8 : Word).toNat < 0x00FF700000000000) ∧
    ((0x00FF000003FFFFF8 : Word).toNat = 0x00FF000000000000 + 0x3FFFFF8 ∧ (0x00FF000003FFFFFC : Word).toNat % 8 ≠ 0) ∧
    ((0x00F007FFFFFFFFF8 : Word).toNat = 0x00F0000000000000 + (15 : Fin 16).val * 2 ^ 39 + 0x7FFFFFFFF8 ∧ 0x7FFFFFFFF8 < 2 ^ 39) ∧
    (keyed (lead core0) 0 = true ∧ ((lead core0).vale 0).channels.getLsbD (0x3FFFFFF8 / 2 ^ 30) = true ∧
      ((lead core0).vale 15).channels.getLsbD (0x7FFFFFFFF8 / 2 ^ 30) = false) ∧
    (0x00FF700000000000 ≤ (0x00FF700000000000 : Word).toNat ∧ (0x00FFFFFFFFFFFFF8 : Word).toNat < 0x0100000000000000) := by
  repeat' apply And.intro
  all_goals decide +kernel

/-- Core 0 with entries at the heads of its queues. -/
def heads (lq sq : List Entry) : State := leadLs fun l => { l with lq := lq, sq := sq, seq := 9 }

/-- An entry of kind `k`. -/
def entryFor (k : EntryKind) : Entry := { id := 3, pc := 0, kind := k, sent := none }

/-- A copy of the word at 0x8000 in L1. -/
def copyAt (rq : BitVec 2) (ends : Nat) : L1Word :=
  { va8 := 0x1000, asid := 0, rq := rq, place := .dram 0x8000 false, data := 0x123, ends := ends, spans := [], rd := true, wr := true,
    late := 0, bad := false }

/-- A load at the head of the load queue that finds the L1 copies given, and what it hits. -/
def LoadHits (rq : BitVec 2) (l1 : List L1Word) (hit : Option L1Word) : Prop :=
  let e := entryFor (.load 0x8000 8 false rq 15 (.dram 0x8000 false))
  let s := mapped 0 [] (fun l => { l with lq := [e], seq := 9 }) l1
  leadInTurn s = some (.core 0) ∧ taskVale s 0 = some 0 ∧ valeKey s 0 = some 1 ∧ (s.core 0).ls.lq = [e] ∧
  heldFault (s.core 0).ls e = none ∧ bankBlocks s 0 none 0x8000 = false ∧
  storeAhead s (.core 0) e.id (.dram 0x8000 false) 8 = false ∧
  loadPoisoned s (.core 0) 0x8000 8 rq (.dram 0x8000 false) = false ∧ l1Hit s (s.core 0) (asidOf s 0) 0x8000 rq false = hit ∧
  (translate s 0 0x8000 .read).toOption = some ⟨0x8000, false, true, true⟩ ∧ (0x8000 : Word).toNat / 8 % 16 + 15 ≤ 15 ∧
  poisonedAt s .dram ((0x8000 / 8 + 15) * 8) 8 = false

/-- A load of the scratchpad, of a poisoned word, from a `.wt` copy, from an exclusive one, and of a page that L1 does not hold, of
each type. -/
theorem witness_LoadsPerform :
    (leadInTurn (heads [loadEntry 3 0xFF8] []) = some (.core 0) ∧
      heldFault ((heads [loadEntry 3 0xFF8] []).core 0).ls (loadEntry 3 0xFF8) = none ∧
      storeAhead (heads [loadEntry 3 0xFF8] []) (.core 0) 3 (.scratch 0xFF8) 8 = false ∧
      loadPoisoned (heads [loadEntry 3 0xFF8] []) (.core 0) 0x0200000000000000 8 1 (.scratch 0xFF8) = false) ∧
    (let e := loadEntry 3 0xFF8
     let s := { heads [e] [] with poison := [.scratch 0 511] }
     heldFault (s.core 0).ls e = none ∧ storeAhead s (.core 0) e.id (.scratch 0xFF8) 8 = false ∧ (s.core 0).ls.sure e.id = false ∧
     bankWaits s (.core 0) e = false ∧ e.sent = none ∧ loadPoisoned s (.core 0) 0x0200000000000000 8 1 (.scratch 0xFF8) = true ∧
     olderHeld (s.core 0).ls e.id = false ∧ takesReports s (.core 0) = true ∧ firstReport s (.core 0) = none) ∧
    LoadHits 1 [copyAt 1 0] (some (copyAt 1 0)) ∧ LoadHits 2 [copyAt 2 1] (some (copyAt 2 1)) ∧
    LoadHits 1 [copyAt 0 0] (some (copyAt 0 0)) ∧ LoadHits 0 [] none ∧ LoadHits 1 [] none ∧ LoadHits 2 [copyAt 2 0] none ∧
    LoadHits 3 [copyAt 1 0] none := by
  repeat' apply And.intro
  all_goals decide +kernel

/-- A store of the last byte of a word at the head of the store queue, with the L1 copies given, and what a `.own` store would hit. -/
def StoresTo (rq : BitVec 2) (l1 : List L1Word) (hit : Option L1Word) : Prop :=
  let e := entryFor (.store 0x8007 1 0xAB rq 0 (.dram 0x8007 false))
  let s := mapped 0 [] (fun l => { l with sq := [e], seq := 9 }) l1
  leadInTurn s = some (.core 0) ∧ DramWfAt s ∧ taskVale s 0 = some 0 ∧ valeKey s 0 = some 1 ∧ (s.core 0).ls.sq = [e] ∧
  fillBlocks (s.core 0) 0x8007 1 = false ∧ heldFault (s.core 0).ls e = none ∧ heldBack s (.core 0) e = false ∧
  bankWaits s (.core 0) e = false ∧ 0x8007 % 8 + 1 ≤ 8 ∧
  (translate s 0 0x8007 .write).toOption = some ⟨0x8007, false, true, true⟩ ∧ poisonedAt s .dram (0x8007 / 8 * 8) 8 = false ∧
  l1Hit s (s.core 0) (asidOf s 0) 0x8007 0 true = hit

theorem witness_StoresPerform :
    (let e := entryFor (.store 0x0200000000000FFF 1 0xAB 1 0 (.scratch 0xFFF))
     leadInTurn (heads [] [e]) = some (.core 0) ∧ ((heads [] [e]).core 0).scratch.wf = true ∧
     fillBlocks ((heads [] [e]).core 0) 0x0200000000000FFF 1 = false ∧ heldFault ((heads [] [e]).core 0).ls e = none ∧
     heldBack (heads [] [e]) (.core 0) e = false) ∧
    StoresTo 3 [copyAt 1 0] none ∧ StoresTo 1 [copyAt 2 0] none ∧ StoresTo 0 [] none ∧ StoresTo 0 [copyAt 0 0] (some (copyAt 0 0)) := by
  repeat' apply And.intro
  all_goals decide +kernel

theorem witness_ScratchAtomicsPerform :
    (let e := entryFor (.amo 0x0200000000000FF8 8 8 5 (.scratch 0xFF8))
     let s := heads [e] [e]
     leadInTurn s = some (.core 0) ∧ (s.core 0).scratch.wf = true ∧ (s.core 0).ls.lq = [e] ∧ (s.core 0).ls.sq = [e] ∧
     heldFault (s.core 0).ls e = none ∧ heldBack s (.core 0) e = false ∧ fillBlocks (s.core 0) 0x0200000000000FF8 8 = false ∧
     placePoisoned s (.core 0) (.scratch 0xFF8) 8 = false) ∧
    (let e := entryFor (.cas 0x0200000000000FFC 4 0 5 (.scratch 0xFFC))
     let s := heads [e] [e]
     (s.core 0).ls.lq = [e] ∧ (s.core 0).ls.sq = [e] ∧ fillBlocks (s.core 0) 0x0200000000000FFC 4 = false) := by
  repeat' apply And.intro
  all_goals decide +kernel

theorem witness_MarkAndFencePerform :
    (let s := heads [entryFor .mark] [entryFor .mark]
     leadInTurn s = some (.core 0) ∧ (s.core 0).ls.lq = [entryFor .mark] ∧ (s.core 0).ls.sq = [entryFor .mark] ∧
     heldFault (s.core 0).ls (entryFor .mark) = none) ∧
    (let e := entryFor (.fence 3 2)
     ((heads [e, loadEntry 4 0] [e]).core 0).ls.lq = [e, loadEntry 4 0] ∧ (∀ x ∈ [loadEntry 4 0] ++ [], e.id ≤ x.id)) ∧
    (let e := entryFor (.fence 1 0)
     ((heads [e] [loadEntry 1 0, e]).core 0).ls.lq = [e] ∧ (heads [e] [loadEntry 1 0, e]).turn = .lead 0) ∧
    (let e := entryFor (.fence 3 1)
     ((heads [loadEntry 4 0] [e]).core 0).ls.sq = [e] ∧ (∀ x ∈ [loadEntry 4 0] ++ [], e.id ≤ x.id)) ∧
    (let e := entryFor (.fence 3 1)
     ∃ x ∈ ((heads [loadEntry 2 0] [e]).core 0).ls.lq, x.id < e.id) ∧
    (let e := entryFor (.fence 1 0)
     ((heads [loadEntry 2 0, e] [e]).core 0).ls.lq.head? = some (loadEntry 2 0) ∧ (loadEntry 2 0).id ≠ e.id) := by
  repeat' apply And.intro
  all_goals decide +kernel

/-- Barrier object 2 of the task with EXPECT 2, ARRIVED 1, and the newest belt value. -/
def atBarrier (phase : Nat) (v : Word) : State :=
  lead { core0 with scratch := memPut (memPut (memPut [] 0x100 4 2) 0x104 4 1) 0x108 4 phase, ls := newest v core0.ls }

/-- Each case of an add: below EXPECT, at it, past it; an EXPECT of 0; the phase that has flipped and the one that has not. -/
theorem witness_BarrierResults : LeadReady (atBarrier 0 2) (.core 0) ∧ barObject (atBarrier 0 2) (.core 0) 2 = some (0, 0x100) ∧
    readSrc ((atBarrier 0 2).core 0).ls 0 = some 2 ∧
    (memNum ((atBarrier 0 2).core 0).scratch 0x100 4 = 2 ∧ memNum ((atBarrier 0 2).core 0).scratch 0x104 4 = 1) ∧
    barObject (lead core0) (.core 0) 2 = some (0, 0x100) ∧ memNum ((lead core0).core 0).scratch 0x100 4 = 0 ∧
    memNum ((atBarrier 1 2).core 0).scratch 0x108 4 = 1 ∧ barNamed ((atBarrier 0 0).core 0) 0x100 = false ∧
    ((atBarrier 0 0).core 0).starved = false ∧ LeadReady (lead { core0 with starved := true }) (.core 0) ∧
    (let r : Record := { addr := 0, tval := 0, f := (Vector.replicate 16 0).set 2 0x80000100, pat := Vector.replicate 4 none, after := 0 }
     barNamed (core0.setEng 0 { Engine.zero with queue := [r] }) 0x100 = true) := by
  repeat' apply And.intro
  all_goals decide +kernel

/-! ## Witnesses: streams, engines, steering, regions -/

/-- Core 0 with a stream that FORK 1 started, VENDED as said. -/
def streaming (vended : Bool) (k : Core) : Core :=
  { k with ls := { k.ls with lane := true, vended := vended, forkId := 1 } }

/-- `n` steering entries of the count 3. -/
def steers (n : Nat) (k : Core) : Core := { k with steer := List.replicate n ⟨.count 3, 0⟩ }

theorem witness_ForkAndJoin : CoreReady (lead core0) 0 task0 ∧ taskImage (lead core0) task0 = some image0 ∧
    image0.section 2 = some { kind := 2, len := 0x1000, off := 0x2000, sig := 0 } ∧
    leadSync (lead core0) (.core 0) 1 1 = some { kind := 1, id := 1, valA := 0x40, valB := 0 } ∧
    leadSync (lead core0) (.core 0) 2 1 = some { kind := 2, id := 1, valA := 1, valB := 0 } ∧ core0.ls.lane = false ∧
    (CoreReady (lead (streaming true core0)) 0 task0 ∧ ((lead (streaming true core0)).core 0).lane.quiet = true) ∧
    (CoreReady (lead (steers 1 (streaming true core0))) 0 task0 ∧
      (∃ e ∈ ((lead (steers 1 (streaming true core0))).core 0).steer, e.kind ≠ .marker)) ∧
    (let s := lead (streaming false { core0 with lane := { core0.lane with starved := true } })
     CoreReady s 0 task0 ∧ (s.core 0).lane.starved = true ∧ (s.core 0).steer = []) ∧
    CoreReady (lead (streaming false core0)) 0 task0 := by
  repeat' apply And.intro
  all_goals decide +kernel

/-- A record at byte 0 of the allocation, with the words given in order. -/
def recordWords (ws : List Nat) : Memory := memPut [] 0 128 (packLanes 32 ws)

/-- A core whose newest value is that address, with the record and engine 2 as given. -/
def enqueuing (ws : List Nat) (x : Engine) : Core :=
  { core0 with scratch := recordWords ws, ls := newest 0x0200000000000000 core0.ls, engines := core0.engines.set 2 x }

/-- What the reads of the ENQ in that state end in: the engine of the record, or a cause. -/
def enqEnds (s : State) (addr : Word) : Option (Nat ⊕ BitVec 12) :=
  match enqRun 0 task0 addr (ownWord (.enq 0)) 40 (s.core 0).enqGot s with
  | .done _ r _ => some (.inl r.engine)
  | .fault _ x => some (.inr x.code)
  | .on _ _ => none

/-- The fields that stand at the first byte of the allocation. -/
def fieldsAt0 (k : Core) : Vector (BitVec 32) 16 := Vector.ofFn fun i => BitVec.ofNat 32 (memNum k.scratch (4 * i.val) 4)

/-- The ENQ of a record of those words at the first byte of the allocation, nothing of it read yet. -/
def Enqueues (ws : List Nat) (bad : Bool) (refs : List Nat) (ends : Nat ⊕ BitVec 12) : Prop :=
  let s := lead (enqueuing ws Engine.zero)
  let k := s.core 0
  CoreReady s 0 task0 ∧ readSrc k.ls 0 = some 0x0200000000000000 ∧ k.ls.lq = [] ∧ s.chunk = 0 ∧ k.enqGot = [] ∧ s.poison = [] ∧
  (0x0200000000000000 : Word).toNat % 64 = 0 ∧ OwnBytes task0 0x0200000000000000 64 0 ∧
  badCtrl (fieldsAt0 k) task0.size = bad ∧ (List.finRange 4).map (fun j => ((fieldsAt0 k)[4 + j.val]).toNat) = refs ∧
  enqEnds s 0x0200000000000000 = some ends

/-- The record with a pattern at its byte 64, which holds the number given in its bytes 8 to 11. -/
def patterned (boff : Nat) : List Nat := [0x0212, 0, 0, 0, 64] ++ List.replicate 13 0 ++ [boff]

/-- An MTHR without patterns, one that R95 does not take, a reference off its line, a pattern that R92 takes and one that it does
not; a full queue; a record that stands at no multiple of 64; a load that is out; a read that waits for a bank. -/
theorem witness_EnqPlacesRecord :
    (Enqueues [0x0212] false [0, 0, 0, 0] (.inl 2) ∧ Enqueues [0x9999] true [0, 0, 0, 0] (.inr 4) ∧
      Enqueues [0x0212, 0, 0, 0, 4] false [4, 0, 0, 0] (.inr 3) ∧ Enqueues (patterned 0) false [64, 0, 0, 0] (.inl 2) ∧
      Enqueues (patterned 1) false [64, 0, 0, 0] (.inr 4)) ∧
    (OwnBytes task0 (0x0200000000000000 + (64 : BitVec 32).signExtend 64) 64 64 ∧
      (parsePattern (memRead (enqueuing (patterned 0) Engine.zero).scratch 64 64) core0.ls.lp 0).isSome = true ∧
      parsePattern (memRead (enqueuing (patterned 1) Engine.zero).scratch 64 64) core0.ls.lp 0 = none) ∧
    (let r : Record := { addr := 0, tval := 0, f := Vector.replicate 16 0, pat := Vector.replicate 4 none, after := 0 }
     let s := lead (enqueuing [0x0212] { Engine.zero with queue := List.replicate 16 r })
     CoreReady s 0 task0 ∧ 16 ≤ ((s.core 0).engines[(2 : Fin 4)]).queue.length ∧ enqEnds s 0x0200000000000000 = some (.inl 2)) ∧
    ((0x0200000000000004 : Word).toNat % 64 ≠ 0 ∧ CoreReady (leadLs (newest 0x0200000000000004)) 0 task0 ∧
      enqEnds (leadLs (newest 0x0200000000000004)) 0x0200000000000004 = some (.inr 3)) ∧
    (let k := enqueuing [0x0212] Engine.zero
     let s := lead { k with ls := filled 1 0 k.ls }
     CoreReady s 0 task0 ∧ (s.core 0).ls.lq ≠ []) ∧
    (let s := mapped 0x8000 [0] id []
     CoreReady s 0 laneTask ∧ (s.core 0).ls.lq = [] ∧ s.chunk = 0 ∧
     (match enqRun 0 laneTask 0x8000 (ownWord (.enq 0)) 40 [] s with
       | .on _ _ => true
       | _ => false) = true) := by
  repeat' apply And.intro
  all_goals decide +kernel

/-- A record of engine `e` with the tag given. -/
def tagged (e tag : Nat) : Record :=
  { addr := 0, tval := 0, f := (Vector.replicate 16 0).set 0 (BitVec.ofNat 32 (tag * 0x1000 + e * 0x100 + 1)),
    pat := Vector.replicate 4 none, after := 0 }

/-- Core 0 with an engine's records as given. -/
def queued3 (e : Fin 4) (q : List Record) (act : List Active) (k : Core) : Core :=
  { k with engines := k.engines.set e { Engine.zero with queue := q, active := act, latch := some 3, undelivered := some 9 } }

/-- A record that has begun. -/
def begun (num : Nat) (r : Record) : Active := Active.start num r

theorem witness_EngineStatusAndCancel :
    (let s := lead (queued3 1 (List.replicate 16 (tagged 1 5)) [begun 1 (tagged 1 4)] core0)
     CoreReady s 0 task0 ∧ ((s.core 0).engines[1]).queue.length ≤ 16 ∧
     ∀ e : Fin 4, ∀ a ∈ ((s.core 0).engines[e]).active, a.r.tag ≠ (5 : BitVec 6).toNat) := by
  repeat' apply And.intro
  all_goals decide +kernel

theorem witness_SteeringPushes :
    (CoreReady (lead (steers 63 core0)) 0 task0 ∧ ((lead (steers 63 core0)).core 0).steer.length < 64 ∧
      readSrc ((lead (steers 63 core0)).core 0).ls 0 = some 0 ∧
      ∀ j : Fin 4, readSrc ((lead (steers 63 core0)).core 0).ls (BitVec.ofNat 5 (16 + (12 : BitVec 4).toNat + j.val)) = some 0) ∧
    (CoreReady (lead (steers 64 (streaming false core0))) 0 task0 ∧ 64 ≤ ((lead (steers 64 (streaming false core0))).core 0).steer.length) ∧
    CoreReady (lead (steers 64 core0)) 0 task0 ∧ CoreReady (lead (steers 64 (streaming true core0))) 0 task0 ∧
    (let s := lead (streaming false (steers 63 core0))
     CoreReady s 0 task0 ∧ (s.core 0).ls.lane = true ∧ (s.core 0).ls.vended = false ∧ (s.core 0).opening = none ∧
     (∀ j : Fin 16, (s.core 0).ls.n[j] = .val 0) ∧ enginesIdle (s.core 0) = true ∧ storesPerformed (s.core 0).ls = true ∧
     (s.core 0).bankOut = 0) := by
  repeat' apply And.intro
  all_goals decide +kernel

theorem witness_RegionSnapshots :
    (let s := lead { core0 with isSealed := true, commit := true }
     leadInTurn s = some (.core 0) ∧ canIssue s (.core 0) = true ∧ firstReport s (.core 0) = none ∧ dueReport s (.core 0) = none ∧
     heldUp s (.core 0) = false ∧ (s.core 0).task = some task0 ∧ (∀ k : Fin 16, (s.core 0).ls.n[k] = .val 0) ∧
     enginesIdle (s.core 0) = true ∧ storesPerformed (s.core 0).ls = true ∧ (s.core 0).bankOut = 0 ∧ (s.core 0).bankStats = [] ∧
     (s.core 0).opening = none ∧ (s.core 0).opens = false) ∧
    (let s := lead (streaming false (steers 63 core0))
     firstReport s (.core 0) = none ∧ dueReport s (.core 0) = none ∧ (s.core 0).opening = none) ∧
    (let s := lead { streaming true (steers 64 core0) with opens := true }
     firstReport s (.core 0) = none ∧ dueReport s (.core 0) = none ∧ (s.core 0).opens = true ∧ 64 ≤ (s.core 0).steer.length) ∧
    (let s := lead { streaming true (steers 63 core0) with opens := true }
     (s.core 0).opening = none ∧ (s.core 0).ls.vended = true ∧ (s.core 0).steer.length < 64) ∧
    64 ≤ ((lead (streaming false (steers 64 core0))).core 0).steer.length ∧
    (let p : Snapshot := { pc := 0, live := 0, stats := [], bars := [], pins := [], lane := .idle, n := Vector.replicate 16 0 }
     let marked (k : Core) : Core := { k with steer := ⟨.marker, 0⟩ :: k.steer }
     ((lead { streaming false (steers 2 core0) with opening := some p }).core 0).opening = some p ∧
     (∀ e ∈ (streaming false (steers 2 core0)).steer, e.kind ≠ .marker) ∧
     ∃ e ∈ (marked (streaming false (steers 2 core0))).steer, e.kind = .marker) := by
  repeat' apply And.intro
  all_goals decide +kernel

theorem witness_HaltEndsTask :
    (LeadReady (lead (steers 1 core0)) (.core 0) ∧ ((lead (steers 1 core0)).core 0).ls.lane = false ∧
      ∃ e ∈ ((lead (steers 1 core0)).core 0).steer, e.kind ≠ .marker) ∧
    (LeadReady (lead (queued3 3 [] [] core0)) (.core 0) ∧ undelivered ((lead (queued3 3 [] [] core0)).core 0) ≠ none) ∧
    (LeadReady (lead core0) (.core 0) ∧ enginesIdle ((lead core0).core 0) = true ∧ storesPerformed ((lead core0).core 0).ls = true ∧
      inTransit (lead core0) 0 = false ∧ undelivered ((lead core0).core 0) = none) ∧ LeadReady State.reset .mgmt := by
  repeat' apply And.intro
  all_goals decide +kernel

/-- Engine 3 with a latched fault that is due, and engine 1 with one more. -/
def dueFault (code : BitVec 9) (other : Engine) : Core :=
  let k := queued3 3 [] [] core0
  { k with due := true, engines := (k.engines.set 3 { k.engines[3] with latch := some code }).set 1 other }

theorem witness_EngineFaultDelivered :
    (let s := lead (queued3 3 [] [] core0)
     s.turn = .lead 0 ∧ undelivered (s.core 0) ≠ none) ∧
    (let s := lead (dueFault 3 Engine.zero)
     leadInTurn s = some (.core 0) ∧ canIssue s (.core 0) = true ∧ heldUp s (.core 0) = false ∧ (s.core 0).commit = false ∧
     (s.core 0).poisoned = none ∧ (s.core 0).laneFault = none ∧ (s.core 0).due = true ∧
     ((s.core 0).engines[3]).latch = some 3 ∧ ((s.core 0).engines[3]).undelivered = some 9 ∧
     ∀ j : Fin 4, j < 3 → ((s.core 0).engines[j]).undelivered = none) ∧
    (let s := lead (dueFault 369 { Engine.zero with latch := some 3, undelivered := some 9 })
     ((s.core 0).engines[3]).latch = some 369 ∧ ((s.core 0).engines[3]).undelivered ≠ none ∧
     ∀ j : Fin 4, j < 3 → ((s.core 0).engines[j]).latch ≠ some 369 ∧ ((s.core 0).engines[j]).latch ≠ some 377) ∧
    (let k := dueFault 3 Engine.zero
     let s := lead { k with ls := { k.ls with held := [⟨0, false, none, k.ls.belt, k.ls.n, k.ls.lp⟩] } }
     heldUp s (.core 0) = true ∧ failDue (s.core 0).ls = false) := by
  repeat' apply And.intro
  all_goals decide +kernel

/-- That header. -/
def header0 : Header :=
  { Header.zero with fmt := 0, s := 1, k := 2, n := 2, dlen := 8192, data := 0x10000 }

/-- A core with that tile valid in basin 5, and whether slice 0 is in its pin table; its newest value is the header's address. -/
def resident (pins : List PinEntry) (k : Core) : Core :=
  { k with ls := newest 0x8000 k.ls, pins := pins
           basins := k.basins.set 5 { Basin.zero with st := .valid, hdr := 0x8000, header := header0 } }

/-- The same tile with its data as sixteen coded bytes, one block of zeros each. -/
def codedWorld (f : Core → Core) : State :=
  let s := tileWorld (.lead 0) f
  let m := memPut (memPut (memPut s.dram 0x8000 8 0x0002000201000100) 0x8008 8 0x1000000001) 0x10000 16 (2 ^ 128 - 1)
  { s with dram := m, tags := alSet (0, 0) s.tags 0x200 (1, 1) }

/-- Its header. -/
def header1 : Header := { header0 with codec := 1, cratio := 1, dlen := 16 }

/-- Its core's newest value is the header's address. -/
def codedAim : State := codedWorld fun k => { k with ls := newest 0x8000 k.ls }

/-- No core holds an exclusive copy, so the header's read recalls nothing. -/
theorem codedAim_noted : noteHeader codedAim laneTask 0x8000 = codedAim := by
  have h : (codedAim.cores.toList.all fun k => k.l1.all fun y => decide (y.rq ≠ 0)) = true := by decide +kernel
  unfold noteHeader
  split
  · rw [noteWalk_none h, recallRange_none _ h]
  · exact noteWalk_none h _ _

/-- What reading that tile for a BPIN gives. -/
def codedRead : Option (TileRead × State) :=
  let s := codedAim
  match tileRun (s.setCore 0 { s.core 0 with recSeq := (s.core 0).recSeq + 1 }) 0 laneTask 0
      (TileRead.start (s.core 0).recSeq 0x8000 header1 []) with
  | .on s y => some (y, s)
  | .fault _ _ => none

theorem witness_BasinInstructions :
    (let s := tileWorld (.lead 0) (resident (List.replicate 7 ⟨0, 1⟩))
     CoreReady s 0 laneTask ∧ readSrc (s.core 0).ls 0 = some 0x8000 ∧ ((s.core 0).engines[2]).queue = [] ∧
     ((s.core 0).engines[2]).active = [] ∧ storesPerformed (s.core 0).ls = true ∧ (s.core 0).pinFill = none ∧
     headerWaits s laneTask 0x8000 = false ∧
     (readHeader s laneTask 0 0x8000).toOption = some header0 ∧ (0 : BitVec 3).toNat < header0.s ∧
     validBasins (s.core 0) (s.vale 0).asid 0x8000 0 = [5] ∧ (s.core 0).pins.length < 8 ∧ pinnedCount (s.core 0) < 24 ∧
     (∀ y : Fin 32, ((s.core 0).basins[y]).pinned = false ∧ ((s.core 0).basins[y]).holder = [] ∧
       (((s.core 0).basins[y]).st = .valid ∨ ((s.core 0).basins[y]).st = .invalid)) ∧
     validBasins (s.core 0) (s.vale 0).asid 0x8000 (1 : BitVec 3).toNat = [] ∧ (pinBits (s.core 0) 0x8000).getLsbD 1 = false) ∧
    (let s := tileWorld (.lead 0) fun k =>
       let k := resident [⟨0x8000, 1⟩] k
       { k with basins := k.basins.set 5 { k.basins[5] with pinned := true } }
     CoreReady s 0 laneTask ∧ pinBits (s.core 0) 0x8000 ≠ 0 ∧ ((s.core 0).basins[5]).pinned = true) ∧
    (let s := lead { core0 with engines := core0.engines.set 2 { Engine.zero with queue := List.replicate 16 (tagged 2 0) } }
     CoreReady s 0 task0 ∧ ((s.core 0).engines[2]).queue ≠ [] ∧ 16 ≤ ((s.core 0).engines[2]).queue.length) ∧
    (let s := { tileWorld (.lead 0) (resident []) with bulk := [{ bank := 0, core := 9, eng := 0 }] }
     CoreReady s 0 laneTask ∧ (s.core 0).pinFill = none ∧ headerWaits s laneTask 0x8000 = true) := by
  repeat' apply And.intro
  all_goals decide +kernel

/-- A tile that no basin holds and that is read whole, and the basin that takes it. -/
theorem witness_BasinInstructions_read :
    (CoreReady codedAim 0 laneTask ∧ (readHeader codedAim laneTask 0 0x8000).toOption = some header1 ∧
      headerWaits codedAim laneTask 0x8000 = false ∧ pinnedCount (codedAim.core 0) < 24 ∧
      validBasins (codedAim.core 0) (codedAim.vale 0).asid 0x8000 0 = []) ∧
    codedRead.map (fun p => (p.1.words, (p.1.tile 0).toOption.isSome, victim (p.2.core 0))) = some ([], true, some 0) ∧
    noteHeader codedAim laneTask 0x8000 = codedAim := by
  refine ⟨?_, ?_, codedAim_noted⟩
  repeat' apply And.intro
  all_goals decide +kernel

/-! ## Witnesses: the engines of a core -/

/-- A pattern of one element at `base`, with a first stride. -/
def one (base stride : Word) : Pattern :=
  { base := base, own := decide (topByte base = 2), ext := Vector.replicate 4 1, count := Vector.replicate 4 1, stride := #v[stride, 0, 0, 0] }

/-- A record with its fields and patterns. -/
def recordOf (op engine flags aux : Nat) (opf : Vector (BitVec 32) 8) (pat : Vector (Option Pattern) 4) : Record :=
  { addr := 0, tval := 5, after := 0, pat := pat
    f := #v[BitVec.ofNat 32 (op + engine * 0x100), BitVec.ofNat 32 flags, 0, BitVec.ofNat 32 aux, 0, 0, 0, 0,
            opf[0], opf[1], opf[2], opf[3], opf[4], opf[5], opf[6], opf[7]] }

/-- OPF words that are all zero. -/
def noOpf : Vector (BitVec 32) 8 := Vector.replicate 8 0

/-- Engine `e` of core 0 in turn, its state as given, with scratchpad bytes. -/
def engineWorld (e : Fin 4) (x : Engine) (m : Memory) : State :=
  world (.engine 0 e) vale0 { core0 with engines := core0.engines.set e x, scratch := m }

/-- The same with one begun record, number 7. -/
def onEngine (e : Fin 4) (r : Record) (m : Memory) : State := engineWorld e { Engine.zero with active := [begun 7 r] } m

/-- A CPY of u8. -/
def cpyR : Record := recordOf 1 0 0x44 0 noOpf #v[some (one 0x0200000000000FFF 0), some (one 0x0200000000000000 0), none, none]
/-- A fill of 64 bits. -/
def fillR : Record := recordOf 2 1 0x70 0 #v[0, 1, 2, 3, 4, 0, 0, 0] #v[none, some (one 0x0200000000000FF8 0), none, none]
/-- Signed 32-bit indices. -/
def gatherR : Record :=
  recordOf 5 0 0x44 2 noOpf #v[some (one 0x0200000000000FFC 0), some (one 0x0200000000000080 16), some (one 0x0200000000000040 0), none]
def scatterR : Record :=
  recordOf 6 0 0x44 2 noOpf #v[some (one 0x0200000000000FFC 0), some (one 0x0200000000000040 0), some (one 0x0200000000000080 16), none]

/-- Scratchpad bytes: the index −1 in the last word of the allocation, the entry before the table's base. -/
def indexed : Memory := memPut (memPut [] 0x70 1 0x21) 0xFFC 4 0xFFFFFFFF

theorem copyAtLast_of {s : State} {c : Fin 256} {e : Fin 4} {t : Task} {a : Active} {rest : List Active} {op : Nat}
    (h : EngineAt s c e t a rest ∧ a.r.op = op ∧ a.ready = false ∧ copyCount a.r = a.done + 1 ∧ (s.core c).scratch.wf = true ∧
      s.split = false ∧ a.reads = [] ∧ a.words = none ∧ a.writes = [])
    (hp : s.poison = []) : CopyAtLast s c e t a rest op :=
  ⟨h.1, h.2.1, h.2.2.1, h.2.2.2.1, h.2.2.2.2.1, h.2.2.2.2.2.1, h.2.2.2.2.2.2.1, h.2.2.2.2.2.2.2.1, h.2.2.2.2.2.2.2.2, by simp [hp]⟩

theorem witness_CopyElements :
    (CopyAtLast (onEngine 0 cpyR indexed) 0 0 task0 (begun 7 cpyR) [] 1 ∧ cpyR.stype < 12 ∧ cpyR.dtype < 12 ∧ cpyR.conj = false ∧
      OwnBytes task0 ((one 0x0200000000000FFF 0).elem 0) (typeWidth cpyR.stype / 8) 0xFFF) ∧
    (CopyAtLast (onEngine 1 fillR []) 0 1 task0 (begun 7 fillR) [] 2 ∧
      OwnBytes task0 ((one 0x0200000000000FF8 0).elem 0) (typeWidth fillR.dtype / 8) 0xFF8) ∧
    (CopyAtLast (onEngine 0 gatherR indexed) 0 0 task0 (begun 7 gatherR) [] 5 ∧ 0xFFC % 4 = 0 ∧
      OwnBytes task0 ((one 0x0200000000000FFC 0).elem 0) 4 0xFFC ∧
      OwnBytes task0 ((one 0x0200000000000080 16).base + BitVec.ofInt 64 (-1) * 16) (typeWidth gatherR.stype / 8) 0x70) ∧
    CopyAtLast (onEngine 0 scatterR indexed) 0 0 task0 (begun 7 scatterR) [] 6 := by
  refine ⟨⟨copyAtLast_of ?_ rfl, ?_⟩, ⟨copyAtLast_of ?_ rfl, ?_⟩, ⟨copyAtLast_of ?_ rfl, ?_⟩, copyAtLast_of ?_ rfl⟩
  all_goals repeat' apply And.intro
  all_goals decide +kernel

/-- A copy record with FLAGS that R217 does not take, a CPYBULK of one row from 0x8000, a CPYCLOSE. -/
def badR : Record := recordOf 1 0 0x1044 0 noOpf #v[some (one 0x0200000000000FFF 0), some (one 0x0200000000000000 0), none, none]
def bulkR : Record := recordOf 3 0 0 0 noOpf #v[some (one 0x8000 0), some (one 0x0200000000000C00 0), none, none]
def closeR : Record := recordOf 4 0 0 0 noOpf (Vector.replicate 4 none)

/-- Channel 0 of core 0 with its engine as given, and the reserved banks. -/
def bulkWorld (x : Engine) (held : List BulkHold) : State :=
  { tileWorld (.engine 0 0) (fun k => { k with engines := k.engines.set 0 x }) with bulk := held }

/-- The bank of the row at 0x8000 that channel `e` of core `c` holds. -/
def rowHeld (c : Fin 256) (e : Fin 4) : BulkHold := { bank := bankOf 0x8000, core := c, eng := e }

/-- A record that adds its bytes to barrier object 2, which lacks so many. -/
def barred (r : Record) : Record := { r with f := r.f.set 2 0x80000100 }
def lacking (n : Nat) : Memory := memPut [] 0x100 4 n

theorem witness_RecordsAndBulk :
    (let s := engineWorld 0 { Engine.zero with queue := [cpyR] } []
     s.turn = .engine 0 0 ∧ (s.core 0).task = some task0 ∧ ((s.core 0).engines[0]).queue = [cpyR] ∧
     storesBefore (s.core 0) cpyR = true ∧ (s.core 0).run = .running ∧ (s.core 0).stop ≠ some .capture ∧
     checkRecord cpyR = none ∧ cpyR.op < 0x10 ∧ checkRecord badR = some 17) ∧
    (let s := bulkWorld { Engine.zero with queue := [bulkR] } []
     storesBefore (s.core 0) bulkR = true ∧ (s.core 0).run = .running ∧ (s.core 0).stop ≠ some .capture ∧ checkRecord bulkR = none ∧
     copyCount bulkR ≠ 0 ∧ bulkHeld s 0 0 laneTask bulkR 0 = false ∧ (bulkBank s laneTask bulkR 0).toOption = some (bankOf 0x8000) ∧
     heldBank s 0 0 = none) ∧
    (let s := bulkWorld { Engine.zero with queue := [bulkR] } [{ bank := 4, core := 9, eng := 1 }]
     storesBefore (s.core 0) bulkR = true ∧ bulkHeld s 0 0 laneTask bulkR 0 = true) ∧
    (let s := bulkWorld { Engine.zero with queue := [bulkR] } [rowHeld 0 0]
     (bulkBank s laneTask bulkR 0).toOption = some (bankOf 0x8000) ∧ heldBank s 0 0 = some (bankOf 0x8000) ∧
     bulkHeld s 0 0 laneTask bulkR 0 = false) ∧
    (let s := bulkWorld { Engine.zero with queue := [bulkR] } [{ rowHeld 0 0 with bank := 3 }]
     heldBank s 0 0 = some 3 ∧ 3 ≠ bankOf 0x8000 ∧ bulkHeld s 0 0 laneTask bulkR 0 = false) ∧
    (let a := { begun 7 (barred cpyR) with ready := true, done := 1 }
     EngineAt (engineWorld 1 { Engine.zero with active := [a] } (lacking 1)) 0 1 task0 a [] ∧ a.r.ben = true ∧
     (lacking 1).wf = true ∧ barOverruns (lacking 1) 0x100 1 = false ∧
     barOverruns (memPut (lacking 1) 0x104 4 1) 0x100 1 = true) ∧
    (let a := { begun 7 cpyR with ready := true, done := 1 }
     EngineAt (engineWorld 1 { Engine.zero with active := [a] } []) 0 1 task0 a []) ∧
    (let s := bulkWorld { Engine.zero with waiting := some (3, 0) } [rowHeld 0 0]
     ((s.core 0).engines[0]).waiting = some (3, 0) ∧ (∀ h ∈ s.bulk, h.bank ≠ 3) ∧
     ∀ d : Fin 256, ∀ f : Fin 4, f.val < 2 → ∀ q, ((s.core d).engines[f]).waiting = some (3, q) → 0 ≤ q) ∧
    (let s := bulkWorld { Engine.zero with active := [begun 7 bulkR] } [rowHeld 0 0]
     CopyAtLast s 0 0 laneTask (begun 7 bulkR) [] 3 ∧ heldBank s 0 0 = some (bankOf 0x8000) ∧ valeKey s 0 = some 1 ∧
     (bulkBank s laneTask bulkR 0).toOption = some (bankOf 0x8000) ∧
     (∀ i, i < 8 → walkHeld s 0 (some (0, 0)) ((bulkAddress bulkR 0).toNat + 128 * i) = false) ∧
     (∀ i, i < 8 → (translate s 0 ((bulkAddress bulkR 0).toNat + 128 * i) .read).toOption =
       some ⟨0x8000 + 128 * i, false, true, true⟩ ∧ ∀ h ∈ s.bulk, h.bank = bankOf (0x8000 + 128 * i) → h.core = 0 ∧ h.eng = 0) ∧
     OwnBytes laneTask ((one 0x0200000000000C00 0).elem 0) 1024 0xC00) ∧
    (let s := bulkWorld { Engine.zero with active := [begun 7 closeR] } [rowHeld 0 0]
     EngineAt s 0 0 laneTask (begun 7 closeR) [] ∧ (heldBank s 0 0).isSome = true) ∧
    (EngineAt (onEngine 0 closeR []) 0 0 task0 (begun 7 closeR) [] ∧ heldBank (onEngine 0 closeR []) 0 0 = none) ∧
    EngineAt (bulkWorld { Engine.zero with active := [begun 7 closeR], withdrawn := true } []) 0 0 laneTask (begun 7 closeR) [] ∧
    (let s := { bulkWorld Engine.zero [rowHeld 0 0] with now := 50000 }
     (heldBank s 0 0).isSome = true ∧ (∀ a ∈ ((s.core 0).engines[0]).active, a.r.op ≠ 3) ∧
     ((s.core 0).engines[0]).lastBulk + 50000 ≤ s.now.toNat) := by
  refine ⟨?_, ?_, ?_, ?_, ?_, ?_, ?_, ⟨?_, ?_, fun _ _ _ _ _ => Nat.zero_le _⟩, ⟨copyAtLast_of ?_ rfl, ?_⟩, ?_, ?_, ?_, ?_⟩
  all_goals repeat' apply And.intro
  all_goals decide +kernel

/-- A tile's core whose matrix engine has record 7, with basin 5's holder. -/
def matrixCore (r : Record) (holder : List Nat) (f : Active → Active) (k : Core) : Core :=
  let b : Basin := { Basin.zero with st := .valid, hdr := 0x8000, header := header0, holder := holder
                                     data := ((Vector.replicate 128 0).set 0 0x8001).set 1 0x02FF }
  { k with basins := k.basins.set 5 b, engines := k.engines.set 2 { Engine.zero with active := [f (begun 7 r)] } }

/-- Core 0 of that tile's world with the matrix engine in turn. -/
def matrixWorld (r : Record) (holder : List Nat) (f : Active → Active) : State :=
  tileWorld (.engine 0 2) (matrixCore r holder f)

/-- Rows of two elements, the second pattern 16-byte rows of an MTHR. -/
def rowsA : Pattern := { base := 0x0200000000000000, own := true, ext := #v[2, 1, 1, 1], count := #v[2, 3, 1, 1], stride := #v[1, 2, 0, 0] }
def rowsB : Pattern := { base := 0x0200000000000000, own := true, ext := #v[5, 1, 1, 1], count := #v[5, 1, 1, 1], stride := #v[16, 0, 0, 0] }

/-- WFILL of slice 0, an MMA into i32, an MTHR with thresholds in the last 512 bytes of the allocation. -/
def wfillR : Record := recordOf 0x10 2 0 8 #v[0x8000, 0, 0, 0, 0, 0, 0, 0] (Vector.replicate 4 none)
def mmaR : Record := recordOf 0x11 2 0x40 0x1FC0 #v[0x8000, 0, 0, 0, 0, 0, 0, 0] #v[some rowsA, none, none, none]
def mthrR : Record := recordOf 0x12 2 17 0xFE0 #v[0x8000, 0, 3584, 0, 0, 0, 0, 0] #v[some rowsB, none, none, none]

/-- A record that has its basin. -/
def withBasin (outs : List (List (BitVec 128))) (a : Active) : Active :=
  { a with header := some header0, basins := [(0, 5)], outs := outs }

theorem witness_MatrixProducts :
    (let s := tileWorld (.engine 0 2) fun k =>
       let k := matrixCore wfillR [] id k
       { k with engines := k.engines.set 2 { Engine.zero with queue := [wfillR] } }
     (s.core 0).task = some laneTask ∧ ((s.core 0).engines[2]).queue = [wfillR] ∧ ((s.core 0).engines[2]).active = [] ∧
     (∀ x ∈ (s.core 0).basins.toList, x.unfilled = false) ∧ storesBefore (s.core 0) wfillR = true ∧ (s.core 0).run = .running ∧
     (s.core 0).stop ≠ some .capture ∧ checkRecord wfillR = none ∧ wfillR.op = 0x10 ∧ wfillR.flags = 0 ∧ bit wfillR.aux 3 = true ∧
     headerAddress wfillR = 0x8000 ∧ headerWaits s laneTask 0x8000 = false ∧
     (tileHeader s 0 laneTask 3 0x8000).toOption = some header0 ∧ bits wfillR.aux 2 0 < header0.s ∧
     validBasins (s.core 0) (s.vale 0).asid 0x8000 0 = [5] ∧ ((s.core 0).basins[5]).holder = []) ∧
    (let a := { begun 7 wfillR with header := some header0, basins := [(0, 5)] }
     let s := matrixWorld wfillR [7] fun _ => a
     ((s.core 0).engines[2]).active = [a] ∧ a.ready = false ∧ a.header = some header0 ∧ stillFilling (s.core 0) 7 = false) ∧
    (let s := matrixWorld mmaR [7] (withBasin [])
     (s.core 0).task = some laneTask ∧ mmaR.op = 0x11 ∧ mmaR.flags = 2 * 2 ^ 5 ∧ bits mmaR.aux 20 20 = 0 ∧ bits mmaR.aux 3 0 = 0 ∧
     ((s.core 0).basins[5]).header = header0 ∧ ((s.core 0).basins[5]).special = 0 ∧ mmaR.pattern 1 = none ∧ rowsA.count[0] ≤ 128 ∧
     ∀ m, m < mmaRows rowsA → ∀ i, i < rowsA.count[0] → OwnBytes laneTask (rowsA.elem (m * rowsA.count[0] + i)) 1 (2 * m + i)) ∧
    (let s := matrixWorld mthrR [7] (withBasin [])
     (s.core 0).task = some laneTask ∧ mthrR.opf 2 + 512 ≤ laneTask.size ∧ laneTask.alloc + laneTask.size ≤ 2 ^ 21 ∧
     ∀ m, m < rowsB.size → OwnBytes laneTask (rowsB.elem m) 16 (16 * m) ∧ 16 * m % 16 = 0) := by
  repeat' apply And.intro
  all_goals first | decide +kernel | exact (by unfold OwnBytes; decide +kernel)

/-- The header of a tile of two slices, and a WFILL of both, whose basins are 5 and 6. -/
def header2 : Header := { header0 with fmt := 10, s := 2 }
def wfillBoth : Record := recordOf 0x10 2 0 0 #v[0x8000, 0, 0, 0, 0, 0, 0, 0] (Vector.replicate 4 none)

/-- The tile with its sixteen coded bytes, whose WFILL has reserved basin 0. -/
def fillingWorld : State :=
  codedWorld fun k => { k with
    basins := k.basins.set 0 { Basin.zero with st := .reserved, holder := [7] }
    engines := k.engines.set 2 { Engine.zero with active := [
      { begun 7 wfillR with header := some header1, basins := [(0, 0)], tile := some (TileRead.start 7 0x8000 header1 [(0, 0)]) }] } }

/-- What reading that tile gives. -/
def filledRead : Option TileRead :=
  match tileRun fillingWorld 0 laneTask 3 (TileRead.start 7 0x8000 header1 [(0, 0)]) with
  | .on _ y => some y
  | .fault _ _ => none

/-- A WFILL at the head of the queue, all of its slices in basins, and none. -/
def takingBoth : State :=
  tileWorld (.engine 0 2) fun k =>
    let b (x : Nat) : Basin := { Basin.zero with st := .valid, hdr := 0x8000, header := header2, slice := x }
    { k with basins := (k.basins.set 5 (b 0)).set 6 (b 1)
             engines := k.engines.set 2 { Engine.zero with queue := [wfillBoth] } }
def takingNone : State :=
  tileWorld (.engine 0 2) fun k => { k with engines := k.engines.set 2 { Engine.zero with queue := [wfillR] } }

/-- A WFILL as its basins are taken, and as it fills one. -/
theorem witness_MatrixProducts_begin :
    (let s := takingBoth
     storesBefore (s.core 0) wfillBoth = true ∧ checkRecord wfillBoth = none ∧ bit wfillBoth.aux 3 = false ∧
     headerWaits s laneTask 0x8000 = false ∧ (tileHeader s 0 laneTask 3 0x8000).toOption = some header2 ∧
     (∀ x ∈ (s.core 0).basins.toList, x.unfilled = false) ∧ (∀ x ∈ List.range header2.s, x < header2.s) ∧
     ∀ x ∈ List.range header2.s,
       validBasins (s.core 0) (s.vale 0).asid 0x8000 x = [(BitVec.ofNat 5 (5 + x)).toFin] ∧
       ((s.core 0).basins[(BitVec.ofNat 5 (5 + x)).toFin]).holder = []) ∧
    (let s := takingNone
     headerWaits s laneTask 0x8000 = false ∧ (tileHeader s 0 laneTask 3 0x8000).toOption = some header0 ∧
     validBasins (s.core 0) (s.vale 0).asid 0x8000 0 = [] ∧ sentMeets (s.core 0) ((0x8000, 64) :: header0.ranges) = false ∧
     victim (s.core 0) = some 0) ∧
    (let k := fillingWorld.core 0
     (k.basins[0]).st = .reserved ∧ (k.basins[0]).holder = [7] ∧ (∀ i : Fin 32, i ≠ 0 → (k.basins[i]).unfilled = false) ∧
     (k.engines[2]).active.length = 1 ∧ stillFilling k 7 = true) ∧
    filledRead.map (fun y => (y.words, (y.tile 3).toOption.isSome)) = some ([], true) := by
  repeat' apply And.intro
  all_goals decide +kernel

/-- `n` elements of `w` bytes from byte 0 on; an MMA with FLAGS as given, its A row two elements of `w` bytes, its bias 64 of `bw` bytes,
if any. -/
def elems (n : Nat) (w : Nat) : Pattern :=
  { base := 0x0200000000000000, own := true, ext := #v[BitVec.ofNat 32 n, 1, 1, 1], count := #v[n, 1, 1, 1]
    stride := #v[BitVec.ofNat 64 w, 0, 0, 0] }
def mmaOf (flags T w bw : Nat) : Record :=
  recordOf 0x11 2 flags T #v[0x8000, 0, 0, 0, 0, 0, 0, 0] #v[some (elems 2 w), if bw = 0 then none else some (elems 64 bw), none, none]

/-- A core whose matrix engine has it, its tile of one slice in basin 5, columns with specials as given. -/
def multiplying (r : Record) (h : Header) (special : BitVec 64) (m : Memory) : State :=
  tileWorld (.engine 0 2) fun k => { k with
    scratch := m, scales := [0x38383838]
    basins := k.basins.set 5 { Basin.zero with st := .valid, hdr := 0x8000, header := h, holder := [7], special := special }
    engines := k.engines.set 2 { Engine.zero with active := [{ begun 7 r with header := some h, basins := [(0, 5)] }] } }

/-- Its hypotheses, as a Boolean; those that are propositions stand beside it. -/
def multiplies (r : Record) (h : Header) (w : Nat) (special : BitVec 64) (m : Memory) : Bool :=
  let s := multiplying r h special m
  decide ((s.core 0).task = some laneTask) && decide (((s.core 0).engines[2]).active.length = 1) && !stillFilling (s.core 0) 7 &&
  decide (r.op = 0x11) && decide ((List.range h.s).map (fun x => (x, (5 : Fin 32))) = [(0, 5)]) &&
  decide (((s.core 0).basins[5]).header = h) && decide (bits r.flags 10 9 ≠ 3) &&
  decide (h.s < 16 * bits r.aux 20 20 + bits r.aux 3 0 + (if h.fmt = 16 then 2 else 0)) &&
  decide (((s.core 0).basins[5]).special = special) && decide (r.pattern 0 = some (elems 2 w)) && decide (mmaRows (elems 2 w) = 1) &&
  decide (mmaRows (elems 2 w) ≤ (s.core 0).scales.length)

/-- The two elements lie in the allocation. -/
theorem elems_own : ∀ i, i < 2 →
    (OwnBytes laneTask ((elems 2 4).elem i) 4 (4 * i) ∧ 4 * i % 4 = 0) ∧ (OwnBytes laneTask ((elems 2 8).elem i) 8 (8 * i) ∧
      8 * i % 8 = 0) ∧
    OwnBytes laneTask ((elems 2 1).elem i) 1 i := by
  unfold OwnBytes
  decide +kernel

/-- The f32 numbers 1 and −3, 1 and an infinity, two NaNs. -/
def pairs : List Memory := [memPut [] 0 8 0xC04000003F800000, memPut [] 0 8 0x7F8000003F800000, memPut [] 0 8 0x7FC000007FC00000]

/-- MMAs of an f32 tile with a bias, of a complex and of an e2m1 tile. -/
theorem witness_MatrixProducts_forms :
    (multiplies (mmaOf 0x54A 2 4 4) { header0 with fmt := 10 } 4 2 (pairs.getD 0 []) = true ∧
      OwnBytes laneTask ((elems 64 4).elem 63) 4 252 ∧ atypeFits 10 10 = true ∧ (2 : BitVec 64).getLsbD 0 = false ∧
      (2 : BitVec 64).getLsbD 1 = true ∧
      IsTop ([0x3F800000, 0xC0400000].map fmtF32.value) 1 ∧ fmtF32.value 0x3F800000 = .fin false (2 ^ 23) (-23) ∧
      fmtF32.value 0x7F800000 = .inf false ∧ fmtF32.value 0x7FC00000 = .nan) ∧
    (multiplies (mmaOf 0x618C 2 8 0) { header0 with fmt := 12 } 8 4 (memPut (pairs.getD 0 []) 8 8 0x3F800000) = true ∧
      (4 : BitVec 64).getLsbD (2 * 0) = false ∧ (4 : BitVec 64).getLsbD (2 * 1) = true) ∧
    (multiplies (mmaOf 0x150 0 1 0) { header0 with fmt := 16, tau := 0x3F80 } 1 0 (pairs.getD 0 []) = true ∧
      fmtBf16.value 0x3F80 = .fin false (2 ^ 7) (-7) ∧ fmtBf16.value 0x7F80 = .inf false) := by
  repeat' apply And.intro
  all_goals decide +kernel

/-- What a matrix record has computed: two output rows of sixteen pieces. -/
def outsT : List (List (BitVec 128)) := [(List.range 16).map (BitVec.ofNat 128), List.replicate 16 1]

/-- The last row of an MTHR, the last row of an MMA, and one row before it. -/
def landT : Active := { withBasin outsT (begun 7 mthrR) with landed := 1 }
def landM : Active := { withBasin [[1, 2], [3, 4], [5, 0xFFFFFFFF]] (begun 7 mmaR) with landed := 2 }

/-- A row of an MMA of f16 elements with ACC, BIAS, ACT, POOL and COLOFF, from two product rows. -/
def poolR : Record :=
  recordOf 0x11 2 (8 + 8 * 2 ^ 5 + 2 ^ 12 + 2 * 2 ^ 15 + 2 ^ 17 + 2 ^ 18 + 2 ^ 21) 0x1FF0 #v[0x8000, 0, 0, 0, 0xFFFFFFFF, 1, 0, 0]
    #v[some rowsA, none, none, none]
def landP : Active := { withBasin [List.replicate 64 0x3C00, List.replicate 64 0xBC00] (begun 7 poolR) with bias := List.replicate 64 1 }

/-- A core of that engine while basin 5 is filled again. -/
def refilling (a : Active) : State :=
  let s := matrixWorld mmaR [7] fun _ => a
  setBasin s 0 5 { (s.core 0).basins[(5 : Fin 32)] with st := .filling }

/-- The pooling record's core; a record that has landed and adds to its barrier, and its core. -/
def poolWorld : State := matrixWorld mmaR [7] fun _ => landP
def doneM : Active := { landM with r := barred mmaR, landed := 3, ready := true }
def doneWorld : State :=
  let w := matrixWorld mmaR [7] fun _ => doneM
  w.setCore 0 { w.core 0 with scratch := lacking 768 }

theorem witness_MatrixLandings_forms :
    (EngineAt (refilling landM) 0 2 laneTask landM [] ∧ stillFilling ((refilling landM).core 0) 7 = true ∧ landM.r.op ≠ 0x10 ∧
      landM.ready = false) ∧
    (let a := { landM with landed := 3, ready := true }
     EngineAt (refilling a) 0 2 laneTask a [] ∧ stillFilling ((refilling a).core 0) 7 = true) ∧
    (let s := poolWorld
     let r := landP.r
     EngineAt s 0 2 laneTask landP [] ∧ landP.ready = false ∧ landP.landed < outCount r ∧ landP.outs ≠ [] ∧
     stillFilling (s.core 0) 7 = false ∧ r.op = 0x11 ∧ bits r.flags 10 9 = 0 ∧ bits r.flags 8 5 = 8 ∧ otypeOk 8 = true ∧
     bit r.flags 12 = true ∧ bits r.flags 16 15 = 2 ∧ bit r.flags 17 = true ∧ bit r.flags 18 = true ∧ bit r.flags 21 = true ∧
     typeWidth 8 * (64 + 1 * 64) ≤ 2048 * rho 8 ∧ outRow r 0 + rho 8 ≤ 256 ∧
     ((landP.outs.getD 0 [] ++ landP.outs.getD 1 []).all fun y => decide (y.toNat < 2 ^ typeWidth 8)) = true) ∧
    (let a := doneM
     let s := doneWorld
     EngineAt s 0 2 laneTask a [] ∧ a.r.ben = true ∧ stillFilling (s.core 0) 7 = false ∧ a.header = some header0 ∧
     (s.core 0).scratch.wf = true ∧ barOverruns (lacking 768) 0x100 768 = false ∧ barOverruns (lacking 767) 0x100 768 = true) := by
  repeat' apply And.intro
  all_goals decide +kernel

theorem witness_MatrixLandings :
    (let s := matrixWorld mmaR [7] (withBasin [])
     let t := setBasin s 0 31 { Basin.zero with st := .filling }
     ((t.core 0).basins[31]).st = .filling ∧ oldVersion (t.core 0) ((t.core 0).basins[31]) = false) ∧
    (let s := matrixWorld mmaR [7] (withBasin [])
     let x : Basin := { Basin.zero with hdr := 0x8000, holder := [7] }
     let t := setBasin (setBasin s 0 31 { x with st := .filling }) 0 5 { x with st := .stale }
     ((t.core 0).basins[31]).st = .filling ∧ oldVersion (t.core 0) ((t.core 0).basins[31]) = true) ∧
    (EngineAt (matrixWorld mthrR [7] fun _ => landT) 0 2 laneTask landT [] ∧ landT.ready = false ∧ landT.landed < outCount landT.r ∧
      landT.outs ≠ [] ∧ stillFilling ((matrixWorld mthrR [7] fun _ => landT).core 0) 7 = false ∧ landT.r.op = 0x12 ∧
        255 = bits landT.r.aux 11 4 + landT.landed) ∧
    (EngineAt (matrixWorld mmaR [7] fun _ => landM) 0 2 laneTask landM [] ∧ landM.landed < outCount landM.r ∧
      landM.r.op = 0x11 ∧ landM.r.flags = 2 * 2 ^ 5 ∧ 254 = outRow landM.r landM.landed ∧ (landM.outs.headD []).length ≤ 64 ∧
      landM.outs.getD landM.landed [] = [5#128, 0xFFFFFFFF#128]) ∧
    (let a := { landM with landed := 3, ready := true }
     EngineAt (matrixWorld mmaR [7] fun _ => a) 0 2 laneTask a [] ∧ a.r.ben = false) := by
  repeat' apply And.intro
  all_goals decide +kernel

/-- A group of two members of which this device is the first, for vale 0. -/
def grp : Word := 0x8000000200000000

/-- A collective of bytes: an ALLGATHER, a BROADCAST of the second member. -/
def collR (kind aux : Nat) : Record :=
  recordOf 0x20 3 kind aux #v[9, 0, 0, 0, 0, 0, 0, 0]
    #v[some (one 0x0200000000000FFF 0), some { one 0x0200000000000000 1 with count := #v[kind, 1, 1, 1] }, none, none]

/-- A world with group 63 and what it holds, channel 3's records, and scratchpad bytes. -/
def collWorld (x : Coll) (act : List Active) (m : Memory) : State :=
  let s := engineWorld 3 { Engine.zero with active := act } m
  { s with hub := { s.hub with grpCfg := s.hub.grpCfg.set 63 grp, colls := s.hub.colls.set 63 x } }

/-- What core 0 has joined with. -/
def joinedWith (flags aux : Nat) (data : List Byte) : Joined :=
  { seq := 9, core := 0, num := 7, flags := flags, aux := aux, data := data }

/-- The record of an ALLREDUCE of one u32 word, of the flags given. -/
def reduceR (flags : Nat) (ben : Bool) : Record :=
  let r := recordOf 0x20 3 flags 63 #v[9, 0, 0, 0, 0, 0, 0, 0]
    #v[some (one 0x0200000000000FFC 0), some (one 0x0200000000000000 0), none, none]
  if ben then barred r else r

/-- A record that joins group 63. -/
def Joins (x : Coll) : Prop :=
  let s := collWorld x [begun 7 (collR 2 63)] []
  EngineAt s 0 3 task0 (begun 7 (collR 2 63)) [] ∧ (collR 2 63).op = 0x20 ∧
  checkGroup (collR 2 63) 0 (s.hub.grpCfg[63]) = none ∧ (s.hub.colls[63]).pend = none ∧
  (s.hub.colls[63]).last = x.last ∧ (s.hub.colls[63]).other = x.other ∧ (collR 2 63).opf 0 = 8 + 1 ∧
  arbitrates s (collAsks s) s.hub.lastColl 0 = true ∧ (one 0x0200000000000FFF 0).size = 1 ∧
  OwnBytes task0 ((one 0x0200000000000FFF 0).elem 0) (typeWidth (bits (collR 2 63).flags 7 4) / 8) 0xFFF

/-- A waiting ALLREDUCE whose destination is the first word of the scratchpad. -/
def Reduces (flags : Nat) (ben : Bool) : Prop :=
  let p := joinedWith flags 63 [1, 2, 3, 4]
  let s := collWorld ⟨none, some p, none⟩ [begun 7 (reduceR flags ben)] (lacking 4)
  (s.hub.colls[63]).pend = some p ∧ p.core = 0 ∧ (s.core 0).task = some task0 ∧
  ((s.core 0).engines[3]).active = [begun 7 (reduceR flags ben)] ∧ (begun 7 (reduceR flags ben)).num = p.num ∧
  (reduceR flags ben).flags = p.flags ∧ (reduceR flags ben).ben = ben ∧ (s.core 0).scratch.wf = true ∧
  barOverruns (lacking 4) 0x100 4 = false ∧ barOverruns (lacking 3) 0x100 4 = true ∧
  (reduceR flags ben).pattern 1 = some (one 0x0200000000000000 0) ∧ bits flags 7 4 = 6 ∧
  (∀ o ∈ [[1, 2, 3, 4], [0xFF#8, 0xFF, 0xFF, 0xFF]], o.length = typeWidth 6 / 8 * 1) ∧
  OwnBytes task0 ((one 0x0200000000000000 0).elem 0) (typeWidth 6 / 8) (0 + typeWidth 6 / 8 * 0)

/-- Each case of a SEQ: the first of the group, the one after the last, another member's, and those that do not fit. -/
theorem witness_Collectives :
    (Joins ⟨none, none, none⟩ ∧ Joins ⟨some (8, [1]), none, some 9⟩) ∧
    ((9#32) ≠ 7 ∧ (9#32) ≠ 7 + 1) ∧
    (EngineAt (collWorld ⟨some (7, []), none, none⟩ [begun 7 (collR 2 63)] []) 0 3 task0 (begun 7 (collR 2 63)) [] ∧
      ((collWorld ⟨some (7, []), none, none⟩ [begun 7 (collR 2 63)] []).hub.colls[63]).last = some (7, [])) ∧
    ((collWorld ⟨none, none, some 10⟩ [begun 7 (collR 2 63)] []).hub.colls[63]).other = some 10 ∧
    (let p := joinedWith 2 63 [0x5A]
     let s := collWorld ⟨none, some p, none⟩ [] []
     (s.hub.colls[63]).pend = some p ∧ p.core = 0 ∧ [[0x21#8]].length + 1 = (s.hub.grpCfg[63].extractLsb' 32 11).toNat ∧
     (s.hub.grpCfg[63].extractLsb' 0 10).toNat ≤ [[0x21#8]].length ∧ ((s.core 0).engines[3]).active = [] ∧
     p.flags = 2 + 2 ^ 4 * 0 ∧ ∀ o ∈ [[0x21#8]], o.length = p.data.length) ∧
    (let p := joinedWith 1 127 [0x5A]
     p.flags = 1 + 2 ^ 4 * 0 ∧ ([] ++ [p.data] ++ [[0x21#8]])[bits p.aux 15 6]? = some [0x21]) ∧
    Reduces (2 ^ 4 * 6) false ∧ Reduces (3 * 2 ^ 8 + 2 ^ 4 * 6) true := by
  repeat' apply And.intro
  all_goals decide +kernel

/-! ## Witnesses: bank units, packets, the fabric -/

/-- A RUN command over the first row of bank 0 of channel 0's page 0, of core 0's task. -/
def bankCmd : BankCmd :=
  { core := 0, epoch := 1, vale := 0, words := #v[0x100000001, 0, 0x0000000700000400, 0, 0, 0], pa := some (0, true) }

/-- A run whose newest value is `x`. -/
def runAt (x : Word) : BankRun :=
  { bank := 0, pc := 0, belt := (Vector.replicate 16 0).set 0 x, n := Vector.replicate 16 0, finished := false }

/-- Channel 0 with its FIFO, handler 0 and what it serves. -/
def chan0 (fifo : List BankCmd) (h : Option (List (BitVec 32))) (sv : Option Serve) : Channel :=
  { Channel.zero with fifo := fifo, handlers := Channel.zero.handlers.set 0 h, serving := sv }

/-- Channel 0 so, with core 0's task. -/
def bankWorld (fifo : List BankCmd) (h : Option (List (BitVec 32))) (sv : Option Serve) : State :=
  (world (.bank 0 0) vale0 { core0 with bankOut := 1 }).setChan 0 (chan0 fifo h sv)

/-- A command that is served, with one run. -/
def serve1 (run : BankRun) : Serve := { cmd := bankCmd, code := [], status := 0, runs := [run], combiner := none, ended := 0 }

/-- The last 8 bytes of the operand, and the offset past it; an operand in the image's first page; two u64 elements of a sum. -/
theorem witness_BankWords :
    (let s := bankWorld [] none (some (serve1 (runAt 0x3F8)))
     s.turn = .bank 0 0 ∧ (s.chan 0).serving = some (serve1 (runAt 0x3F8)) ∧ (serve1 (runAt 0x3F8)).runs[0]? = some (runAt 0x3F8) ∧
     (runAt 0x3F8).finished = false ∧ ownsPa s 0 (bankAddress bankCmd 0) = true ∧
     valeKey s 0 = some 1 ∧ DramWfAt s ∧ bankCheck bankCmd 0 (runSrc (runAt 0x3F8) 0).toNat 8 = some 0x3F8 ∧
     bankHeld s none (bankOf (bankAddress bankCmd 0x3F8)) = false ∧ bankDenied s bankCmd 0x3F8 = false ∧
     runSrc (runAt 0x3F8) 1 = 0 ∧ bankCmd.ctype = 7 ∧ (serve1 (runAt 0x3F8)).combiner = none) ∧
    (let s := { bankWorld [] none (some (serve1 (runAt 0x3F8))) with bulk := [{ bank := 0, core := 9, eng := 1 }] }
     bankHeld s none (bankOf (bankAddress bankCmd 0x3F8)) = true) ∧
    (let s := (bankWorld [] none (some (serve1 (runAt 0x3F8)))).setVale 0 { vale0 with channels := 2 }
     valeKey s 0 = some 1 ∧ ownsPa s 0 (bankAddress bankCmd 0) = false) ∧
    (let x : BankCmd := { bankCmd with words := bankCmd.words.set 2 0x0000000A00000400 }
     x.ctype = 10 ∧ x.cop = 0 ∧ ({ serve1 (runAt 3) with cmd := x, combiner := some 0x3F800000 } : Serve).combiner = some 0x3F800000) ∧
    bankCheck bankCmd 0 (runSrc (runAt 0x400) 0).toNat 8 = none ∧
    (let x : BankCmd := { bankCmd with words := bankCmd.words.set 1 0x10000 }
     bankCheck x 0 (runSrc (runAt 0x800) 0).toNat 8 = some 0x10000 ∧ inImage vale0 (x.base / 2 ^ 21 * 2 ^ 21 + 0x10000) = true) ∧
    (let run := { runAt 0x3F0 with belt := (runAt 0x3F0).belt.set 1 2 }
     (7 : BitVec 4).toNat < 8 ∧ 8 ≤ (11 : BitVec 4).toNat ∧ (11 : BitVec 4).toNat < 12 ∧ typeWidth 11 / 8 = 8 ∧
     1 ≤ (runSrc run 1).toNat ∧ (runSrc run 1).toNat ≤ 1024 ∧
     ∀ e, e < (runSrc run 1).toNat → bankCheck bankCmd 0 ((runSrc run 0).toNat + e * 8) 8 = some (0x3F0 + e * 8) ∧
       bankHeld (bankWorld [] none (some (serve1 run))) none (bankOf (bankAddress bankCmd (0x3F0 + e * 8))) = false) := by
  repeat' apply And.intro
  all_goals decide +kernel

/-- An INSTALL of slot 2^20 − 256, whose pages read as zero, and packets that break R281 and R283. -/
def install : BankCmd := { bankCmd with words := #v[2, 0xFFF00, 0, 0, 0, 0], pa := some (0xFFF00, false) }
def badCmd (cmd : Word) : BankCmd := { bankCmd with words := #v[cmd, 0, 0, 0, 0, 0] }

/-- The slot holds the word `w` and zeros. -/
def slotWorld (w : Nat) : State :=
  let s := bankWorld [install] none none
  { s with dram := memPut s.dram 0xFFF00 4 w, tags := alSet (0, 0) (alSet (0, 0) s.tags 0x1FFE (1, 1)) 0x1FFF (1, 1) }

theorem witness_BankCommands :
    (let s := bankWorld [bankCmd] (some []) none
     (s.chan 0).serving = none ∧ (s.chan 0).fifo = [bankCmd] ∧ bankCmd.cmd = 1 ∧ badFormat bankCmd = false ∧
     badRange s 0 bankCmd = false ∧ ((s.chan 0).handlers[bankCmd.h]).isSome = true) ∧
    ((bankWorld [bankCmd] none none).chan 0).handlers[bankCmd.h] = none ∧
    ((badCmd 3).cmd ≠ 2 ∧ badFormat (badCmd 3) = true) ∧
    (let x : BankCmd := { install with words := #v[2, 0xFFF80, 0, 0, 0, 0] }
     x.cmd = 2 ∧ badFormat x = false ∧ badRange (bankWorld [x] none none) 0 x = true) ∧
    (let x : BankCmd := { bankCmd with words := bankCmd.words.set 1 0x1FFFFF }
     x.cmd ≠ 2 ∧ badFormat x = false ∧ badRange (bankWorld [x] none none) 0 x = true) ∧
    (let x : BankCmd := { install with words := install.words.set 3 1 }
     x.cmd = 2 ∧ badFormat x = true) ∧
    (install.pa = some (0xFFF00, false) ∧ bankBlocks (slotWorld 0) 0 none 0xFFF00 = false ∧
      bankBlocks { slotWorld 0 with bulk := [{ bank := bankOf 0xFFF00, core := 9, eng := 1 }] } 0 none 0xFFF00 = true) ∧
    (badFormat install = false ∧ badRange (slotWorld 0) 0 install = false ∧
     slotWords (valeRead (slotWorld 0) 0 0xFFF00 256) = List.replicate 64 0) ∧
    handlerSlotOk (slotWords (valeRead (slotWorld 0xC0000140) 0 0xFFF00 256)) = true ∧
    handlerSlotOk (slotWords (valeRead (slotWorld 0xFFFFFFFF) 0 0xFFF00 256)) = false ∧
    (let sv := { serve1 (runAt 0) with runs := [{ runAt 0 with finished := true }], ended := 1 }
     let s := bankWorld [] none (some sv)
     (s.chan 0).serving = some sv ∧ sv.runs.all (·.finished) = true ∧ (s.core 0).task = some task0 ∧ task0.epoch = sv.cmd.epoch ∧
     sv.cmd.ben = false ∧ sv.runs ≠ [] ∧ sv.ended < 2 ^ 32 ∧ (s.core 0).scratch.wf = true) ∧
    (let x : BankCmd := { bankCmd with words := bankCmd.words.set 5 0x0000008080000100 }
     let sv : Serve := { serve1 (runAt 0) with cmd := x, runs := [], status := 257 }
     sv.runs.all (·.finished) = true ∧ x.ben = true ∧ (task0.alloc + x.stat) + 16 ≤ task0.alloc + x.bar ∧
     barOverruns (lacking 1024) (task0.alloc + x.bar) 1024 = false ∧ barOverruns (lacking 1023) (task0.alloc + x.bar) 1024 = true) ∧
    (({ core0 with task := none } : Core).task = none ∧ task0.epoch ≠ ({ bankCmd with epoch := 2 } : BankCmd).epoch) := by
  repeat' apply And.intro
  all_goals decide +kernel

/-- Vale 0 with its window 3 as given, and its interface changed. -/
def windowVale (w : Win) (f : Iface → Iface) : Vale :=
  { vale0 with iface := f { Iface.zero with wins := Iface.zero.wins.set 3 w } }

/-- A mailbox window that takes writes, and a disabled one. -/
def mailbox : Win := { base := 0x10000, size := 12, attr := 0x800000000000000A }
def disabled : Win := { base := 0x10000, size := 12, attr := 0x0A }

/-- A packet of one word. -/
def packet1 : Packet := { src := .host 7, words := [5] }

/-- Core 0's closing store into an endpoint at the head of its store queue, behind the words given. -/
def closing (v : Vale) (ep off : BitVec 12) (ws : List Word) (k : Core) (tmbx : List TaskPacket) (fifo : List BankCmd) : State :=
  let e : Entry := { id := 3, pc := 0, kind := .store 0x0300000000000000 8 0 3 1 (.endpoint ep off), sent := none }
  let s := (world (.lead 0) v { k with ls := { k.ls with sq := [e], seq := 4 } }).setChan 0 (chan0 fifo none none)
  { s with hub := { s.hub with
      tmbx := tmbx
      opens := if ws = [] then [] else [{ src := .core 0, vale := some 0, ep := .task ep, words := ws, since := 0, waits := false }] } }

/-- Nothing older holds the entry at the head of core 0's store queue, and it has not failed. -/
def unheld (s : State) : Bool :=
  (s.core 0).ls.sq.head?.any fun e => !heldBack s (.core 0) e && (heldFault (s.core 0).ls e).isNone

/-- A full mailbox but for one place, an open packet 10,001 ns old, the last words of the two task packets. -/
theorem witness_PacketsAndMailboxes :
    (let s := world .device (windowVale mailbox fun f => { f with mbx := List.replicate 31 packet1 }) core0
     winDecodes s 0 3 = true ∧ ((s.vale 0).iface.wins[3]).kind = 2 ∧ winServes s 0 ((s.vale 0).iface.wins[3]) 7 true = true ∧
     openPacket s (.host 7) (.window 0 3) = none ∧ (s.vale 0).iface.mbx.length < 32 ∧ (s.vale 0).iface.mbx ≠ [] ∧
     packet1.words.length ≤ 8) ∧
    winDecodes (world .device (windowVale disabled id) core0) 0 3 = false ∧
    (let p : OpenPacket := { src := .host 7, vale := none, ep := .window 0 3, words := [5], since := 0, waits := false }
     let s := { State.reset with now := 10001, hub := { State.reset.hub with opens := [p] } }
     openPacket s (.host 7) (.window 0 3) = some p ∧ p.since + 10000 < s.now.toNat ∧ (s.vale 0).iface.drop ≠ BitVec.allOnes 64 ∧
     (s.vale 0).iface.mbx = []) ∧
    (let s := closing vale0 1 0x40 [] core0 [] []
     taskVale s 0 = some 0 ∧ openPacket s (.core 0) (.task 1) = none ∧ unheld s = true ∧ s.hub.tmbx.length < 64) ∧
    (let s := closing vale0 1 0x48 [5] core0 [] []
     (openPacket s (.core 0) (.task 1)).map (fun p => (p.words.length, p.since, p.waits)) = some (0 + 1, 0, false) ∧
     (0x48 : BitVec 12) = 0x40 + 8 * (BitVec.ofNat 12 0 + 1) ∧ unheld s = true ∧ s.hub.tmbx.length < 64 ∧ ¬ 0 + 10000 < s.now.toNat) ∧
    (let p : TaskPacket := { core := 0, vale := 0, words := [5] }
     let s := closing vale0 1 0x40 [] core0 (List.replicate 64 p) []
     64 ≤ s.hub.tmbx.length ∧ p.words.length ≤ 8 ∧
     64 ≤ (closing vale0 1 0x48 [5] core0 (List.replicate 64 p) []).hub.tmbx.length) ∧
    (let s := closing vale0 0x100 0x68 [1, 2, 3, 4, 5] core0 [] (List.replicate 7 bankCmd)
     (s.core 0).task = some task0 ∧ (0x100 : BitVec 12).toNat = 0x100 + (0 : Fin 512).val ∧
     (openPacket s (.core 0) (.task 0x100)).map (·.words.length) = some 5 ∧ unheld s = true ∧
     (s.vale 0).channels.getLsbD 0 = true ∧ bankTailOk task0 0 = true ∧ bankTailOk task0 0x80000001 = false ∧ (s.chan 0).fifo.length < 8 ∧
     baseHeld s 0 2 = false ∧ baseHeld { s with bulk := [{ bank := 0, core := 9, eng := 1 }] } 0 2 = true) ∧
    (let s := closing { vale0 with channels := 0 } 0x100 0x68 [1, 2, 3, 4, 5] core0 [] []
     (s.vale 0).channels.getLsbD 0 = false ∧ firstReport s (.core 0) = none ∧ (s.core 0).ls.sure 3 = false ∧
     olderHeld (s.core 0).ls 3 = false ∧
     takesReports s (.core 0) = true ∧
     (openPacket s (.core 0) (.task 0x100)).map (·.words.length) = some 5) ∧
    8 ≤ ((closing vale0 0x100 0x68 [1, 2, 3, 4, 5] core0 [] (List.replicate 8 bankCmd)).chan 0).fifo.length := by
  repeat' apply And.intro
  all_goals decide +kernel

/-- Core 0 with an access at device 9 that has left 20,000 ns ago, with the sequence number given, and the sequence of its path. -/
def awaiting (k : EntryKind) (wseq : Option (BitVec 32)) (late : Bool) : State :=
  let e : Entry := { id := 3, pc := 0, kind := k, sent := some 8 }
  let r : Request := { id := 8, core := 0, who := .lead, num := 3, part := 0, dev := 9, addr := 0, len := 8, port := 0, path := 2, since := 0
                       wseq := wseq, acked := false, back := false, emul := none, gen := 0 }
  let s := leadLs fun l => { l with lq := [e], sq := [e], seq := 4 }
  { s with now := if late then 20001 else 20000
           hub := { s.hub with reqs := [r], seqs := [{ core := 0, who := .lead, path := 2, next := 6, acked := 5 }] } }

/-- A load that awaits its answer, in time or late. -/
def AwaitsLoad (late : Bool) : Prop :=
  let s := awaiting (.load 0x0100000000000000 8 false 3 0 (.peer 9 0)) none late
  ((requestOf s 8).map fun r => (r.id, r.core, r.num)) = some (8, 0, 3) ∧ (requestOf s 8).map (·.who) = some .lead ∧
  (requestOf s 8).map (·.emul.isNone) = some true ∧
  ((requestOf s 8).map fun r => decide (r.since + 20000 < s.now.toNat)) = some late ∧
  (entryOf (s.core 0).ls 3).map (·.kind) = some (.load 0x0100000000000000 8 false 3 0 (.peer 9 0)) ∧
  (s.core 0).ls.sure 3 = false ∧ olderHeld (s.core 0).ls 3 = false ∧ firstReport s (.core 0) = none ∧ takesReports s (.core 0) = true ∧
  (requestOf s 8).map (fun r => answered r (.load 0x0100000000000000 8 false 3 0 (.peer 9 0))) = some false

/-- An access of the last 8 bytes of a line of vale 0, by vale 1 of device 9, which vale 0 is bound to. -/
def peerRead : PeerRequest := { dev := 9, vale := 1, addr := 0x8078, len := 8, op := .read, order := none }
def peerWrite (n : BitVec 32) : PeerRequest :=
  { peerRead with op := .write (List.replicate 8 7), order := some { core := 3, who := .lead, path := 2, era := 0, seq := n } }
def boundWorld : State :=
  let s := tileWorld .device id
  { s with hub := { s.hub with bind := s.hub.bind.set 255 0x8001000000000009 } }

/-- The same device where the write 5 of that source has been performed, and the write 6 waits. -/
def orderedWorld : State :=
  let s := boundWorld
  { s with hub := { s.hub with
      inSeqs := [{ dev := 9, core := 3, who := .lead, path := 2, era := 0, last := 5 }]
      inbound := [{ asks := .inl (peerWrite 6), run := none }] } }

/-- A write that a later one has passed, one that waits behind an earlier one, one that waits for a bank, and one that does not wait. -/
theorem witness_DomainAccesses_order :
    (arrivesInOrder orderedWorld (peerWrite 4) = false ∧ ∀ x ∈ orderedWorld.hub.inbound, x.asks ≠ .inl (peerWrite 4)) ∧
    (arrivesInOrder orderedWorld (peerWrite 7) = true ∧ waitsBehind orderedWorld (peerWrite 7) = true ∧
      (peerWrite 7).op ≠ .read ∧ (peerWrite 7).order ≠ none ∧ ∀ x ∈ orderedWorld.hub.inbound, x.asks ≠ .inl (peerWrite 7)) ∧
    (let s := { boundWorld with bulk := [{ bank := 0, core := 9, eng := 1 }] }
     arrivesInOrder s (peerWrite 6) = true ∧ peerHeld s (peerWrite 6) = true ∧ peerHeld s peerRead = true ∧ s.hub.inbound = []) ∧
    (let s := boundWorld
     s.split = false ∧ s.hub.inbound = [] ∧ arrivesInOrder s peerRead = true ∧ arrivesInOrder s (peerWrite 6) = true ∧
     peerHeld s (peerWrite 6) = false ∧ (List.replicate 8 (7 : Byte)).length = (peerWrite 6).len) ∧
    (State.reset.split = false ∧ State.reset.hub.inbound = [] ∧ arrivesInOrder State.reset (peerWrite 6) = true) := by
  repeat' apply And.intro
  all_goals decide +kernel

theorem witness_DomainAccesses :
    boundVale State.reset 9 1 = none ∧
    (let s := boundWorld
     boundVale s 9 1 = some 0 ∧ peerRead.addr.toNat < 2 ^ 46 ∧ valeKey s 0 = some 1 ∧ 1 ≤ peerRead.len ∧
     peerRead.addr.toNat % 128 + peerRead.len ≤ 128 ∧ DramWfAt s ∧
     (translate s 0 0x8078 .read).toOption = some ⟨0x8078, false, true, true⟩ ∧
     (translate s 0 0x8078 .write).toOption = some ⟨0x8078, false, true, true⟩ ∧ poisonedAt s .dram 0x8078 8 = false ∧
     peerHeld s peerRead = false ∧ peerHeld { s with bulk := [{ bank := 0, core := 9, eng := 1 }] } peerRead = true) ∧
    requestOf State.reset 0 = none ∧
    (AwaitsLoad false ∧ AwaitsLoad true) ∧
    (let s := awaiting (.store 0x0100000000000000 8 1 3 0 (.peer 9 0)) (some 5) false
     (entryOf (s.core 0).ls 3).map (·.kind) = some (.store 0x0100000000000000 8 1 3 0 (.peer 9 0)) ∧
     (requestOf s 8).map (·.wseq) = some (some 5) ∧ s.hub.reqs.length = 1 ∧ fillBlocks (s.core 0) 0x0100000000000000 8 = false ∧
     (requestOf (awaiting (.store 0x0100000000000000 8 1 3 0 (.peer 9 0)) (some 5) true) 8).map (fun r =>
       decide (r.since + 20000 < (awaiting (.store 0x0100000000000000 8 1 3 0 (.peer 9 0)) (some 5) true).now.toNat)) = some true ∧
     let w := seqOf s 0 .lead 2
     (6 - w.acked).toNat ≤ (w.next - w.acked).toNat ∧ ackedBy { w with acked := 6 } 5 = true) := by
  repeat' apply And.intro
  all_goals decide +kernel

/-- Port 17 in a phase, with lanes 0 to 3 mapped and those of `good`. -/
def portIn (phase : PortPhase) (good : BitVec 5) (f : Port → Port) : State :=
  State.reset.setPort 17 (f { Port.zero with phase := phase, lanes := 15, good := good })

theorem witness_PortPhases :
    (((portIn .down 31 id).ports[17]).phase = .down ∧ ((portIn .down 31 fun x => { x with failed := true }).ports[17]).failed = true) ∧
    (((portIn .train 31 id).ports[17]).phase = .train ∧ 4 ≤ (List.range 5).countP fun i => (0x1E#5).getLsbD i) ∧
    ((portIn .retrain 31 id).ports[17]).phase = .retrain ∧
    (((portIn .repair 30 id).ports[17]).phase = .repair ∧ ((portIn .repair 30 id).ports[17]).replaying = false) ∧
    (let x := (portIn .up 31 id).ports[17]
     x.phase = .up ∧ x.lanes.getLsbD 3 = true ∧
     4 ≤ (List.range 5).countP fun i => (x.good &&& ~~~ BitVec.ofNat 5 (2 ^ 3)).getLsbD i) ∧
    (let x := (portIn .up 15 id).ports[17]
     ¬ 4 ≤ (List.range 5).countP fun i => (x.good &&& ~~~ BitVec.ofNat 5 (2 ^ 3)).getLsbD i) ∧
    (let x := (portIn .up 15 fun x => { x with replaying := true, inRow := 1 }).ports[17]
     x.replaying = true ∧ x.replays ≠ BitVec.allOnes 32 ∧ x.inRow < 2) ∧
    ((portIn .up 15 fun x => { x with replaying := true, inRow := 2 }).ports[17]).inRow = 2 ∧
    (pathFor State.reset 9 = none ∧
      ∃ z ∈ (Partner.mk 9 0 [] [⟨9, none, 0⟩]).vias, z.dev = 9) ∧
    ((makeFlit 0 0 0 0).seq = ((portIn .up 15 id).ports[17]).expect ∧ (makeFlit 1 0 0 0).seq ≠ ((portIn .up 15 id).ports[17]).expect) := by
  repeat' apply And.intro
  all_goals decide +kernel

/-- Flits that their sender made, and one with its CRC changed. -/
theorem witness_PortPhases_flits : flitGood (makeFlit 0 0 0 0) = true ∧ flitGood (makeFlit 1 0 0 0) = true ∧
    flitGood { makeFlit 0 0 0 0 with crc := (makeFlit 0 0 0 0).crc + 1 } = false := by
  simp [flitGood, makeFlit, flitCovered]

/-! ## Witnesses: interfaces, security, vales -/

/-- Vale 0 without images, with host 7, a mailbox window and the phase given. -/
def phased (p : IfPhase) (f : Iface → Iface) : Vale :=
  { windowVale mailbox (fun i => f { i with phase := p, host := 7 }) with images := [] }

/-- A world of that vale without a task. -/
def ifWorld (p : IfPhase) (f : Iface → Iface) : State := world .device (phased p f) Core.zero

/-- A memory window over the pages at 0x8000, and a world with it. -/
def memWindow : Win := { base := 0x10000, size := 12, attr := 0x8000000000008014 }
def windowWorld : State :=
  let s := tileWorld .device id
  let x := s.vale 0
  s.setVale 0 { x with iface := { x.iface with wins := x.iface.wins.set 3 memWindow } }

theorem witness_InterfaceBlock :
    (let s := ifWorld .unlocked id
     let x := s.vale 0
     x.iface.scrubBusy = false ∧ x.iface.reportBusy = false ∧ x.ownsAny = true ∧ x.rstate = .stable ∧ x.graphs = [] ∧
     x.images = [] ∧ x.iface.host ≠ 0 ∧ (x.iface.wins[3]).attr.getLsbD 63 = true) ∧
    ((ifWorld .locked id).vale 0).iface.phase = .locked ∧ ((ifWorld .run id).vale 0).iface.phase = .run ∧
    ((ifWorld .error id).vale 0).iface.phase = .error ∧
    ((ifWorld .run fun f => { f with scrubBusy := true, stopping := true }).vale 0).iface.scrubBusy = true ∧
    valeBusy (ifWorld .run fun f => { f with scrubBusy := true, stopping := true }) 0 = false ∧
    ((ifWorld .run fun f => { f with job := some 5, reportBusy := true }).vale 0).iface.job = some 5 ∧
    (blockOf 0x00FFF000000001B8 = (.iface 0, 0x1B8) ∧ ifFrozenReg 0x1B8 = true ∧ ifFrozenReg 0x1C0 = false) ∧
    blockOf 0x00FFF00000000038 = (.iface 0, 0x20 + 8 * 3) ∧
    (let s := windowWorld
     s.split = false ∧ s.hub.inbound = [] ∧ winAt s 0x10078 = some (0, 3, memWindow) ∧ winServes s 0 memWindow 7 false = true ∧
       memWindow.kind = 4 ∧
     valeKey s 0 = some 1 ∧ (memWindow.attr.extractLsb' 12 44).toNat * 4096 + 0x78 = 0x8078 ∧ 0x8078 % 128 + 8 ≤ 128 ∧
     (translate s 0 0x8078 .read).toOption = some ⟨0x8078, false, true, true⟩ ∧ poisonedAt s .dram 0x8078 8 = false ∧
     vaHeld s 0 none 0x8078 .read = false ∧ vaHeld { s with bulk := [rowHeld 9 1] } 0 none 0x8078 .read = true) := by
  repeat' apply And.intro
  all_goals decide +kernel

/-- The generator of the curve, as SIGNER_SET reads it, in firmware memory. -/
def keyWorld : State :=
  let bs := toBigEndian 48 0xAA87CA22BE8B05378EB1C71EF320AD746E1D3B628BA79B9859F741E082542A385502F25DBF55296C3A545E3872760AB7 ++
    toBigEndian 48 0x3617DE4A96262C6F5D9E98BF9292DC29F8F41DBD289A147CE9DA3113B5F0B8C00A60B1CE1D7E819D7A431D7C90EA0E5F
  { State.reset with mgmt := { State.reset.mgmt with fw := memWrite [] 0x3FFFFA0 bs }
                     sec := { State.reset.sec with addr := 0x00FF000003FFFFA0 } }

theorem witness_SecurityCommands :
    ({ State.reset with sec := { State.reset.sec with busy := true } } : State).sec.busy = true ∧ State.reset.sec.busy = false ∧
    State.reset.sec.slots[63] = none ∧ (ifWorld .run id).sec.slots[0] ≠ none ∧ namedBy State.reset 63 = none ∧
    namedBy (ifWorld .run id) 0 ≠ none ∧
    (let s := keyWorld
     secHeld s s.sec.addr 96 = false ∧ (machRead s s.sec.addr 96).isSome = true ∧
     (machRead s s.sec.addr 96).map (fun bs => onCurve (bigEndian (bs.take 48), bigEndian (bs.drop 48))) = some true) ∧
    ({ State.reset with sec := { State.reset.sec with staged := some [7] } } : State).sec.staged = some [7] ∧
    (let s := { ifWorld .unlocked id with bulk := [{ bank := 0, core := 9, eng := 1 }] }
     let t := { s with sec := { s.sec with addr := 0x00F0000000000000 } }
     t.sec.busy = false ∧ secHeld t t.sec.addr 96 = true ∧ stageHeld t = true) ∧
    State.reset.mgmt.fw.wf = true ∧ State.reset.sec.staged = none ∧ stageHeld State.reset = false ∧
    stagedImage State.reset = none := by
  repeat' apply And.intro
  all_goals decide +kernel

/-- A descriptor of an image of no bytes at the first word of firmware memory, with its signature. -/
def signature0 : List Byte := List.replicate 96 7
def descriptor : List Byte := List.replicate 8 0 ++ toBytes 8 0x00FF000000000000 ++ signature0

/-- It stands at that word. -/
def stageWorld : State :=
  { State.reset with mgmt := { State.reset.mgmt with fw := memWrite [] 0 descriptor }
                     sec := { State.reset.sec with addr := 0x00FF000000000000 } }

/-- What FW_STAGE takes. -/
theorem stagedImage_of {s : State} {d img : List Byte} (hd : machRead s s.sec.addr 112 = some d)
    (hl : numAt d 0 8 % 4096 = 0 ∧ numAt d 0 8 ≤ 2 ^ 24 ∧ numAt d 8 8 % 4096 = 0)
    (hi : machRead s (BitVec.ofNat 64 (numAt d 8 8)) (numAt d 0 8) = some img)
    (hv : ecdsaVerify (Config.fwKeyX.toNat, Config.fwKeyY.toNat) (sha384 img) (d.drop 16) = true) :
    stagedImage s = some img := by
  simp only [stagedImage, hd, Option.bind_eq_bind, Option.bind_some, hl.1, hl.2.2, Nat.not_lt.mpr hl.2.1, hi, hv]
  simp

theorem descriptor_ok : machRead stageWorld stageWorld.sec.addr 112 = some descriptor ∧
    (numAt descriptor 0 8 % 4096 = 0 ∧ numAt descriptor 0 8 ≤ 2 ^ 24 ∧ numAt descriptor 8 8 % 4096 = 0) ∧
    stageHeld stageWorld = false ∧ machRead stageWorld (BitVec.ofNat 64 (numAt descriptor 8 8)) (numAt descriptor 0 8) = some [] ∧
    descriptor.drop 16 = signature0 := by
  decide +kernel

/-- FW_STAGE takes that image where the device's key, which is no number of the model, has signed it so. -/
theorem witness_SecurityCommands_fwStage
    (h : ecdsaVerify (Config.fwKeyX.toNat, Config.fwKeyY.toNat) (sha384 []) signature0 = true) :
    stagedImage stageWorld = some [] :=
  stagedImage_of descriptor_ok.1 descriptor_ok.2.1 descriptor_ok.2.2.2.1 (descriptor_ok.2.2.2.2 ▸ h)

/-- Vale 0 with its registers changed, its interface UNLOCKED. -/
def unlocked (f : Vale → Vale) : State := world .device (f (phased .unlocked id)) Core.zero

theorem witness_ValeRegisters :
    (let s := unlocked id
     (s.vale 0).iface.phase = .unlocked ∧ (s.vale 0).rstate = .stable ∧ (s.vale 0).graphs = [] ∧
     noKey s 0 ((0 : Word).extractLsb' 0 6) = false ∧ noKey s 0 ((63 : Word).extractLsb' 0 6) = true ∧ (63 : Word).toNat < 64 ∧
     (∀ w : Fin 16, w ≠ 0 → (s.vale w).ownsAny = true → (s.vale w).asid.toNat ≠ (0xFFFF : Word).toNat) ∧
     (s.vale 0).shootBusy = false ∧ (s.vale 0).asid = (0 : Word).extractLsb' 0 16 ∧ (s.vale 0).asid ≠ (0xFFFF : Word).extractLsb' 0 16) ∧
    ((unlocked fun x => { x with rstate := .settle }).vale 0).rstate ≠ .stable ∧
    (let g : Graph := { num := 1, nodes := [], doneAt := 0, doneVal := 0, aborted := false }
     ((unlocked fun x => { x with graphs := [g] }).vale 0).graphs ≠ []) ∧
    ((0x7FFFFFF000 : Word).toNat < 2 ^ 39 ∧ (0x7FFFFFF000 : Word).toNat % 4096 = 0 ∧ (8 : Word).toNat % 4096 ≠ 0) ∧
    (64 ≤ (64 : Word).toNat ∧ 2 ^ 16 ≤ (0x10000 : Word).toNat ∧ (0xFFFF : Word).toNat < 2 ^ 16 ∧ 4 ≤ (4 : Word).toNat ∧
      (3 : Word).toNat < 4 ∧ 2 ^ 39 ≤ (0x8000000000 : Word).toNat) ∧
    (let s := let t := unlocked id
       t.setVale 15 { t.vale 15 with channels := 2, asid := 0xFFFF }
     (15 : Fin 16) ≠ 0 ∧ (s.vale 15).ownsAny = true ∧ (s.vale 15).asid.toNat = (0xFFFF : Word).toNat) ∧
    (256 ≤ (256 : Word).toNat ∧ (16384 : Word).toNat ≤ 16384 ∧ (255 : Word).toNat < 256 ∧ 16384 < (16385 : Word).toNat) ∧
    ((unlocked fun x => { x with shootBusy := true }).vale 0).shootBusy = true ∧
    (∀ j : Fin 64, 9 ≤ j.val → j.val < 63 → (0x80000000000001FF : Word).getLsbD j = false) ∧
    (0x80000000000001FF : Word).getLsbD 63 = true ∧ (0x1FF : Word).getLsbD 63 = false ∧ (0x200 : Word).getLsbD 9 = true := by
  repeat' apply And.intro
  all_goals decide +kernel

/-- The worked example of R62: the home of PA 0x1234567880 among 16 slices and among 20, and its set. -/
theorem test_home : lineIndex 0x1234567880 = 0x2468ACF1 ∧ homeSlice (2 ^ 16 - 1) 0x2468ACF1 = some 8 ∧
    homeSlice (2 ^ 20 - 1) 0x2468ACF1 = some 10 ∧ homeSet 0x2468ACF1 = 241 := by decide +kernel

/-- A resize of vale 0 that adds and takes away nothing. -/
def still : Resize :=
  { joinC := 0, joinS := 0, joinCh := 0, leaveC := 0, leaveS := 0, leaveCh := 0, transC := 0, transS := 0, transCh := 0,
    oldS := 1, newS := 1, migr := [], migrated := 0 }

/-- Vale 0 in a step of it. -/
def resizing (st : RState) (f : Resize → Resize) : State := unlocked fun x => { x with rstate := st, resize := some (f still) }

/-- Every step has its hypotheses; a migration of one page whose leaf stands behind it. -/
theorem witness_ResizeSteps :
    (let s := unlocked fun x => { x with nextSlices := 3, nextChannels := 1, nextCores := 1 }
     resizeHeld s 0 = false ∧ resizeRefusal s 0 = none ∧ (s.vale 0).nextSlices &&& ~~~ (s.vale 0).slices ≠ 0) ∧
    (resizeHeld (unlocked id) 0 = false ∧ resizeRefusal (unlocked id) 0 = some 4) ∧
    (let s := unlocked fun x => { x with nextSlices := 3, nextChannels := 1, nextCores := 1, migrCount := 1 }
     resizeHeld { s with bulk := [{ bank := 0, core := 9, eng := 1 }] } 0 = true) ∧
    (let s := resizing .growPending fun r => { r with joinS := 1#128 <<< 127, joinC := 1#256 <<< 255, joinCh := 2 }
     let r := (s.vale 0).resize.getD still
     (s.vale 0).resize = some r ∧ (s.vale 0).rstate = .growPending ∧ r.joinS.getLsbD 127 = true ∧ r.joinC ≠ 0 ∧
     r.joinC.getLsbD 255 = true ∧ r.joinCh ≠ 0) ∧
    (let s := resizing .shrinkPending fun r => { r with transC := 1 }
     (s.core 0).task = none ∧ ((s.vale 0).resize.getD still).transC.getLsbD 0 = true ∧ ((s.vale 0).resize.getD still).leaveC = 0) ∧
    (let r := ((resizing .rehash fun r => { r with migrated := 1 }).vale 0).resize.getD still
     (∀ j, j < 1 → r.migrated.getLsbD j = true) ∧ r.migrated.getLsbD 1 = false) ∧
    (let m : Migr := { src := 0x3000, dst := 0x10000, pte := 0x11000, log2 := 12 }
     let s := resizing .channelMove fun r => { r with migr := [m] }
     ((s.vale 0).resize.getD still).migr = [m] ∧ valeKey s 0 = some 1 ∧ DramWfAt s ∧ m.dst + 4096 ≤ m.pte ∧
     migrHeld s m = false ∧ migrHeld { s with bulk := [rowHeld 9 1] } { m with src := 0x8000 } = true) ∧
    (let s := resizing .settle fun r => { r with transCh := 1 }
     (s.vale 0).rstate = .settle ∧ (∀ ch : Fin 512, ((s.vale 0).resize.getD still).transCh.getLsbD ch = true →
       (s.chan ch).fifo = [] ∧ (s.chan ch).serving = none)) ∧
    (let s := (resizing .settle fun r => { r with transCh := 1 }).setChan 0 (chan0 [bankCmd] none none)
     ((s.vale 0).resize.getD still).transCh.getLsbD (0 : Fin 512) = true ∧ (s.chan 0).fifo ≠ []) := by
  repeat' apply And.intro
  all_goals decide +kernel

/-! ## Witnesses: cores, the hub, the graph engine, the machine -/

/-- Graph 1 of vale 0, which core 0's task belongs to, aborted or not. -/
def graph1 (aborted : Bool) : Graph :=
  { num := 1, nodes := [{ image := 0x10000, args := 7, count := 2, preds := 0, prio := 1, tiles := [], predAt := 0, succs := [], halted := 0,
                          retired := false }], doneAt := 0x8000, doneVal := 5, aborted := aborted }

/-- Core 0 and vale 0 with that graph, the interface in a phase. -/
def coreWorld (p : IfPhase) (aborted : Bool) (k : Core) : State :=
  world .device { vale0 with graphs := [graph1 aborted], iface := { Iface.zero with phase := p } } k

/-- Core 0 with an MMA that drives basin 5, whose other replica is basin 31. -/
def parityWorld : State :=
  let s := matrixWorld mmaR [7] (withBasin [])
  setBasin s 0 31 { Basin.zero with st := .valid, hdr := 0x8000, header := header0, data := (Vector.replicate 128 0).set 0 0x8001 }

theorem witness_CoreCommands :
    coreLocked (coreWorld .run false core0) 0 = true ∧
    (coreState (coreWorld .unlocked false Core.zero) 0 = 0 ∧ coreLocked (coreWorld .unlocked false Core.zero) 0 = false) ∧
    (let s := coreWorld .unlocked false core0
     coreState s 0 = 1 ∧ (s.core 0).run = .running ∧ coreLocked s 0 = false ∧ (s.core 0).task = some task0 ∧
     (s.vale 0).graph 1 = some (graph1 false)) ∧
    (coreState (coreWorld .unlocked false { core0 with run := .trapped, resumePast := true }) 0 = 2 ∧
      coreState (coreWorld .unlocked false { core0 with run := .captured }) 0 = 4) ∧
    (let k := { core0 with run := .stopping, stop := some .capture, ctxAddr := 0x00FF000003000000 }
     captureReady k = true ∧ (coreWorld .unlocked false k).mgmt.fw.wf = true ∧ k.ctxAddr.toNat = 0x00FF000000000000 + 0x3000000 ∧
     0x3000000 + (captureImage k task0).length ≤ 2 ^ 26) ∧
    (let s := coreWorld .unlocked false { core0 with run := .stopping, stop := some .discard }
     discardReady (s.core 0) = true ∧ (s.core 0).isSealed = false ∧ inTransit s 0 = false ∧
     (graph1 false).aborted = false) ∧
    ((graph1 true).aborted = true ∧ graphRuns (coreWorld .unlocked true Core.zero) 0 1 = false) ∧
    (coreState (coreWorld .unlocked false { core0 with run := .stopping, stop := some .capture }) 0 = 3 ∧
      coreLocked (coreWorld .unlocked false { core0 with run := .stopping, stop := some .capture }) 0 = false) ∧
    (core0.corrected ≠ BitVec.allOnes 32 ∧ ErrorAt.dram 0x7FFFFFF ∉ State.reset.poison ∧
      someFailsSure { State.reset with poison := .dram 0x7FFFFFF :: State.reset.poison } = false) ∧
    (let s := leadLs fun l => { l with lq := [loadEntry 3 0xFF8], held := [⟨3, true, none, l.belt, l.n, l.lp⟩], seq := 9 }
     ErrorAt.scratch 0 511 ∉ s.poison ∧ someFailsSure { s with poison := .scratch 0 511 :: s.poison } = true ∧
     someFailsSure s = false) ∧
    (let k := parityWorld.core 0
     k.task = some laneTask ∧ (k.engines[2]).active = [withBasin [] (begun 7 mmaR)] ∧ (k.basins[5]).holder = [7] ∧
     (k.basins[5]).st = .valid ∧ (withBasin [] (begun 7 mmaR)).tile = none ∧ (∀ y : Fin 32, (k.basins[y]).unfilled = false ∧
       (k.basins[y]).st ≠ .stale) ∧
     ∀ y : Fin 32, y ∈ [(31 : Fin 32)] ↔ y ≠ 5 ∧ (k.basins[y]).st = .valid ∧ (k.basins[y]).asid = (k.basins[5]).asid ∧
       (k.basins[y]).hdr = (k.basins[5]).hdr ∧ (k.basins[y]).slice = (k.basins[5]).slice ∧ 7 ∉ (k.basins[y]).holder) ∧
    (let s := parityWorld
     let k := (setBasin s 0 31 { (s.core 0).basins[(31 : Fin 32)] with holder := [7] }).core 0
     (k.basins[31]).st = .valid ∧ (k.basins[5]).st = .valid ∧ 7 ∈ (k.basins[31]).holder) := by
  repeat' apply And.intro
  all_goals decide +kernel

theorem witness_HubCommands :
    ((coreWorld .run false core0).vale 0).iface.phase = .run ∧
    (let s := resizing .settle id
     (s.vale 0).iface.phase = .unlocked ∧ (s.vale 0).rstate ≠ .stable) ∧
    (let s := coreWorld .unlocked false core0
     (s.vale 0).iface.phase = .unlocked ∧ (s.vale 0).rstate = .stable ∧ s.hub.teardown = none) ∧
    (let s := unlocked id
     let t := { s with hub := { s.hub with teardown := some 0 } }
     t.hub.teardown = some 0 ∧ valeBusy t 0 = false ∧ (t.vale 0).rstate = .stable ∧ (t.vale 0).ownsAny = true ∧ (t.core 0).task = none) ∧
    ((0xFFFFFFFF : Word).toNat < 2 ^ 32 ∧ (0xFFFF : Word).toNat < 2 ^ 16) ∧
    (State.reset.hub.pwrLimit < 1501 ∧ 360 ≤ (400 : BitVec 10).toNat ∧ (400 : BitVec 10) ≤ State.reset.hub.vdd ∧
      (550 : BitVec 10).toNat ≤ 550) ∧
    (let x : Stack := { limit := 1, written := 2, delayed := 0, count := 1 }
     let s := { State.reset with hbm := (State.reset.hbm.set 7 x).set 6 { x with count := 0 } }
     (s.hbm[7]).limit ≠ 0 ∧ (s.hbm[7]).limit ≤ (s.hbm[7]).count ∧ (s.hbm[7]).delayed ≠ BitVec.allOnes 32 ∧
     (s.hbm[6]).count < (s.hbm[6]).limit ∧ 1 < (s.hbm[7]).written) := by
  repeat' apply And.intro
  all_goals decide +kernel

/-- An image of 12 KiB whose header page stands at 0x20000: a lead section of the word 5 in its second page, signed in its third. Its
signature r = s = D verifies against the key that R14 then gives, the point of abscissa D less the base point. -/
def signedImage : Image :=
  { base := 0x20000, len := 0x3000, signer := 0, entry := 0, scratch := 4096,
    sections := [{ kind := 1, len := 4, off := 0x1000, sig := 0x2000 }], syncs := [], leaving := false }

/-- The digest of its segment. -/
def digest0 : Nat := 0xF4CF999B645606A2568A2A24882BABB25F29526F929A786D28DC71B6D0A75E8710D9BD49EFD40261B7C9257635CF1D7D

/-- Vale 0 as given, whose graph engine is in turn, in pages that hold that image; signer 0 is its signer. -/
def graphWorld (f : Vale → Vale) : State :=
  let s := tileWorld (.graph 0) fun _ => Core.zero
  let header := memPut (memPut s.dram 0x20000 32 0x100000000000000000010000000000003000008000014D524E42) 0x20080 32 0x200000000000000010000000000400000001
  let m := memWrite (memPut header 0x21000 4 5) 0x22000 (toBigEndian 48 digest0 ++ toBigEndian 48 digest0)
  { s.setVale 0 (f { s.vale 0 with images := [] }) with
    dram := m, tags := ([0x420, 0x440] ++ (List.range 32).map (0x400 + ·)).foldl (fun t l => alSet (0, 0) t l (1, 1)) s.tags
    sec := { s.sec with signers := s.sec.signers.set 0 (some
      (0xDFA38FD5D5B792024F5753E7FE3C3CF8F97DD0D5B40D57CE0411C8B3C5551DC0CC71437EC47D59146AACD8765FE18529,
       0x4CB916A61F2554CF9F88252EB7C89879EC9121ED2A2988C3D313448997F26463F156EB0869A67FB22E54D81161AEF13A)) } }

/-- No core of that world holds an exclusive copy: what its loader and its graph engine read recalls nothing. -/
theorem noteRange_graphWorld {s : State} (h : s.cores = (graphWorld id).cores) (v : Fin 16) (va n : Nat) : noteRange s v va n = s := by
  have none_ : (s.cores.toList.all fun k => k.l1.all fun y => decide (y.rq ≠ 0)) = true := by rw [h]; decide +kernel
  unfold noteRange
  split
  · rfl
  · induction List.range ((va + n - 1) / 4096 + 1 - va / 4096) with
    | nil => rfl
    | cons i l ih => rw [List.foldl_cons, noteWalk_none none_, ih]

/-- A command packet with its first word and its address. -/
def command (w0 w1 : Word) : Packet := { src := .host 7, words := [w0, w1, 0x8000, 0, 0, 0, 0, 0] }

/-- A vale with the lane image, and graph 1 of one node of it, whose predicate stands at 0x8000. -/
def withGraph (x : Vale) : Vale :=
  let nd : Node := { image := 0x3000, args := 7, count := 2, preds := 0, prio := 3, tiles := [0x8000], predAt := 0x8000, succs := [],
                     halted := 0, retired := false }
  { x with images := [laneImage], graphs := [{ num := 1, nodes := [nd], doneAt := 0x8000, doneVal := 5, aborted := false }] }

/-- An entry of that node. -/
def ready1 : Ready := { graph := 1, node := 0, next := 1, since := 0, again := none }

/-- A node table at 0x30000: one node of the lane image, without successors. -/
def launchWorld : State :=
  let s := graphWorld fun x => { withGraph x with commands := [command 0x10001 0x30000] }
  { s with dram := memPut (memPut s.dram 0x30000 8 0x3000) 0x30010 8 1, tags := alSet (0, 0) s.tags 0x600 (1, 1) }

theorem witness_LoaderAndGraphs_commands :
    (let s := graphWorld fun x => { x with commands := [command 2 0x20000] }
     let q := popCommand { s with hub := { s.hub with lastLoad := 0 } } 0
     (nextCommand s).map (fun p => (p.1, p.2.cmd)) = some (0, 2) ∧ arbitrates s (asksLoader s) s.hub.lastLoad 0 = true ∧
     let p := shootRange q 0 0x20000 4096
     let r := shootRange p 0 0x20000 (headerLength p 0 0x20000)
     loadRefused q 0 = false ∧ rangeHeld r 0 0x20000 (max (headerLength p 0 0x20000) 4096) .read = false ∧
     rangeHeld { r with bulk := [rowHeld 9 1] } 0 0x20000 (max (headerLength p 0 0x20000) 4096) .read = true ∧
     (checkImage r 0 0x20000).toOption = some signedImage ∧ writesInFlight r 0 0x20000 0x3000 = false) ∧
    (let s := graphWorld fun x => { x with commands := [command 2 0x20000] }
     let e : Entry := { id := 3, pc := 0, kind := .store 0x22FF8 8 0 3 1 (.dram 0x22FF8 false), sent := none }
     let t := s.setCore 0 { core0 with ls := { core0.ls with sq := [e] } }
     writesInFlight t 0 0x20000 0x3000 = true ∧ (t.core 0).task.map (·.vale) = some 0) ∧
    (let s := graphWorld fun x => { x with commands := [command 2 0x20000] }
     let t := s.setVale 15 { s.vale 15 with prio := 3, commands := [command 2 0x20000] }
     arbitrates t (asksLoader t) t.hub.lastLoad 0 = false) ∧
    (checkImage (graphWorld fun x => { x with commands := [command 2 0x8000] }) 0 0x8000).toOption.isNone = true ∧
    loadRefused (graphWorld fun x => { x with iface := { x.iface with phase := .error } }) 0 = true ∧
    (let s := graphWorld fun x => { withGraph x with commands := [command 3 0x3000] }
     (nextCommand s).map (fun p => (p.1, p.2.cmd, p.2.word 1)) = some (0, 3, 0x3000) ∧ (s.vale 0).images = [laneImage] ∧
     laneImage.base = 0x3000) ∧
    (let s := launchWorld
     let q := popCommand s 0
     (nextCommand s).map (fun p => (p.1, p.2.cmd)) = some (0, 1) ∧ launchRefused q 0 = false ∧ engineFull (q.vale 0) 1 = false ∧
     launchReads q 0 0x30000 0x8000 1 0 = [(0x30000, 128), (0x8000, 0)] ∧
     (∀ r ∈ [((0x30000 : Word), 128), (0x8000, 0)], graphHeld q 0 r.1 r.2 = false) ∧
     graphHeld { q with bulk := [rowHeld 9 1] } 0 0x30000 128 = true ∧
     (checkGraph q 0 0x30000 0x8000 1 0).toOption.map List.length = some 1) := by
  repeat' apply And.intro
  all_goals decide +kernel

theorem witness_LoaderAndGraphs :
    (let s := graphWorld id
     s.turn = .graph 0 ∧ rangeHeld s 0 0x20000 0x3000 .read = false ∧
     rangeHeld { s with bulk := [rowHeld 9 1] } 0 0x20000 0x3000 .read = true ∧
       (imageDigests s 0 signedImage).map (fun ds => (ds.map bigEndian, signaturesOk s 0 signedImage ds)) = some ([digest0], true) ∧
     handlersOk s 0 signedImage = true) ∧
    (let s := graphWorld fun x => { x with images := [{ laneImage with leaving := true }] }
     (s.vale 0).images = [{ laneImage with leaving := true }] ∧ imageUsed s 0 0x3000 = false) ∧
    (let s := graphWorld fun x => { withGraph x with preds := [(1, 0)] }
     (s.vale 0).preds = [(1, 0)] ∧ ((s.vale 0).node 1 0).map (·.predAt) = some 0x8000 ∧
     graphHeld s 0 0x8000 4 = false ∧ (graphRead s 0 0x8000 4).map ofBytes = some 0x100) ∧
    (let s := graphWorld fun x => { withGraph x with fifos := x.fifos.set 3 [ready1] }
     keyed s 0 = true ∧ scrubbing s 0 = false ∧ headEntry (s.vale 0) = some (3, ready1) ∧ ready1.again = none ∧
     ((s.vale 0).node 1 0).map (·.image) = some 0x3000 ∧
     ((s.vale 0).images.find? fun i => decide (i.base = 0x3000)) = some laneImage ∧
     chooseCore s 0 [0x8000] laneImage.scratch = some 0) ∧
    (let g : ShadowChange := { core := 255, basin := 31, tag := some { asid := 0, hdr := 0x8000, basin := 31 } }
     ((graphWorld fun x => { x with lag := [g] }).vale 0).lag = [g]) ∧
    (let s := { (graphWorld fun x => { x with fifos := x.fifos.set 2 [ready1] }) with now := 100001 }
     (s.vale 0).fifos[(2 : Fin 3).castSucc] = [ready1] ∧ 100000 < s.now.toNat - ready1.since) := by
  repeat' apply And.intro
  all_goals decide +kernel

/-- Core 0 of a tile's world at a lead word 0x04000000 that stands at 0x21000. -/
def leadWorld : State :=
  let s := graphWorld fun x => { x with images := [signedImage] }
  let t : Task := { laneTask with image := 0x20000 }
  let k := { core0 with task := some t, ls := { core0.ls with pc := 0x21000 } }
  { s.setCore 0 k with turn := .lead 0, dram := memPut s.dram 0x21000 4 0x04000000 }

/-- The word at each fetch address decodes: firmware's first word, a lead word, a lane word, a handler's first word. -/
theorem witness_StepRunsDecoded :
    (let s := State.reset.withFetchWord 32 0x04000000
     s.agenda = [] ∧ s.stalled = false ∧ s.turn = .mgmt ∧ (machineFetch s s.mgmt.ls.pc).toOption = some 0x04000000 ∧
     (decodeLead (declaredIds s .mgmt) 0x04000000).toOption = (decode (.w32 0x04000000)).toOption ∧
     (decode (.w32 0x04000000)).toOption.isSome = true) ∧
    (let s := leadWorld
     s.agenda = [] ∧ s.stalled = false ∧ taskVale s 0 = some 0 ∧ canIssue s (.core 0) = true ∧
     fetchHeld s 0 false (s.core 0).ls.pc = false ∧
     (taskFetch s (s.core 0) (s.core 0).ls.buf 0 1 0 4 (s.core 0).ls.pc).toOption = some 0x04000000 ∧
     (decodeLead (declaredIds s (.core 0)) 0x04000000).toOption = (decode (.w32 0x04000000)).toOption) ∧
    (let s := State.reset.withFetchWord 64 0xDA00000000000000
     s.agenda = [] ∧ s.stalled = false ∧ s.turn = .lane 0 ∧ laneActive (s.core 0) = true ∧ taskVale s 0 = some 0 ∧
     fetchHeld s 0 true (s.core 0).lane.pc = false ∧
     (taskFetch s (s.core 0) (s.core 0).lane.buf 0 2 1 8 (s.core 0).lane.pc).toOption = some 0xDA00000000000000 ∧
     (s.core 0).lane.levels = [] ∧ (s.core 0).lane.held (s.core 0).lane.pc = none ∧
       (decodeLane 0xDA00000000000000).toOption.isSome = true) ∧
    (let l : LaneSlice := { LaneSlice.zero with pc := 8, levels := [⟨8, 2, false, 0, 2⟩], body := [(8, 0xDA00000000000000)] }
     l.levels ≠ [] ∧ l.held 8 = some (BitVec.ofNat 64 0xDA00000000000000) ∧ l.held 16 = none) ∧
    (let s := State.reset.withFetchWord 32 0xC0000140
     s.agenda = [] ∧ s.turn = .bank 0 0 ∧ (runInTurn s).map (fun p => handlerWord p.2.2.1 p.2.2.2) = some 0xC0000140 ∧
     (decodeHandler 0xC0000140).toOption = some .bkend) := by
  repeat' apply And.intro
  all_goals decide +kernel

theorem witness_StepKeepsMemories : MemoriesWf State.reset ∧ StepSafe State.reset :=
  ⟨⟨rfl, rfl, rfl, by decide +kernel⟩, _, rfl⟩

end Sys2Proof.Tests
end

section
/-! PROOFS. The lead slice: JR (R113), the steering pushes and the REGION marker (R122, R123, R126). An instruction's meaning is run
once by its lemma; what becomes of it at issue is `leadStep_done`, `leadStep_trap`, `leadStep_wait` or `leadStep_hold`. -/
namespace Sys2Proof.Machine
open Laws

/-! ## A lead instruction where it issues (R297, R298, R306) -/

section
variable {s t : State} {who : LeadId} {i : Instr} {f : LeadId → State → Issue}

/-- The state that the outcome of an instruction's meaning becomes at a boundary at which the instruction issues. -/
def Issue.landed (s : State) (who : LeadId) : Issue → State
  | .done t => { t with stalled := false }
  | .trap code tval => report s who code (s.ls who).pc tval
  | .denied t code tval => report t who code (s.ls who).pc tval
  | .poison tval => report (logLead s who) who 353 (s.ls who).pc tval
  | .wait => s.waiting
  | .hold t => t.waiting

theorem leadStep_ready (h : LeadReady s who) : leadStep i f s = .next ((f who s).landed s who) := by
  obtain ⟨hturn, hissue, hfirst, hheld, hcommit, hdue⟩ := h
  rw [leadStep_next f hturn, issue_ready hissue hfirst hheld hcommit hdue]
  cases f who s <;> rfl

theorem leadStep_done (h : LeadReady s who) (hf : f who s = .done t) : leadStep i f s = .next { t with stalled := false } := by
  rw [leadStep_ready h, hf]; rfl

theorem leadStep_trap (h : LeadReady s who) {code : BitVec 12} {tval : Word} (hf : f who s = .trap code tval) :
    leadStep i f s = .next (report s who code (s.ls who).pc tval) := by
  rw [leadStep_ready h, hf]; rfl

theorem leadStep_wait (h : LeadReady s who) (hf : f who s = .wait) : leadStep i f s = .next s.waiting := by
  rw [leadStep_ready h, hf]; rfl

theorem leadStep_hold (h : LeadReady s who) (hf : f who s = .hold t) : leadStep i f s = .next t.waiting := by
  rw [leadStep_ready h, hf]; rfl

end

/-! ## JR (R113) -/

/-- A word whose operation code is not that of the bank operations is a word of a lead stream (R79). -/
theorem decode_lead {w : BitVec 32} (h : w.extractLsb' 26 6 ≠ 0x30) : decode (.w32 w) = decodeLead SyncIds.all w := if_neg h

/-- A field is zero if and only if its upper and its lower part are. -/
theorem low16_zero_iff (w : BitVec 32) :
    w.extractLsb' 0 16 = 0 ↔ w.extractLsb' 11 5 = 0 ∧ w.extractLsb' 0 11 = 0 := by
  simp only [← BitVec.toNat_inj, BitVec.extractLsb'_toNat, Nat.shiftRight_eq_div_pow, BitVec.ofNat_eq_ofNat,
    BitVec.toNat_ofNat]
  omega

/-- The checks of a JR word (R74, R80). -/
theorem decode_jr {w : BitVec 32} (h : w.extractLsb' 26 6 = 5) : decode (.w32 w) =
    if w.extractLsb' 21 5 = 0 ∧ w.extractLsb' 0 16 = 0 then .ok (.jr (w.extractLsb' 16 5)) else .error 1 := by
  rw [decode_lead (by rw [h]; decide)]
  simp only [decodeLead, h, low16_zero_iff]
  by_cases hd : w.extractLsb' 21 5 = 0#5
  · by_cases hb : w.extractLsb' 11 5 = 0#5
    · by_cases hf : w.extractLsb' 0 11 = 0#11
      · simp [checked, hd, hb, hf]
      · simp [checked, hd, hb, hf]
    · simp [checked, hd, hb]
  · simp [checked, hd]

/-- The word of JR (R76, R80). -/
theorem wordOf_jr (a : BitVec 5) : wordOf (.jr a) = BitVec.ofNat 64 (0x14000000 + a.toNat * 2 ^ 16) := by
  revert a; decide

theorem low2_zero_iff (x : Word) : x.extractLsb' 0 2 = 0 ↔ x.toNat % 4 = 0 := by
  simp [← BitVec.toNat_inj]

theorem exec_jr (a : BitVec 5) (s : State) : exec (.jr a) s = execJr a s := rfl

/-- JR to a multiple of 4. -/
theorem jr_jumps {s : State} {who : LeadId} {a : BitVec 5} {x : Word} (h : LeadReady s who)
    (hx : readSrc (s.ls who) a = some x) (hm : x.toNat % 4 = 0) :
    exec (.jr a) s = .next (leadNow s who { s.ls who with pc := x }) := by
  rw [exec_jr, execJr]
  exact leadStep_done h (by simp only [hx, if_pos ((low2_zero_iff x).mpr hm)])

/-- JR to any other address. -/
theorem jr_misaligned {s : State} {who : LeadId} {a : BitVec 5} {x : Word} (h : LeadReady s who)
    (hx : readSrc (s.ls who) a = some x) (hm : x.toNat % 4 ≠ 0) :
    exec (.jr a) s = .next (report s who 3 (s.ls who).pc (wordOf (.jr a))) := by
  rw [exec_jr, execJr]
  exact leadStep_trap h (by simp only [hx, if_neg (mt (low2_zero_iff x).mp hm)])

/-- Settles O11: the word by the order of its checks, the jump and the trap by what each outcome becomes at issue, and what the trap
leaves by the frame of a report. -/
theorem jumpRegister : Obligations.JumpRegister := by
  unfold Obligations.JumpRegister
  refine ⟨fun w h => decode_jr h, fun s who a x h hx => ⟨jr_jumps h hx, fun hm => ?_⟩⟩
  refine ⟨_, jr_misaligned h hx hm, ?_⟩
  rw [wordOf_jr]
  exact ⟨rfl, report_ls _ _ _, report_dram _ _ _, report_tags _ _ _, report_fw _ _ _, report_vales _ _ _, report_hub _ _ _,
    report_scratch _ _ _, report_core_other _ _ _⟩

/-! ## The words of the pushes (R84, R122) -/

/-- A word of the steering group. -/
theorem decode_steerGroup (d a b f : BitVec 5) (x : BitVec 6) :
    decode (.w32 (wordLR 0x2B d a b f x)) = decodeSteerGroup d a b f x := by
  rw [decode_lead (by rw [wordLR_op]; decide)]
  simp [decodeLead, wordLR_op, wordLR_d, wordLR_a, wordLR_b, wordLR_f, wordLR_x]

/-- The first register of SPMASK is n0, n4, n8 or n12: cause 0 comes before cause 1 (R74, R122). -/
theorem decode_spmask (a : BitVec 5) (k : BitVec 4) : decode (.w32 (wordLR 0x2B 0 a 0 0 (k.setWidth 6))) =
    if k = 0 ∨ k = 4 ∨ k = 8 ∨ k = 12 then (if a = 0 then .ok (.spmask k) else .error 1) else .error 0 := by
  rw [decode_steerGroup]
  have hlow : (k.setWidth 6).extractLsb' 0 2 = 0#2 ↔ k = 0#4 ∨ k = 4#4 ∨ k = 8#4 ∨ k = 12#4 := by revert k; decide
  have hhigh : (k.setWidth 6).extractLsb' 4 2 = 0#2 := by revert k; decide
  have hk : (k.setWidth 6).extractLsb' 0 4 = k := by revert k; decide
  by_cases hdef : k = 0#4 ∨ k = 4#4 ∨ k = 8#4 ∨ k = 12#4
  · by_cases ha : a = 0#5
    · simp [decodeSteerGroup, checked, hlow, hhigh, hk, hdef, ha]
    · simp [decodeSteerGroup, checked, hlow, hdef, ha]
  · simp [decodeSteerGroup, checked, hlow, hdef]

/-! ## An instruction of a task at issue -/

section
variable {s u : State} {c : Fin 256} {t : Task} {i : Instr} {f : State → Fin 256 → Task → Issue}

theorem coreStep_done (h : CoreReady s c t) (hf : f s c t = .done u) : coreStep i f s = .next { u with stalled := false } :=
  leadStep_done h.1 (by simp only [h.2, hf])

theorem coreStep_trap (h : CoreReady s c t) {code : BitVec 12} {tval : Word} (hf : f s c t = .trap code tval) :
    coreStep i f s = .next (report s (.core c) code (s.core c).ls.pc tval) :=
  leadStep_trap h.1 (by simp only [h.2, hf])

theorem coreStep_wait (h : CoreReady s c t) (hf : f s c t = .wait) : coreStep i f s = .next s.waiting :=
  leadStep_wait h.1 (by simp only [h.2, hf])

end

/-! ## Room in the steering queue (R123) -/

theorem steerRoom_free {k : Core} (h : k.steer.length < 64) : steerRoom k = .ok () := if_pos h

theorem steerRoom_popped {k : Core} (h : 64 ≤ k.steer.length) (hl : k.ls.lane = true) (hv : k.ls.vended = false) :
    steerRoom k = .error none := by
  simp [steerRoom, Nat.not_lt.mpr h, hl, hv]

theorem steerRoom_unpopped {k : Core} (h : 64 ≤ k.steer.length) (hn : k.ls.lane = false ∨ k.ls.vended = true) :
    steerRoom k = .error (some 226) := by
  simp only [steerRoom, Nat.not_lt.mpr h, if_false]
  rcases hn with hl | hv
  · simp [hl]
  · simp [hv]

/-! ## Pushes (R122, R123) -/

/-- Instruction `i` pushes the one entry `kind`: into a queue with room; on a full queue it waits for a stream to pop an entry, and
raises 226 where none will. -/
def Pushes (s : State) (c : Fin 256) (i : Instr) (kind : SteerKind) : Prop :=
  ((s.core c).steer.length < 64 → exec i s = .next (coreNow s c { (s.core c).past with
    steer := (s.core c).steer ++ [⟨kind, (s.core c).ls.seq⟩] })) ∧
  (64 ≤ (s.core c).steer.length → (s.core c).ls.lane = true → (s.core c).ls.vended = false → exec i s = .next s.waiting) ∧
  (64 ≤ (s.core c).steer.length → (s.core c).ls.lane = false ∨ (s.core c).ls.vended = true →
    exec i s = .next (report s (.core c) 226 (s.core c).ls.pc (ownWord i)))

section
variable {s : State} {c : Fin 256} {t : Task} {i : Instr} {srcs : List (BitVec 5)} {f : List Word → SteerKind} {vs : List Word}

theorem pushStep_room (h : CoreReady s c t) (hv : srcs.mapM (readSrc (s.core c).ls) = some vs)
    (hroom : (s.core c).steer.length < 64) : pushStep i srcs f s = .next (coreNow s c { (s.core c).past with
      steer := (s.core c).steer ++ [⟨f vs, (s.core c).ls.seq⟩] }) :=
  coreStep_done h (by simp only [hv, steerRoom_free hroom]; rfl)

theorem pushStep_waits (h : CoreReady s c t) (hv : srcs.mapM (readSrc (s.core c).ls) = some vs)
    (hroom : steerRoom (s.core c) = .error none) : pushStep i srcs f s = .next s.waiting :=
  coreStep_wait h (by simp only [hv, hroom])

theorem pushStep_traps (h : CoreReady s c t) (hv : srcs.mapM (readSrc (s.core c).ls) = some vs) {code : BitVec 12}
    (hroom : steerRoom (s.core c) = .error (some code)) :
    pushStep i srcs f s = .next (report s (.core c) code (s.core c).ls.pc (wordOf i)) :=
  coreStep_trap h (by simp only [hv, hroom])

/-- With its sources present, a push pushes what `f` makes of them. -/
theorem pushes_of_pushStep (hexec : exec i s = pushStep i srcs f s) (hword : wordOf i = ownWord i) (h : CoreReady s c t)
    (hv : srcs.mapM (readSrc (s.core c).ls) = some vs) {kind : SteerKind} (hkind : f vs = kind) : Pushes s c i kind := by
  subst hkind
  refine ⟨fun hroom => ?_, fun hfull hl hvend => ?_, fun hfull hn => ?_⟩
  · rw [hexec, pushStep_room h hv hroom]
  · rw [hexec, pushStep_waits h hv (steerRoom_popped hfull hl hvend)]
  · rw [hexec, pushStep_traps h hv (steerRoom_unpopped hfull hn), hword]

end

/-! ## The entries of the masks (R122) -/

/-- The lowest word of packed words is the first. -/
theorem packLanes_cons {n w : Nat} (v : BitVec w) (vs : List Nat) :
    BitVec.ofNat (n + w) (packLanes w (v.toNat :: vs)) = BitVec.ofNat n (packLanes w vs) ++ v := by
  apply BitVec.eq_of_toNat_eq
  rw [BitVec.toNat_append, ← Nat.shiftLeft_add_eq_or_of_lt v.isLt, BitVec.toNat_ofNat, BitVec.toNat_ofNat, Nat.shiftLeft_eq,
    packLanes, Nat.mod_eq_of_lt v.isLt, Nat.add_comm n w, Nat.pow_add, Nat.mod_mul, Nat.add_mul_mod_self_left,
    Nat.mod_eq_of_lt v.isLt, Nat.add_mul_div_left _ _ (Nat.two_pow_pos w), Nat.div_eq_of_lt v.isLt, Nat.zero_add,
    Nat.add_comm, Nat.mul_comm]

/-- Four words packed into a mask, the first lowest. -/
theorem packLanes_four (w0 w1 w2 w3 : Word) :
    BitVec.ofNat 256 (packLanes 64 ([w0, w1, w2, w3].map BitVec.toNat)) = w3 ++ w2 ++ w1 ++ w0 := by
  have h3 : BitVec.ofNat 64 (packLanes 64 [w3.toNat]) = w3 := by
    simp [packLanes, Nat.mod_eq_of_lt w3.isLt]
  have h2 : BitVec.ofNat 128 (packLanes 64 [w2.toNat, w3.toNat]) = w3 ++ w2 :=
    (packLanes_cons (n := 64) w2 _).trans (congrArg (· ++ w2) h3)
  have h1 : BitVec.ofNat 192 (packLanes 64 [w1.toNat, w2.toNat, w3.toNat]) = w3 ++ w2 ++ w1 :=
    (packLanes_cons (n := 128) w1 _).trans (congrArg (· ++ w1) h2)
  exact (packLanes_cons (n := 192) w0 _).trans (congrArg (· ++ w0) h1)

/-- The mask of the lowest `n` lanes. -/
theorem lowLanes_eq (n : Nat) :
    BitVec.ofNat 256 (2 ^ min n 256 - 1) = BitVec.ofFnLE fun l : Fin 256 => decide (l.val < n) := by
  apply BitVec.eq_of_getLsbD_eq
  intro l hl
  rw [BitVec.getLsbD_ofFnLE, dif_pos hl, BitVec.getLsbD_ofNat, Nat.testBit_two_pow_sub_one]
  simp [hl]

theorem mapM_four (l : LeadSlice) (a b c d : BitVec 5) {x y z u : Word} (ha : readSrc l a = some x) (hb : readSrc l b = some y)
    (hc : readSrc l c = some z) (hd : readSrc l d = some u) : [a, b, c, d].mapM (readSrc l) = some [x, y, z, u] := by
  simp [ha, hb, hc, hd]

/-- SPMASK reads the four named registers from n(k) on. -/
theorem mapM_four_named {l : LeadSlice} {k : BitVec 4} {w : Fin 4 → Word}
    (h : ∀ j : Fin 4, readSrc l (BitVec.ofNat 5 (16 + k.toNat + j.val)) = some (w j)) :
    ((List.range 4).map fun j => namedSpec (k.toNat + j)).mapM (readSrc l) = some [w 0, w 1, w 2, w 3] := by
  have hn (j : Fin 4) : readSrc l (namedSpec (k.toNat + j.val)) = some (w j) := by
    rw [namedSpec, ← Nat.add_assoc]; exact h j
  exact mapM_four l _ _ _ _ (hn 0) (hn 1) (hn 2) (hn 3)

/-! ## What each push appends (R122) -/

theorem exec_spmask (k : BitVec 4) (s : State) : exec (.spmask k) s = execSpmask k s := rfl
theorem exec_spmaskn (a : BitVec 5) (s : State) : exec (.spmaskn a) s = execSpmaskn a s := rfl
theorem exec_spcount (a : BitVec 5) (s : State) : exec (.spcount a) s = execSpcount a s := rfl
theorem exec_spflag (a : BitVec 5) (s : State) : exec (.spflag a) s = execSpflag a s := rfl
theorem exec_spval (a : BitVec 5) (s : State) : exec (.spval a) s = execSpval a s := rfl

section
variable {s : State} {c : Fin 256} {t : Task} {a : BitVec 5} {x : Word}

theorem pushes_spmask {k : BitVec 4} {w : Fin 4 → Word} (h : CoreReady s c t)
    (hw : ∀ j : Fin 4, readSrc (s.core c).ls (BitVec.ofNat 5 (16 + k.toNat + j.val)) = some (w j)) :
    Pushes s c (.spmask k) (.mask (w 3 ++ w 2 ++ w 1 ++ w 0)) :=
  pushes_of_pushStep (exec_spmask k s) rfl h (mapM_four_named hw) (congrArg SteerKind.mask (packLanes_four _ _ _ _))

theorem pushes_spmaskn (h : CoreReady s c t) (hx : readSrc (s.core c).ls a = some x) :
    Pushes s c (.spmaskn a) (.mask (BitVec.ofFnLE fun l : Fin 256 => decide (l.val < x.toNat))) :=
  pushes_of_pushStep (exec_spmaskn a s) rfl h (mapM_one _ a hx) (congrArg SteerKind.mask (lowLanes_eq x.toNat))

theorem pushes_spcount (h : CoreReady s c t) (hx : readSrc (s.core c).ls a = some x) :
    Pushes s c (.spcount a) (.count (x.extractLsb' 0 32)) :=
  pushes_of_pushStep (exec_spcount a s) rfl h (mapM_one _ a hx)
    (congrArg SteerKind.count (BitVec.setWidth_eq_extractLsb' (by decide)))

theorem pushes_spflag (h : CoreReady s c t) (hx : readSrc (s.core c).ls a = some x) :
    Pushes s c (.spflag a) (.flag (decide (x ≠ 0))) :=
  pushes_of_pushStep (exec_spflag a s) rfl h (mapM_one _ a hx) rfl

theorem pushes_spval (h : CoreReady s c t) (hx : readSrc (s.core c).ls a = some x) : Pushes s c (.spval a) (.value x) :=
  pushes_of_pushStep (exec_spval a s) rfl h (mapM_one _ a hx) rfl

end

/-! ## The REGION marker (R123, R126) -/

theorem regionBars_none (s : State) (c : Fin 256) (t : Task) (first : BitVec 6) : regionBars s c t first 0 = some [] := rfl

/-- With every named register present, the live ones have values. -/
theorem liveRegs_of_values {l : LeadSlice} {n : Fin 16 → Word} (h : ∀ j : Fin 16, l.n[j] = .val (n j)) (live : BitVec 16) :
    ∃ v, liveRegs l live = some v := by
  simp [liveRegs, h]

theorem regionReady_iff (k : Core) :
    regionReady k = true ↔ enginesIdle k = true ∧ storesPerformed k.ls = true ∧ k.bankOut = 0 := by
  simp [regionReady, and_assoc]

/-- The state as REGION acquires it: statuses of bank commands that it records end the core's L1 copies (R205, R305). -/
def regionAcquired (s : State) (c : Fin 256) : State := if (s.core c).bankStats.isEmpty then s else acquireL1 s c

/-- An acquire leaves the lead slice and the steering queue. -/
theorem regionAcquired_frame (s : State) (c : Fin 256) :
    ((regionAcquired s c).core c).ls = (s.core c).ls ∧ ((regionAcquired s c).core c).steer = (s.core c).steer := by
  unfold regionAcquired
  split
  · exact ⟨rfl, rfl⟩
  · simp [acquireL1]

theorem exec_region (first : BitVec 6) (count : BitVec 4) (live : BitVec 16) (s : State) :
    exec (.region first count live) s = execRegion first count live s := rfl

section
variable {s : State} {c : Fin 256} {t : Task} {i : Instr} {first : BitVec 6} {live : BitVec 16} {v : Vector Word 16}
  (hl : (s.core c).ls.lane = true) (hvend : (s.core c).ls.vended = false) (hopening : (s.core c).opening = none)
  (hready : regionReady (s.core c) = true)
include hl hvend hopening hready

/-- REGION with a stream open and room in the queue: its snapshot is taken, its marker appended. -/
theorem regionStep_marks (hlive : liveRegs (s.core c).ls live = some v) (hroom : (s.core c).steer.length < 64) :
    regionStep i first 0 live s c t = .hold ((regionAcquired s c).setCore c
      { pushSteer ((regionAcquired s c).core c) .marker with
        opens := false, opening := some (regionSnap (s.core c) live v []) }) := by
  simp only [regionStep, hopening, regionBars_none, hlive, hready, hl, hvend, steerRoom_free hroom]
  rfl

/-- REGION with a stream open and a full queue: it waits, and the stream is known to have been open. -/
theorem regionStep_full (hlive : liveRegs (s.core c).ls live = some v) (hfull : 64 ≤ (s.core c).steer.length) :
    regionStep i first 0 live s c t = .hold (s.setCore c { s.core c with opens := true }) := by
  simp only [regionStep, hopening, regionBars_none, hlive, hready, hl, hvend, steerRoom_popped hfull hl hvend]
  rfl

/-- The marker of REGION takes a steering entry, or waits for one. -/
theorem region_marker {n : Fin 16 → Word} (h : CoreReady s c t) (hn : ∀ j : Fin 16, (s.core c).ls.n[j] = .val (n j)) :
    ∃ u, exec (.region first 0 live) s = .next u ∧ (u.core c).ls = (s.core c).ls ∧ (u.core c).steer =
      if (s.core c).steer.length < 64 then (s.core c).steer ++ [⟨.marker, (s.core c).ls.seq⟩] else (s.core c).steer := by
  obtain ⟨v, hlive⟩ := liveRegs_of_values hn live
  obtain ⟨hls, hsteer⟩ := regionAcquired_frame s c
  rw [exec_region, execRegion]
  by_cases hroom : (s.core c).steer.length < 64
  · refine ⟨_, leadStep_hold h.1 (by simp only [h.2]; exact regionStep_marks hl hvend hopening hready hlive hroom), ?_⟩
    simp [State.waiting, pushSteer, hls, hsteer, hroom]
  · have hfull := Nat.not_lt.mp hroom
    refine ⟨_, leadStep_hold h.1 (by simp only [h.2]; exact regionStep_full hl hvend hopening hready hlive hfull), ?_⟩
    simp [State.waiting, hroom]

end

/-- Settles O29: the words by their fields, the marker by the steps of REGION with a stream open, each push by the one lemma about
pushes. -/
theorem steeringPushes : Obligations.SteeringPushes := by
  unfold Obligations.SteeringPushes
  refine ⟨fun a k sub => ?_, fun s c t live n h => ?_, fun s c t a k4 x w h ha _ hw => ?_⟩
  · refine ⟨?_, ?_, ?_, ?_, ?_⟩
    · rintro rfl; exact decode_spmask a k
    · rintro rfl; exact RoundTrip.spmaskn a _ rfl rfl
    · rintro rfl; exact RoundTrip.spcount a _ rfl rfl
    · rintro rfl; exact RoundTrip.spflag a _ rfl rfl
    · rintro rfl; exact RoundTrip.spval a _ rfl rfl
  · intro k hl hvend hopening hn hidle hstores hbank
    exact region_marker hl hvend hopening ((regionReady_iff k).mpr ⟨hidle, hstores, hbank⟩) h hn
  · exact ⟨pushes_spmask h hw, pushes_spmaskn h ha, pushes_spcount h ha, pushes_spflag h ha, pushes_spval h ha⟩

end Sys2Proof.Machine
end
